-- ==== Sys2Proof/Word.lean ====
section
/-! DEFINITION. The word types of the Speotte SX9 (spec 00 R7, 05 R100) and the table type: a list of
(key, value) pairs in one canonical form, used for memory, register files and every sparse store. -/
namespace Sys2Proof

/-- A general register's contents (R53). -/
abbrev W64 := BitVec 64
/-- An instruction word or accumulator element (R103, R236). -/
abbrev W32 := BitVec 32
/-- One byte of memory (R75). -/
abbrev Byte := BitVec 8
/-- A vector register's contents (R100). -/
abbrev VWord := BitVec 1024
/-- A predicate register's contents (R100). -/
abbrev PWord := BitVec 128

/-- Keys strictly rising, no entry equal to the default: `Table.wf` in Machine/Ops.lean. -/
abbrev Table (α : Type) := List (Nat × α)

/-- General register name (R100). -/
abbrev GReg := BitVec 4
/-- Vector register name. -/
abbrev VReg := BitVec 5
/-- Predicate register name. -/
abbrev PReg := BitVec 3
/-- Accumulator name. -/
abbrev AcReg := BitVec 3
/-- Token name. -/
abbrev TokReg := BitVec 3
/-- Queue register name. -/
abbrev QReg := BitVec 2

end Sys2Proof
end

