-- ==== Sys2Proof/Syntax.lean ====
section
/-! DEFINITION. The abstract syntax: one constructor of `Instr` per row of the table of operations and
events. The first 181 are the encoded Akust instructions (spec 05 to 09), the rest the steps that
engines, imposers, the memory system, the host and the firmware take by themselves (spec 95), whose operands
are an `EvArg` (no constructor above the 244th has fields: Lean's code generator allows no more). -/
namespace Sys2Proof

/-- The order field of a memory access (R82). -/
inductive Order where
  | relaxed | acquire | release | acqRel
  deriving DecidableEq, Repr

/-- Access size of an integer atomic or WAITV (R115): 4 or 8 bytes. -/
inductive ASize where
  | w | d
  deriving DecidableEq, Repr

/-- Access size of AADDF (R115): BF16 or F32. -/
inductive FSize where
  | bf | f
  deriving DecidableEq, Repr

/-- BARW scope (R116). -/
inductive BarScope where
  | row | col | die
  deriving DecidableEq, Repr

/-- PREF intent (R107). -/
inductive PrefIntent where
  | rd | wr | far
  deriving DecidableEq, Repr

/-- Lane types (R118). -/
inductive LaneType where
  | b | h | w | bf | f | f8 | bfz | fz
  deriving DecidableEq, Repr

/-- Format codes (R120). -/
inductive Fmt where
  | i8 | i4 | mx8 | f8 | bf | f | w
  deriving DecidableEq, Repr

/-- ID selectors (R183). -/
inductive IdSel where
  | slot | rank | team | tile | origin | bx | by_ | bz | block | ext | edition | asid | spad | yreq
  | deadline | impAddr | impOld | impNew | impCount | impArg | impEntry
  deriving DecidableEq, Repr

/-- Causes of the undefined-instruction fault, lowest code first (R123). -/
inductive UndefCause where
  | zeroWord | unassigned | reservedField | badImx | operandType
  deriving DecidableEq, Repr

/-- What a fetch can raise (R126, R362). -/
inductive FetchFault where
  | access | alignment | poisoned
  deriving DecidableEq, Repr

/-- How the host completes a request (R156, R164). -/
inductive HostStatus where
  | ok | error | poisoned
  deriving DecidableEq, Repr

/-- A write that arrives from PCIe or the fabric on behalf of the host or another context (R174, R196).
`key` is the first byte's place in `State.mem`; `addr` the address watches match on; `asid` the context
whose memory it is. -/
structure HostWrite where
  key : Nat
  addr : W64
  asid : Nat
  bytes : List Byte
  deriving DecidableEq, Repr

/-- What the memory manager can decide about a page (R349, R356 kind 3). -/
inductive MMOutcome where
  | mapped | unresolvable | unmapped
  deriving DecidableEq, Repr

/-- A decision of the memory manager, with the page-table doublewords it writes (PA, value). -/
structure MMDecision where
  asid : Nat
  va : W64
  outcome : MMOutcome
  writes : List (Nat × W64)
  deriving DecidableEq, Repr

/-- The memory manager's plan for a migration (R352, R353): the page's context and address, its leaf's
place, the new leaf, and the target die. -/
structure MigratePlan where
  asid : Nat
  va : W64
  pteKey : Nat
  newLeaf : W64
  deriving DecidableEq, Repr

/-- A firmware image in the staging window (R375): core, version, and its bytes, header included. -/
structure FwImage where
  core : Nat
  version : Nat
  bytes : List Byte
  deriving DecidableEq, Repr

/-- A link flit: its sequence number, whether its link check passes, its poison bit, virtual channel,
payload and sideband check word (R377), and the line that it carries. -/
structure Flit where
  seq : Nat
  good : Bool
  poison : Bool
  vc : Nat
  payload : List Byte
  check : W32
  /-- PA and context of the line it carries -/
  pa : Nat := 0
  asid : Nat := 0
  deriving DecidableEq, Repr

/-- The operands of a step that has no encoding: who takes it and with what. It stands in
`State.ev` while the step is taken; each step reads the fields it needs. -/
structure EvArg where
  pkg : Nat := 0
  die : Nat := 0
  tile : Nat := 0
  slot : Nat := 0
  asid : Nat := 0
  /-- edition identifier -/
  ident : Nat := 0
  /-- order number of a packet, store, answer or entry; function number of a command -/
  n : Nat := 0
  /-- queue, port, core, code, offset, line: the step says which -/
  k : Nat := 0
  lane : Nat := 0
  gen : Byte := 0
  flag : Bool := false
  value : W64 := 0
  scope : BarScope := .row
  status : HostStatus := .ok
  write : Option HostWrite := none
  decision : Option MMDecision := none
  plan : Option MigratePlan := none
  images : List FwImage := []
  flit : Option Flit := none
  words : List W64 := []
  fetch : FetchFault := .access
  cause : UndefCause := .zeroWord
  toDie : Option Nat := none
  deriving DecidableEq, Repr

/-- One constructor per row of spec/opcode_table.json. -/
inductive Instr where
  /-- R142 -/
  | add (d a b : GReg)
  /-- R142 -/
  | sub (d a b : GReg)
  /-- R142 -/
  | and (d a b : GReg)
  /-- R142 -/
  | or (d a b : GReg)
  /-- R142 -/
  | xor (d a b : GReg)
  /-- R142 -/
  | andn (d a b : GReg)
  /-- R142 -/
  | shl (d a b : GReg)
  /-- R142 -/
  | shr (d a b : GReg)
  /-- R142 -/
  | sar (d a b : GReg)
  /-- R142 -/
  | min (d a b : GReg)
  /-- R142 -/
  | max (d a b : GReg)
  /-- R142 -/
  | minu (d a b : GReg)
  /-- R142 -/
  | maxu (d a b : GReg)
  /-- R142 -/
  | slt (d a b : GReg)
  /-- R142 -/
  | sltu (d a b : GReg)
  /-- R142 -/
  | seq (d a b : GReg)
  /-- R143: c names the condition register -/
  | sel (d a b c : GReg)
  /-- R143 -/
  | clz (d a : GReg)
  /-- R143 -/
  | ctz (d a : GReg)
  /-- R143 -/
  | popc (d a : GReg)
  /-- R144 -/
  | ext (d a b c : GReg)
  /-- R144 -/
  | ins (d a b c : GReg)
  /-- R145: n is the shift count -/
  | lea (d a b : GReg) (n : BitVec 4)
  /-- R145 -/
  | tad (d a b : GReg)
  /-- R146 -/
  | mul (d a b : GReg)
  /-- R146 -/
  | mulh (d a b : GReg)
  /-- R146 -/
  | mulhu (d a b : GReg)
  /-- R146 -/
  | div (d a b : GReg)
  /-- R146 -/
  | divu (d a b : GReg)
  /-- R146 -/
  | rem (d a b : GReg)
  /-- R146 -/
  | remu (d a b : GReg)
  /-- R147; imm at the combined width of R105 -/
  | addi (d a : GReg) (imm : BitVec 40)
  /-- R147; imm at the combined width of R105 -/
  | andi (d a : GReg) (imm : BitVec 40)
  /-- R147; imm at the combined width of R105 -/
  | ori (d a : GReg) (imm : BitVec 40)
  /-- R147; imm at the combined width of R105 -/
  | xori (d a : GReg) (imm : BitVec 40)
  /-- R147 -/
  | shli (d a : GReg) (n : BitVec 6)
  /-- R147 -/
  | shri (d a : GReg) (n : BitVec 6)
  /-- R147 -/
  | sari (d a : GReg) (n : BitVec 6)
  /-- R147 -/
  | slti (d a : GReg) (imm : BitVec 40)
  /-- R147 -/
  | li (d : GReg) (imm : BitVec 40)
  /-- R147, R105: the immediate is below 2^32 -/
  | lih (d : GReg) (imm : BitVec 32)
  /-- R148; off in words (R105) -/
  | beq (a b : GReg) (off : BitVec 40)
  /-- R148; off in words (R105) -/
  | bne (a b : GReg) (off : BitVec 40)
  /-- R148; off in words (R105) -/
  | blt (a b : GReg) (off : BitVec 40)
  /-- R148; off in words (R105) -/
  | bge (a b : GReg) (off : BitVec 40)
  /-- R148; off in words (R105) -/
  | bltu (a b : GReg) (off : BitVec 40)
  /-- R148; off in words (R105) -/
  | bgeu (a b : GReg) (off : BitVec 40)
  /-- R148 -/
  | beqz (a : GReg) (off : BitVec 40)
  /-- R148 -/
  | bnez (a : GReg) (off : BitVec 40)
  /-- R149 -/
  | jal (d : GReg) (off : BitVec 44)
  /-- R149 -/
  | jalr (d a : GReg) (imm : BitVec 40)
  /-- R151, R154 -/
  | ldb (d base : GReg) (ord : Order) (off : BitVec 38)
  /-- R151, R154 -/
  | ldbu (d base : GReg) (ord : Order) (off : BitVec 38)
  /-- R151, R154 -/
  | ldh (d base : GReg) (ord : Order) (off : BitVec 38)
  /-- R151, R154 -/
  | ldhu (d base : GReg) (ord : Order) (off : BitVec 38)
  /-- R151, R154 -/
  | ldw (d base : GReg) (ord : Order) (off : BitVec 38)
  /-- R151, R154 -/
  | ldwu (d base : GReg) (ord : Order) (off : BitVec 38)
  /-- R151, R154 -/
  | ldd (d base : GReg) (ord : Order) (off : BitVec 38)
  /-- R158 -/
  | ldc (d base : GReg) (off : BitVec 38)
  /-- R151, R155 -/
  | stb (s base : GReg) (ord : Order) (off : BitVec 38)
  /-- R151, R155 -/
  | sth (s base : GReg) (ord : Order) (off : BitVec 38)
  /-- R151, R155 -/
  | stw (s base : GReg) (ord : Order) (off : BitVec 38)
  /-- R151, R155 -/
  | std (s base : GReg) (ord : Order) (off : BitVec 38)
  /-- R159 -/
  | aadd (d addr val : GReg) (ord : Order) (size : ASize)
  /-- R159 -/
  | aand (d addr val : GReg) (ord : Order) (size : ASize)
  /-- R159 -/
  | aor (d addr val : GReg) (ord : Order) (size : ASize)
  /-- R159 -/
  | axor (d addr val : GReg) (ord : Order) (size : ASize)
  /-- R159 -/
  | amin (d addr val : GReg) (ord : Order) (size : ASize)
  /-- R159 -/
  | amax (d addr val : GReg) (ord : Order) (size : ASize)
  /-- R159 -/
  | aminu (d addr val : GReg) (ord : Order) (size : ASize)
  /-- R159 -/
  | amaxu (d addr val : GReg) (ord : Order) (size : ASize)
  /-- R159 -/
  | aswp (d addr val : GReg) (ord : Order) (size : ASize)
  /-- R159 -/
  | acas (d addr val cmp : GReg) (ord : Order) (size : ASize)
  /-- R160 -/
  | aaddf (d addr val : GReg) (ord : Order) (size : FSize)
  /-- R161 -/
  | radd (addr val : GReg) (ord : Order) (size : ASize)
  /-- R89 -/
  | fenceL
  /-- R90 -/
  | fenceH
  /-- R170 -/
  | bart
  /-- R172 -/
  | barw (d a : GReg) (scope : BarScope)
  /-- R173 -/
  | waitv (a b : GReg) (size : ASize)
  /-- R174 -/
  | waitx (d a : GReg)
  /-- R175 -/
  | yield (a : GReg)
  /-- R179 -/
  | qsnd (a : GReg) (q : QReg)
  /-- R179 -/
  | qrcv (d : GReg) (q : QReg)
  /-- R179 -/
  | qtry (d a : GReg) (q : QReg)
  /-- R179 -/
  | qcnt (d : GReg) (q : QReg)
  /-- R180 -/
  | fork (a b : GReg)
  /-- R63, R181 -/
  | join
  /-- R181 -/
  | exit
  /-- R65 -/
  | go (a : GReg)
  /-- R65 -/
  | home
  /-- R182 -/
  | prio (a : GReg)
  /-- R183 -/
  | id (d : GReg) (sel : IdSel)
  /-- R185 -/
  | launch (a : GReg) (t : TokReg)
  /-- R190 -/
  | next (a : GReg) (t : TokReg)
  /-- R191 -/
  | estat (a b : GReg) (t : TokReg)
  /-- R193 -/
  | cancel (a : GReg) (kill : Bool) (t : TokReg)
  /-- R194 -/
  | watch (d a : GReg)
  /-- R199 -/
  | unwatch (a : GReg)
  /-- R200 -/
  | wqry (d a : GReg)
  /-- R202 -/
  | trap (code : Byte)
  /-- R202 -/
  | brk (code : Byte)
  /-- R203 -/
  | halt
  /-- R201; every number but 0x104, which has a row of its own -/
  | srd (d : GReg) (n : BitVec 12)
  /-- R201; every number but 0x105 and 0x109 -/
  | swr (a : GReg) (n : BitVec 12)
  /-- R304 -/
  | srdSysFhead (d : GReg)
  /-- R304 -/
  | swrSysFtail (a : GReg)
  /-- R301 -/
  | swrSysCtxload (a : GReg)
  /-- R107 -/
  | nop
  /-- R110 -/
  | wait (mask : Byte)
  /-- R111 -/
  | pref (base : GReg) (intent : PrefIntent) (off : BitVec 16)
  /-- R111 -/
  | likely
  /-- R111 -/
  | unlikely
  /-- R213 -/
  | vld (d : VReg) (a : GReg) (p : PReg) (t : LaneType)
  /-- R213 -/
  | vst (s : VReg) (a : GReg) (p : PReg) (t : LaneType)
  /-- R213 -/
  | vlds (d : VReg) (a b : GReg) (p : PReg) (t : LaneType)
  /-- R213 -/
  | vsts (s : VReg) (a b : GReg) (p : PReg) (t : LaneType)
  /-- R213 -/
  | vgth (d : VReg) (a : GReg) (i : VReg) (p : PReg) (t : LaneType)
  /-- R213 -/
  | vsct (s : VReg) (a : GReg) (i : VReg) (p : PReg) (t : LaneType)
  /-- R213 -/
  | vldt (d : VReg) (a b : GReg) (p : PReg) (t : LaneType)
  /-- R215 -/
  | vxch (d a : VReg) (p : PReg) (t : LaneType)
  /-- R214 -/
  | vbcst (d : VReg) (a : GReg) (p : PReg) (t : LaneType)
  /-- R214 -/
  | vmov (d a : VReg) (p : PReg) (t : LaneType)
  /-- R216, R217 -/
  | vadd (d a b : VReg) (p : PReg) (t : LaneType)
  /-- R216, R217 -/
  | vsub (d a b : VReg) (p : PReg) (t : LaneType)
  /-- R216, R217 -/
  | vmul (d a b : VReg) (p : PReg) (t : LaneType)
  /-- R216, R217 -/
  | vmac (d a b : VReg) (p : PReg) (t : LaneType)
  /-- R216, R217 -/
  | vfma (d a b : VReg) (p : PReg) (t : LaneType)
  /-- R216, R217 -/
  | vmin (d a b : VReg) (p : PReg) (t : LaneType)
  /-- R216, R217 -/
  | vmax (d a b : VReg) (p : PReg) (t : LaneType)
  /-- R216, R217 -/
  | vabs (d a : VReg) (p : PReg) (t : LaneType)
  /-- R216, R217 -/
  | vneg (d a : VReg) (p : PReg) (t : LaneType)
  /-- R216 -/
  | vshl (d a b : VReg) (p : PReg) (t : LaneType)
  /-- R216 -/
  | vshr (d a b : VReg) (p : PReg) (t : LaneType)
  /-- R216 -/
  | vsar (d a b : VReg) (p : PReg) (t : LaneType)
  /-- R216 -/
  | vand (d a b : VReg) (p : PReg) (t : LaneType)
  /-- R216 -/
  | vor (d a b : VReg) (p : PReg) (t : LaneType)
  /-- R216 -/
  | vxor (d a b : VReg) (p : PReg) (t : LaneType)
  /-- R218 -/
  | vsel (d a b : VReg) (p : PReg) (t : LaneType)
  /-- R219 -/
  | vcmpEq (d : PReg) (a b : VReg) (p : PReg) (t : LaneType)
  /-- R219 -/
  | vcmpNe (d : PReg) (a b : VReg) (p : PReg) (t : LaneType)
  /-- R219 -/
  | vcmpLt (d : PReg) (a b : VReg) (p : PReg) (t : LaneType)
  /-- R219 -/
  | vcmpLe (d : PReg) (a b : VReg) (p : PReg) (t : LaneType)
  /-- R219 -/
  | vcmpLtu (d : PReg) (a b : VReg) (p : PReg) (t : LaneType)
  /-- R219 -/
  | vcmpLeu (d : PReg) (a b : VReg) (p : PReg) (t : LaneType)
  /-- R220, R221 -/
  | vrsum (d a : VReg) (p : PReg) (t : LaneType)
  /-- R220, R221 -/
  | vrmax (d a : VReg) (p : PReg) (t : LaneType)
  /-- R220, R221 -/
  | vrmin (d a : VReg) (p : PReg) (t : LaneType)
  /-- R222; z, s and src stand in the vb field (R120) -/
  | vcvt (d a : VReg) (z s : Bool) (src : Fmt) (p : PReg) (dst : Fmt)
  /-- R227, R228 -/
  | vqnt (d a : VReg) (g : GReg) (p : PReg) (dst : Fmt)
  /-- R229 -/
  | vdq (d a : VReg) (g : GReg) (p : PReg) (dst : Fmt)
  /-- R230 -/
  | vexp2 (d a : VReg) (p : PReg) (t : LaneType)
  /-- R230 -/
  | vrcp (d a : VReg) (p : PReg) (t : LaneType)
  /-- R230 -/
  | vrsq (d a : VReg) (p : PReg) (t : LaneType)
  /-- R231 -/
  | vtunp (d a : VReg) (p : PReg)
  /-- R232 -/
  | vtpk (d a : VReg) (p : PReg)
  /-- R233 -/
  | vperm (d a i : VReg) (p : PReg) (t : LaneType)
  /-- R233 -/
  | vslid (d a : VReg) (b : GReg) (p : PReg) (t : LaneType)
  /-- R234 -/
  | pand (d a b : PReg)
  /-- R234 -/
  | por (d a b : PReg)
  /-- R234 -/
  | pnot (d a : PReg)
  /-- R234 -/
  | pcnt (d : GReg) (a : PReg) (t : LaneType)
  /-- R235: the type is a mode -/
  | pset (d : PReg) (a : GReg) (m : LaneType)
  /-- R237: vb names the even register 2b -/
  | dmm (c : AcReg) (a : VReg) (b : BitVec 4) (t : LaneType)
  /-- R238 -/
  | dmmb (c : AcReg) (a : VReg) (b : BitVec 4) (p : PReg) (t : LaneType)
  /-- R240 -/
  | aclr (c : AcReg)
  /-- R240 -/
  | acrd (d : VReg) (c : AcReg) (g : GReg) (t : LaneType)
  /-- R240 -/
  | acwr (c : AcReg) (a : VReg) (g : GReg) (t : LaneType)
  /-- R269 -/
  | cpy (t : TokReg) (wait : Byte) (a b c : GReg)
  /-- R270 -/
  | cpyr (t : TokReg) (wait : Byte) (a b : GReg)
  /-- R271 -/
  | cpyg (t : TokReg) (wait : Byte) (a b c : GReg)
  /-- R272 -/
  | cfil (t : TokReg) (wait : Byte) (a b c : GReg)
  /-- R273 -/
  | cast (t : TokReg) (wait : Byte) (a b c : GReg)
  /-- R275 -/
  | cqnt (t : TokReg) (wait : Byte) (a b c : GReg)
  /-- R256 -/
  | fset (t : TokReg) (wait : Byte) (a b : GReg)
  /-- R259 -/
  | fmap (t : TokReg) (wait : Byte) (a b c : GReg)
  /-- R261 -/
  | fmm (t : TokReg) (wait : Byte) (a b c : GReg)
  /-- R265 -/
  | fmmt (t : TokReg) (wait : Byte) (a b c : GReg)
  /-- R266 -/
  | fscl (t : TokReg) (wait : Byte) (a b : GReg)
  /-- R267 -/
  | fclr (t : TokReg) (wait : Byte) (a : GReg)
  /-- R268 -/
  | fprb (t : TokReg) (wait : Byte) (a b : GReg)
  /-- R247. The forme engine starts its oldest queued operation once the previous busy time has ended, and executes it. -/
  | formeOpStart
  /-- R247. The copy engine starts its oldest queued operation once the previous busy time has ended, and executes it. -/
  | copyOpStart
  /-- R273. A direct CAST starts once both engines have ended every earlier busy time, and sets a chase from cast groups. -/
  | directCastStart
  /-- R247. An engine operation ends and completes or fails its token, in acceptance order. -/
  | engineTokenComplete
  /-- R359. In an idle forme clk the scrub recomputes one macro row's check word, marking the chase suspect on a mismatch. -/
  | proofingScrub
  /-- R215. Once both mirror teams are resident and have issued, the register exchange is performed and both sides retire. -/
  | vxchExchange
  /-- R321. The root imposer takes a launch, refuses it or assigns sequence number and identifier, writes the start record and broadcasts it. -/
  | launchAccept
  /-- R322. An edition's broadcast arrives at a package imposer and the edition becomes eligible there in sequence order. -/
  | editionBroadcast
  /-- R324. A package or die imposer's folio request is served with at most one folio of consecutive indices. -/
  | folioRequest
  /-- R323. A die imposer fills a free tile with the highest-class candidate, a swapped-out team or an undealt block. -/
  | blockDeal
  /-- R56. A dealt block is placed as a team on its tile with its initial state and grant, after pre-translation. -/
  | teamDispatch
  /-- R325. The root answers a NEXT request with the next work index or all ones. -/
  | nextService
  /-- R191. The root takes a snapshot status record of an edition for an ESTAT. -/
  | estatSnapshot
  /-- R190. An answer from the imposer tree arrives at the tile, is registered in scratchpad and completes its token. -/
  | imposerAnswer
  /-- R328. The root serves a CANCEL, stops dealing and NEXT answers, and broadcasts the cancellation. -/
  | cancelService
  /-- R328. A cancellation reaches an imposer or tile, dropping undealt blocks and, with kill, stopping dealt ones. -/
  | cancelBroadcast
  /-- R57. A block becomes complete when its strands, descendants and engine operations are done, and its tile is released. -/
  | blockComplete
  /-- R326. A block completion report travels from the die imposer to the package imposer and root. -/
  | completionReport
  /-- R327. A package imposer's edition report reaches the root, which merges it and may write the final record. -/
  | packageReport
  /-- R23. A free light slot takes the waiting strand that arrived first on the tile. -/
  | lightSlotTake
  /-- R62. An idle light slot steals the oldest deque entry from a victim tile in its steal domain. -/
  | steal
  /-- R65. A migrating strand's message arrives at the destination tile, waits for a slot and acquires. -/
  | migrationArrival
  /-- R170. The team barrier releases in the clk after the last arrival counts, and waiters acquire. -/
  | bartRelease
  /-- R172. A wire instance releases L clk after its last member raises its tap. -/
  | barwRelease
  /-- R172. A BARW's time limit expires; the strand withdraws its arrival and writes a timed-out status. -/
  | barwTimeout
  /-- R173. A registration changes the waited location; the WAITV reads again and retires if it differs. -/
  | waitvWake
  /-- R174. A wake event on a tile ends its waiting WAITX strands or sets the wake latch. -/
  | wakeEvent
  /-- R174. A WAITX's time limit expires and it ends with code 0. -/
  | waitxLimit
  /-- R357. After the all-asleep condition has held 256 clk, one strand is chosen, made resident and frozen with a fault. -/
  | allAsleepFault
  /-- R329. A team's residence reaches the quantum while a candidate waits, setting its yield request. -/
  | quantumExpiry
  /-- R329. A team asleep for 4096 clk with a candidate waiting has its yield request set. -/
  | asleepYieldTimeout
  /-- R332. With the request set and the deadline counter expired, the team stops issuing, exchanges banks and spills its grant. -/
  | forcedPreemption
  /-- R330. With no deadline, forced pre-emption takes effect floor(Q/16) clk after the request is set. -/
  | preemptGraceExpiry
  /-- R332. After the outgoing team's last engine operation completes, accumulators and token states exchange in 8 clk. -/
  | accTokenExchange
  /-- R332. After the last spilled line, the shadow bank is written to the save record, final once the side log is clear. -/
  | saveRecordWrite
  /-- R331. An incoming team, its lines filled and preload complete, acquires and issues its first instruction. -/
  | teamResume
  /-- R335. At a slice start or end minus L, the package sets the yield request of the teams on gang tiles. -/
  | gangPreSliceRequest
  /-- R335. A gang slice begins and the gang teams take their tiles. -/
  | gangSliceStart
  /-- R335. A gang slice ends and gang teams that have not yielded are forced out. -/
  | gangSliceEnd
  /-- R336. A package whose last gang team starts after the slice start posts a gang-late notice and may be reported to the host. -/
  | gangLateNotice
  /-- R320. A package is reset or bypassed; its blocks are killed or returned, and root loss ends the context's editions. -/
  | packageReset
  /-- R79. A store or RADD reaches its home and is registered, revoking the previous owner and comparing watched words. -/
  | storeRegistration
  /-- R285. The acknowledgement of a registration returns to the storing tile, letting held release actions complete. -/
  | registrationAck
  /-- R79. A tile evicts an owned L1 word, writing it back and returning ownership to the home. -/
  | ownedWordWriteback
  /-- R25. An access reaches another tile or its home, is grant-checked and performed, redirected, dropped or refused. -/
  | remoteAccessArrival
  /-- R25. The answer to a remote load or atomic returns, writing its register or trapping the held strand. -/
  | remoteAnswer
  /-- R164. A PCIe completion for a host load or AtomicOp returns, with data or an error. -/
  | hostCompletion
  /-- R174. A PCIe or fabric write by the host or another context arrives and is registered. -/
  | hostWriteIngress
  /-- R198. An entry's budget window ends and a new window count begins. -/
  | budgetWindowRoll
  /-- R197. A created impression takes a light slot on its target tile and issues its first instruction. -/
  | impressionStart
  /-- R90. A tile receives a FENCE.H serialise request, registers the context's stores, clears L1 and acknowledges. -/
  | serialiseRequest
  /-- R90. A serialise acknowledgement returns; with the last one the FENCE.H acquires and completes. -/
  | serialiseAck
  /-- R341. A TLB miss walks the page tables, fills the TLB or finds the page not present. -/
  | pageWalk
  /-- R349. The memory manager maps a faulting page or declares it unresolvable, settling held accesses and side-log entries. -/
  | mmFaultDecision
  /-- R343. The die agent invalidates a range of an ASID's TLB entries and completes once dependent accesses settle. -/
  | tlbRangedInvalidate
  /-- R348. A tile's dirty log is merged into the page-table d bits when it reaches 256 entries or at harvest. -/
  | dirtyLogMerge
  /-- R350. The die agent replays or discards a strand's side-log entries once its oldest fault is settled. -/
  | sideLogReplay
  /-- R352. The memory manager takes a migration notice and decides whether to migrate. -/
  | migrationNoticeTake
  /-- R353. The die agent copies and re-copies a page, then holds accesses, recalls ownership and switches the leaf. -/
  | pageMigration
  /-- R353. After the switch invalidation completes, held accesses are released to the new home in order. -/
  | migrationRelease
  /-- R304. A frozen strand's fault packet is written into the fault ring and counted in its edition's report. -/
  | faultPacketWrite
  /-- R298. A fault of a supervisor strand freezes it and posts an escalation to firmware core 3. -/
  | supervisorEscalation
  /-- R309. Control-word action 1 resumes a frozen or halted strand. -/
  | dbgResume
  /-- R309. Control-word action 2 kills the strand's block. -/
  | dbgKillBlock
  /-- R309. Control-word action 3 kills the strand's edition. -/
  | dbgKillEdition
  /-- R309. Control-word action 4 parks every strand of the block. -/
  | dbgPark
  /-- R309. Control-word action 5 halts a running strand and suspends all-asleep detection. -/
  | dbgHalt
  /-- R309. Control-word action 6 posts a frozen strand's packet to core 3. -/
  | dbgEscalate
  /-- R309. Control-word action 7 lets a halted strand issue one instruction or IMX pair and halt again. -/
  | dbgStep
  /-- R309. A window write to strand, team or scratchpad state is performed or refused with err set. -/
  | debugWindowWrite
  /-- R312. A write of the trace control doubleword changes tracing settings or restarts a frozen buffer. -/
  | traceControlWrite
  /-- R312. A trace trigger matches, records a trigger entry and the post entries, then freezes the buffer. -/
  | traceTrigger
  /-- R317. The marker takes the next frame submission, marks its samples and writes the frame and signed manifest. -/
  | frameMark
  /-- R365. A qtail write announces new commands in a queue, which the device then takes in ring order. -/
  | doorbell
  /-- R369. A BAR0 write in P4 is kept by the always-on latch and starts the wake. -/
  | doorbellLatch
  /-- R369. Once core 0 is live, latched writes and doorbell tails are replayed in order. -/
  | latchReplay
  /-- R371. The host consumes event entries, freeing slots for a lost summary and held completions. -/
  | evtailWrite
  /-- R371. A write of even enables or disables a function's event ring and command taking. -/
  | eventRingEnable
  /-- R365. A write to a BAR0 register that has no row of its own. -/
  | bar0RegisterWrite
  /-- R368. An active command resolves its data address and sends a handler to the home tile. -/
  | cmdActive
  /-- R368. An active message reaches its home tile, which creates a host-command handler strand. -/
  | activeMessageDelivery
  /-- R366. Writes a tensor-table entry. -/
  | cmdTensor
  /-- R323. Writes a tile's plate tag for a context. -/
  | cmdPlatetag
  /-- R317. Submits a frame to the provenance marker. -/
  | cmdFrame
  /-- R366. Writes a context entry and tile-grant rows to every die and reloads them. -/
  | cmdContext
  /-- R345. Returns frames to untagged. -/
  | cmdRelease
  /-- R378. Repair action 1 moves a logical tile row to the spare physical row. -/
  | repairTileRow
  /-- R360. Repair action 2 maps a spare macro in place of a named macro. -/
  | repairMacro
  /-- R378. Repair action 3 retires an LP6 channel from the address map. -/
  | repairLp6Channel
  /-- R378. Repair action 4 runs a down port on one lane. -/
  | repairLane
  /-- R378. Repair action 5 makes the ring skip a package. -/
  | repairPackageBypass
  /-- R378. Repair action 6 retires an untagged frame. -/
  | repairFrameRetire
  /-- R313. Signed secure request 1 sets the debug level, zeroing the key when raising to full from attested. -/
  | secureSetDebugLevel
  /-- R313. Signed secure request 2 loads the provenance key and restarts the frame counter. -/
  | secureLoadKey
  /-- R313. Signed secure request 3 zeroes the provenance key and ends marking. -/
  | secureZeroKey
  /-- R379. Power command returning dies or tiles to run state. -/
  | powerP0
  /-- R379. Power command gating the named tiles of one die. -/
  | powerP2
  /-- R379. Power command turning off the named dies. -/
  | powerP3
  /-- R379. Power command putting the package to sleep. -/
  | powerP4
  /-- R379. The exit from a low power state ends after its fixed time and the dies or package run again. -/
  | powerExitComplete
  /-- R372. Writes a signed attestation report with nonces, image digests and security state. -/
  | cmdAttest
  /-- R346. Copies host data into sealed frames. -/
  | cmdSealed
  /-- R329. Sets the yield request of the team on a named tile. -/
  | cmdYield
  /-- R375. Restores a firmware core from a verified image. -/
  | cmdResetcore
  /-- R372. A post arrives in a firmware core's inbound mailbox, holding the poster when full. -/
  | mailboxPost
  /-- R373. An uncorrectable error stops a firmware core and posts to the standby core 7. -/
  | coreFailure
  /-- R373. Core 7, image loaded and journal replayed, becomes live and posts held completions and notices. -/
  | takeoverLive
  /-- R376. Power-on runs the bring-up sequence from rails to loaded imposers. -/
  | bringUp
  /-- R377. A link flit arrives, is checked and acknowledged. -/
  | flitReceive
  /-- R377. A flit failing its check or unacknowledged within the replay window is resent. -/
  | flitReplay
  /-- R377. A lane fails training, taking its port down and proposing lane sparing. -/
  | laneTrainFail
  /-- R380. Every 1 ms core 4 reports draw above 95 % of a limit and junction temperature above 95 °C. -/
  | powerReport
  /-- R380. Current at 105 % of the limit removes power from the die, counted as a die reset. -/
  | currentTrip
  /-- R380. A junction at 110 °C trips the hardware protection. -/
  | thermalTrip
  /-- R356. A compute die resets; its blocks are killed, stores dropped and a die-reset notice posted. -/
  | dieReset
  /-- R123. A fetched word that decodes as no instruction (zero word, unassigned opcode, nonzero reserved field, bad IMX pairing or disallowed operand type) raises the undefined-instruction fault without retiring. -/
  | undefinedInstruction
  /-- R126. A fetch from a PC outside device virtual space, in host memory, on a page without execute permission, misaligned, or on a poisoned line raises the instruction-access, instruction-alignment or poisoned-data fault at fetch. -/
  | instructionFetchFault
  /-- R155. The host refuses a posted write that the endpoint has already accepted, and the store is recorded as a lost store without trapping the strand. -/
  | hostWriteRefused
  deriving DecidableEq, Repr

end Sys2Proof
end

