-- ==== Sys2Proof/WellFormed.lean ====
section
/-! DEFINITION. Well-formed instructions: the operand values the encoding tables admit (spec 05 R101, R105,
R115, R117 to R122, R167, R237; 08 R120) (a step that has no encoding has its
operands in an EvArg). -/
namespace Sys2Proof

/-- Integer lane types (R118). -/
def LaneType.isInt : LaneType → Bool
  | .b | .h | .w => true
  | .bf | .f | .f8 | .bfz | .fz => false

/-- BF16 and F32 lane types, with their flush-to-zero forms. -/
def LaneType.isFloat : LaneType → Bool
  | .bf | .f | .bfz | .fz => true
  | .b | .h | .w | .f8 => false

/-- The six types without flush-to-zero (R119). -/
def LaneType.noFlush : LaneType → Bool
  | .bfz | .fz => false
  | .b | .h | .w | .bf | .f | .f8 => true

/-- BF16 or F32 (R120). -/
def Fmt.isFloat : Fmt → Bool
  | .bf | .f => true
  | .i8 | .i4 | .mx8 | .f8 | .w => false

/-- The pairs of source and destination formats VCVT allows (R120). -/
def Fmt.cvtOk (src dst : Fmt) : Bool :=
  src != dst && (dst != .mx8 || src.isFloat) && (src != .mx8 || dst.isFloat)

/-- The rows of the table that are steps of the machine and have no instruction word. -/
def Instr.isEvent : Instr → Bool
  | .formeOpStart .. | .copyOpStart .. | .directCastStart .. | .engineTokenComplete .. 
  | .proofingScrub .. | .vxchExchange .. | .launchAccept .. | .editionBroadcast .. 
  | .folioRequest .. | .blockDeal .. | .teamDispatch .. | .nextService .. | .estatSnapshot .. 
  | .imposerAnswer .. | .cancelService .. | .cancelBroadcast .. | .blockComplete .. 
  | .completionReport .. | .packageReport .. | .lightSlotTake .. | .steal .. | .migrationArrival .. 
  | .bartRelease .. | .barwRelease .. | .barwTimeout .. | .waitvWake .. | .wakeEvent .. 
  | .waitxLimit .. | .allAsleepFault .. | .quantumExpiry .. | .asleepYieldTimeout .. 
  | .forcedPreemption .. | .preemptGraceExpiry .. | .accTokenExchange .. | .saveRecordWrite .. 
  | .teamResume .. | .gangPreSliceRequest .. | .gangSliceStart .. | .gangSliceEnd .. 
  | .gangLateNotice .. | .packageReset .. | .storeRegistration .. | .registrationAck .. 
  | .ownedWordWriteback .. | .remoteAccessArrival .. | .remoteAnswer .. | .hostCompletion .. 
  | .hostWriteIngress .. | .budgetWindowRoll .. | .impressionStart .. | .serialiseRequest .. 
  | .serialiseAck .. | .pageWalk .. | .mmFaultDecision .. | .tlbRangedInvalidate .. 
  | .dirtyLogMerge .. | .sideLogReplay .. | .migrationNoticeTake .. | .pageMigration .. 
  | .migrationRelease .. | .faultPacketWrite .. | .supervisorEscalation .. | .dbgResume .. 
  | .dbgKillBlock .. | .dbgKillEdition .. | .dbgPark .. | .dbgHalt .. | .dbgEscalate .. 
  | .dbgStep .. | .debugWindowWrite .. | .traceControlWrite .. | .traceTrigger .. | .frameMark .. 
  | .doorbell .. | .doorbellLatch .. | .latchReplay .. | .evtailWrite .. | .eventRingEnable .. 
  | .bar0RegisterWrite .. | .cmdActive .. | .activeMessageDelivery .. | .cmdTensor .. 
  | .cmdPlatetag .. | .cmdFrame .. | .cmdContext .. | .cmdRelease .. | .repairTileRow .. 
  | .repairMacro .. | .repairLp6Channel .. | .repairLane .. | .repairPackageBypass .. 
  | .repairFrameRetire .. | .secureSetDebugLevel .. | .secureLoadKey .. | .secureZeroKey .. 
  | .powerP0 .. | .powerP2 .. | .powerP3 .. | .powerP4 .. | .powerExitComplete .. | .cmdAttest .. 
  | .cmdSealed .. | .cmdYield .. | .cmdResetcore .. | .mailboxPost .. | .coreFailure .. 
  | .takeoverLive .. | .bringUp .. | .flitReceive .. | .flitReplay .. | .laneTrainFail .. 
  | .powerReport .. | .currentTrip .. | .thermalTrip .. | .dieReset .. | .undefinedInstruction .. 
  | .instructionFetchFault .. | .hostWriteRefused .. => true
  | .add .. | .sub .. | .and .. | .or .. | .xor .. | .andn .. | .shl .. | .shr .. | .sar .. 
  | .min .. | .max .. | .minu .. | .maxu .. | .slt .. | .sltu .. | .seq .. | .sel .. | .clz .. 
  | .ctz .. | .popc .. | .ext .. | .ins .. | .lea .. | .tad .. | .mul .. | .mulh .. | .mulhu .. 
  | .div .. | .divu .. | .rem .. | .remu .. | .addi .. | .andi .. | .ori .. | .xori .. | .shli .. 
  | .shri .. | .sari .. | .slti .. | .li .. | .lih .. | .beq .. | .bne .. | .blt .. | .bge .. 
  | .bltu .. | .bgeu .. | .beqz .. | .bnez .. | .jal .. | .jalr .. | .ldb .. | .ldbu .. | .ldh .. 
  | .ldhu .. | .ldw .. | .ldwu .. | .ldd .. | .ldc .. | .stb .. | .sth .. | .stw .. | .std .. 
  | .aadd .. | .aand .. | .aor .. | .axor .. | .amin .. | .amax .. | .aminu .. | .amaxu .. 
  | .aswp .. | .acas .. | .aaddf .. | .radd .. | .fenceL .. | .fenceH .. | .bart .. | .barw .. 
  | .waitv .. | .waitx .. | .yield .. | .qsnd .. | .qrcv .. | .qtry .. | .qcnt .. | .fork .. 
  | .join .. | .exit .. | .go .. | .home .. | .prio .. | .id .. | .launch .. | .next .. | .estat .. 
  | .cancel .. | .watch .. | .unwatch .. | .wqry .. | .trap .. | .brk .. | .halt .. | .srd .. 
  | .swr .. | .srdSysFhead .. | .swrSysFtail .. | .swrSysCtxload .. | .nop .. | .wait .. | .pref .. 
  | .likely .. | .unlikely .. | .vld .. | .vst .. | .vlds .. | .vsts .. | .vgth .. | .vsct .. 
  | .vldt .. | .vxch .. | .vbcst .. | .vmov .. | .vadd .. | .vsub .. | .vmul .. | .vmac .. 
  | .vfma .. | .vmin .. | .vmax .. | .vabs .. | .vneg .. | .vshl .. | .vshr .. | .vsar .. 
  | .vand .. | .vor .. | .vxor .. | .vsel .. | .vcmpEq .. | .vcmpNe .. | .vcmpLt .. | .vcmpLe .. 
  | .vcmpLtu .. | .vcmpLeu .. | .vrsum .. | .vrmax .. | .vrmin .. | .vcvt .. | .vqnt .. | .vdq .. 
  | .vexp2 .. | .vrcp .. | .vrsq .. | .vtunp .. | .vtpk .. | .vperm .. | .vslid .. | .pand .. 
  | .por .. | .pnot .. | .pcnt .. | .pset .. | .dmm .. | .dmmb .. | .aclr .. | .acrd .. | .acwr .. 
  | .cpy .. | .cpyr .. | .cpyg .. | .cfil .. | .cast .. | .cqnt .. | .fset .. | .fmap .. | .fmm .. 
  | .fmmt .. | .fscl .. | .fclr .. | .fprb .. => false

/-- Operands in the ranges the encoding admits. -/
def Instr.wf : Instr → Bool
  | .qtry d a _ => d != a
  | .srd _ n => n != 0x104 && (n.toNat < 4 || 0x100 ≤ n.toNat)
  | .swr _ n => n != 0x105 && n != 0x109 && (n.toNat < 4 || 0x100 ≤ n.toNat)
  | .vldt _ _ _ _ t => t.noFlush
  | .vbcst _ _ _ t => t.noFlush
  | .vadd _ _ _ _ t => t != .f8
  | .vsub _ _ _ _ t => t != .f8
  | .vmul _ _ _ _ t => t != .f8
  | .vmac _ _ _ _ t => t.isInt
  | .vfma _ _ _ _ t => t.isFloat
  | .vmin _ _ _ _ t => t.noFlush
  | .vmax _ _ _ _ t => t.noFlush
  | .vabs _ _ _ t => t.noFlush
  | .vneg _ _ _ t => t.noFlush
  | .vshl _ _ _ _ t => t.isInt
  | .vshr _ _ _ _ t => t.isInt
  | .vsar _ _ _ _ t => t.isInt
  | .vand _ _ _ _ t => t.isInt
  | .vor _ _ _ _ t => t.isInt
  | .vxor _ _ _ _ t => t.isInt
  | .vsel _ _ _ _ t => t.noFlush
  | .vcmpEq d _ _ _ t => d != 0 && t.noFlush
  | .vcmpNe d _ _ _ t => d != 0 && t.noFlush
  | .vcmpLt d _ _ _ t => d != 0 && t.noFlush
  | .vcmpLe d _ _ _ t => d != 0 && t.noFlush
  | .vcmpLtu d _ _ _ t => d != 0 && t.isInt
  | .vcmpLeu d _ _ _ t => d != 0 && t.isInt
  | .vrsum _ _ _ t => t != .f8
  | .vrmax _ _ _ t => t.noFlush
  | .vrmin _ _ _ t => t.noFlush
  | .vcvt _ _ z s src _ dst => Fmt.cvtOk src dst && (!z || src.isFloat || dst.isFloat) && (!s || dst == .f8)
  | .vqnt _ _ _ _ dst => (dst == .i8 || dst == .i4 || dst == .mx8)
  | .vdq _ _ _ _ dst => dst.isFloat
  | .vexp2 _ _ _ t => t.isFloat
  | .vrcp _ _ _ t => t.isFloat
  | .vrsq _ _ _ t => t.isFloat
  | .vperm _ _ _ _ t => t.isInt
  | .vslid _ _ _ _ t => t.isInt
  | .pand d _ _ => d != 0
  | .por d _ _ => d != 0
  | .pnot d _ => d != 0
  | .pcnt _ _ t => t.isInt
  | .pset d _ m => d != 0 && m.isInt
  | .dmm _ _ _ t => (t == .b || t == .f8)
  | .dmmb _ _ _ _ t => (t == .b || t == .f8)
  | .acrd _ _ _ t => (t == .w || t == .f)
  | .acwr _ _ _ t => (t == .w || t == .f)
  | .add .. | .sub .. | .and .. | .or .. | .xor .. | .andn .. | .shl .. | .shr .. | .sar .. 
  | .min .. | .max .. | .minu .. | .maxu .. | .slt .. | .sltu .. | .seq .. | .sel .. | .clz .. 
  | .ctz .. | .popc .. | .ext .. | .ins .. | .lea .. | .tad .. | .mul .. | .mulh .. | .mulhu .. 
  | .div .. | .divu .. | .rem .. | .remu .. | .addi .. | .andi .. | .ori .. | .xori .. | .shli .. 
  | .shri .. | .sari .. | .slti .. | .li .. | .lih .. | .beq .. | .bne .. | .blt .. | .bge .. 
  | .bltu .. | .bgeu .. | .beqz .. | .bnez .. | .jal .. | .jalr .. | .ldb .. | .ldbu .. | .ldh .. 
  | .ldhu .. | .ldw .. | .ldwu .. | .ldd .. | .ldc .. | .stb .. | .sth .. | .stw .. | .std .. 
  | .aadd .. | .aand .. | .aor .. | .axor .. | .amin .. | .amax .. | .aminu .. | .amaxu .. 
  | .aswp .. | .acas .. | .aaddf .. | .radd .. | .fenceL .. | .fenceH .. | .bart .. | .barw .. 
  | .waitv .. | .waitx .. | .yield .. | .qsnd .. | .qrcv .. | .qcnt .. | .fork .. | .join .. 
  | .exit .. | .go .. | .home .. | .prio .. | .id .. | .launch .. | .next .. | .estat .. 
  | .cancel .. | .watch .. | .unwatch .. | .wqry .. | .trap .. | .brk .. | .halt .. 
  | .srdSysFhead .. | .swrSysFtail .. | .swrSysCtxload .. | .nop .. | .wait .. | .pref .. 
  | .likely .. | .unlikely .. | .vld .. | .vst .. | .vlds .. | .vsts .. | .vgth .. | .vsct .. 
  | .vxch .. | .vmov .. | .vtunp .. | .vtpk .. | .aclr .. | .cpy .. | .cpyr .. | .cpyg .. 
  | .cfil .. | .cast .. | .cqnt .. | .fset .. | .fmap .. | .fmm .. | .fmmt .. | .fscl .. | .fclr .. 
  | .fprb .. | .formeOpStart .. | .copyOpStart .. | .directCastStart .. | .engineTokenComplete .. 
  | .proofingScrub .. | .vxchExchange .. | .launchAccept .. | .editionBroadcast .. 
  | .folioRequest .. | .blockDeal .. | .teamDispatch .. | .nextService .. | .estatSnapshot .. 
  | .imposerAnswer .. | .cancelService .. | .cancelBroadcast .. | .blockComplete .. 
  | .completionReport .. | .packageReport .. | .lightSlotTake .. | .steal .. | .migrationArrival .. 
  | .bartRelease .. | .barwRelease .. | .barwTimeout .. | .waitvWake .. | .wakeEvent .. 
  | .waitxLimit .. | .allAsleepFault .. | .quantumExpiry .. | .asleepYieldTimeout .. 
  | .forcedPreemption .. | .preemptGraceExpiry .. | .accTokenExchange .. | .saveRecordWrite .. 
  | .teamResume .. | .gangPreSliceRequest .. | .gangSliceStart .. | .gangSliceEnd .. 
  | .gangLateNotice .. | .packageReset .. | .storeRegistration .. | .registrationAck .. 
  | .ownedWordWriteback .. | .remoteAccessArrival .. | .remoteAnswer .. | .hostCompletion .. 
  | .hostWriteIngress .. | .budgetWindowRoll .. | .impressionStart .. | .serialiseRequest .. 
  | .serialiseAck .. | .pageWalk .. | .mmFaultDecision .. | .tlbRangedInvalidate .. 
  | .dirtyLogMerge .. | .sideLogReplay .. | .migrationNoticeTake .. | .pageMigration .. 
  | .migrationRelease .. | .faultPacketWrite .. | .supervisorEscalation .. | .dbgResume .. 
  | .dbgKillBlock .. | .dbgKillEdition .. | .dbgPark .. | .dbgHalt .. | .dbgEscalate .. 
  | .dbgStep .. | .debugWindowWrite .. | .traceControlWrite .. | .traceTrigger .. | .frameMark .. 
  | .doorbell .. | .doorbellLatch .. | .latchReplay .. | .evtailWrite .. | .eventRingEnable .. 
  | .bar0RegisterWrite .. | .cmdActive .. | .activeMessageDelivery .. | .cmdTensor .. 
  | .cmdPlatetag .. | .cmdFrame .. | .cmdContext .. | .cmdRelease .. | .repairTileRow .. 
  | .repairMacro .. | .repairLp6Channel .. | .repairLane .. | .repairPackageBypass .. 
  | .repairFrameRetire .. | .secureSetDebugLevel .. | .secureLoadKey .. | .secureZeroKey .. 
  | .powerP0 .. | .powerP2 .. | .powerP3 .. | .powerP4 .. | .powerExitComplete .. | .cmdAttest .. 
  | .cmdSealed .. | .cmdYield .. | .cmdResetcore .. | .mailboxPost .. | .coreFailure .. 
  | .takeoverLive .. | .bringUp .. | .flitReceive .. | .flitReplay .. | .laneTrainFail .. 
  | .powerReport .. | .currentTrip .. | .thermalTrip .. | .dieReset .. | .undefinedInstruction .. 
  | .instructionFetchFault .. | .hostWriteRefused .. => true

end Sys2Proof
end

