-- ==== Sys2Proof/Decode.lean ====
section
/-! DEFINITION. Decoder and encoder of the instruction words (spec 05, with the operand rows of 07 R167,
08 R119 and 09 R245). The decoder is total and refuses a word with the cause R123 gives it; the encoder is
written from the same tables. -/
namespace Sys2Proof

/-- What a word of an assigned opcode comes to: whether every must-be-zero field is zero (cause 2),
whether the instruction takes an IMX (cause 3), and the instruction, absent where a code field holds a
value its row does not allow (cause 4). -/
structure Cand where
  zeroOk : Bool
  imx : Bool
  ins : Option Instr

/-- The bits of a word from `lo`, `n` of them (R7). -/
abbrev bits (w : W32) (lo n : Nat) : BitVec n := w.extractLsb' lo n

/-- The immediate of R105, sign-extended from the field, or from payload and field when an IMX precedes. -/
def wideS {n : Nat} (pay : Option (BitVec 22)) (f : BitVec n) : BitVec (22 + n) :=
  match pay with
  | none => f.signExtend (22 + n)
  | some p => p ++ f

/-- The same, zero-extended (ANDI, ORI, XORI and LIH). -/
def wideZ {n : Nat} (pay : Option (BitVec 22)) (f : BitVec n) : BitVec (22 + n) :=
  match pay with
  | none => f.zeroExtend (22 + n)
  | some p => p ++ f

def laneOf (t : BitVec 3) : LaneType :=
  match t.toNat with
  | 0 => .b | 1 => .h | 2 => .w | 3 => .bf | 4 => .f | 5 => .f8 | 6 => .bfz | _ => .fz

def laneCode : LaneType → BitVec 3
  | .b => 0 | .h => 1 | .w => 2 | .bf => 3 | .f => 4 | .f8 => 5 | .bfz => 6 | .fz => 7

def fmtOf (t : BitVec 3) : Option Fmt :=
  match t.toNat with
  | 0 => some .i8 | 1 => some .i4 | 2 => some .mx8 | 3 => some .f8 | 4 => some .bf | 5 => some .f
  | 6 => some .w | _ => none

def fmtCode : Fmt → BitVec 3
  | .i8 => 0 | .i4 => 1 | .mx8 => 2 | .f8 => 3 | .bf => 4 | .f => 5 | .w => 6

def orderOf (o : BitVec 2) : Order :=
  match o.toNat with
  | 0 => .relaxed | 1 => .acquire | 2 => .release | _ => .acqRel

def orderCode : Order → BitVec 2
  | .relaxed => 0 | .acquire => 1 | .release => 2 | .acqRel => 3

/-- Sizes 0b10 and 0b11 (R115). -/
def asizeOf (s : BitVec 2) : Option ASize :=
  match s.toNat with
  | 2 => some .w | 3 => some .d | _ => none

def asizeCode : ASize → BitVec 2
  | .w => 2 | .d => 3

def idSelOf (n : Nat) : Option IdSel :=
  match n with
  | 0x00 => some .slot | 0x01 => some .rank | 0x02 => some .team | 0x03 => some .tile
  | 0x04 => some .origin | 0x05 => some .bx | 0x06 => some .by_ | 0x07 => some .bz
  | 0x08 => some .block | 0x09 => some .ext | 0x0A => some .edition | 0x0B => some .asid
  | 0x0C => some .spad | 0x0D => some .yreq | 0x0E => some .deadline | 0x10 => some .impAddr
  | 0x11 => some .impOld | 0x12 => some .impNew | 0x13 => some .impCount | 0x14 => some .impArg
  | 0x15 => some .impEntry | _ => none

def idSelCode : IdSel → Byte
  | .slot => 0x00 | .rank => 0x01 | .team => 0x02 | .tile => 0x03 | .origin => 0x04 | .bx => 0x05
  | .by_ => 0x06 | .bz => 0x07 | .block => 0x08 | .ext => 0x09 | .edition => 0x0A | .asid => 0x0B
  | .spad => 0x0C | .yreq => 0x0D | .deadline => 0x0E | .impAddr => 0x10 | .impOld => 0x11
  | .impNew => 0x12 | .impCount => 0x13 | .impArg => 0x14 | .impEntry => 0x15

/-- Keep an instruction only where its code field is allowed. -/
def allow (c : Bool) (i : Instr) : Option Instr := if c then some i else none

/-- Format A, majors 0x01 and 0x02 (R113). -/
def decodeInt (w : W32) (maj : Nat) : Option Cand :=
  let d := bits w 22 4; let a := bits w 18 4; let b := bits w 14 4; let c := bits w 0 4
  let f := (bits w 4 10).toNat
  let r3 (i : Instr) : Option Cand := some ⟨c == 0, false, some i⟩
  let r2 (i : Instr) : Option Cand := some ⟨b == 0 && c == 0, false, some i⟩
  let r4 (i : Instr) : Option Cand := some ⟨true, false, some i⟩
  match maj, f with
  | 1, 0x00 => r3 (.add d a b) | 1, 0x01 => r3 (.sub d a b) | 1, 0x02 => r3 (.and d a b)
  | 1, 0x03 => r3 (.or d a b) | 1, 0x04 => r3 (.xor d a b) | 1, 0x05 => r3 (.andn d a b)
  | 1, 0x06 => r3 (.shl d a b) | 1, 0x07 => r3 (.shr d a b) | 1, 0x08 => r3 (.sar d a b)
  | 1, 0x09 => r3 (.min d a b) | 1, 0x0A => r3 (.max d a b) | 1, 0x0B => r3 (.minu d a b)
  | 1, 0x0C => r3 (.maxu d a b) | 1, 0x0D => r3 (.slt d a b) | 1, 0x0E => r3 (.sltu d a b)
  | 1, 0x0F => r3 (.seq d a b) | 1, 0x10 => r4 (.sel d a b c) | 1, 0x11 => r2 (.clz d a)
  | 1, 0x12 => r2 (.ctz d a) | 1, 0x13 => r2 (.popc d a) | 1, 0x14 => r4 (.ext d a b c)
  | 1, 0x15 => r4 (.ins d a b c) | 1, 0x16 => r4 (.lea d a b c) | 1, 0x17 => r3 (.tad d a b)
  | 2, 0x00 => r3 (.mul d a b) | 2, 0x01 => r3 (.mulh d a b) | 2, 0x02 => r3 (.mulhu d a b)
  | 2, 0x03 => r3 (.div d a b) | 2, 0x04 => r3 (.divu d a b) | 2, 0x05 => r3 (.rem d a b)
  | 2, 0x06 => r3 (.remu d a b)
  | _, _ => none

/-- Formats I, B and J, majors 0x04 to 0x19 (R112, R114, R105). -/
def decodeImm (pay : Option (BitVec 22)) (w : W32) (maj : Nat) : Option Cand :=
  let d := bits w 22 4; let a := bits w 18 4; let i18 := bits w 0 18; let i22 := bits w 0 22
  let yes (i : Instr) : Option Cand := some ⟨true, true, some i⟩
  let sh (i : Instr) : Option Cand := some ⟨bits w 6 12 == 0, false, some i⟩
  match maj with
  | 0x04 => yes (.addi d a (wideS pay i18)) | 0x05 => yes (.andi d a (wideZ pay i18))
  | 0x06 => yes (.ori d a (wideZ pay i18)) | 0x07 => yes (.xori d a (wideZ pay i18))
  | 0x08 => sh (.shli d a (bits w 0 6)) | 0x09 => sh (.shri d a (bits w 0 6))
  | 0x0A => sh (.sari d a (bits w 0 6)) | 0x0B => yes (.slti d a (wideS pay i18))
  | 0x0C => some ⟨a == 0, true, some (.li d (wideS pay i18))⟩
  | 0x0D =>
    let imm := wideZ pay i18
    some ⟨a == 0 && imm.extractLsb' 32 8 == 0, true, some (.lih d (imm.extractLsb' 0 32))⟩
  | 0x10 => yes (.beq d a (wideS pay i18)) | 0x11 => yes (.bne d a (wideS pay i18))
  | 0x12 => yes (.blt d a (wideS pay i18)) | 0x13 => yes (.bge d a (wideS pay i18))
  | 0x14 => yes (.bltu d a (wideS pay i18)) | 0x15 => yes (.bgeu d a (wideS pay i18))
  | 0x16 => some ⟨a == 0, true, some (.beqz d (wideS pay i18))⟩
  | 0x17 => some ⟨a == 0, true, some (.bnez d (wideS pay i18))⟩
  | 0x18 => yes (.jal d (wideS pay i22)) | 0x19 => yes (.jalr d a (wideS pay i18))
  | _ => none

/-- Format M, majors 0x20 to 0x2B (R112, R114). -/
def decodeMem (pay : Option (BitVec 22)) (w : W32) (maj : Nat) : Option Cand :=
  let d := bits w 22 4; let a := bits w 18 4; let o := orderOf (bits w 16 2)
  let off := wideS pay (bits w 0 16)
  let yes (i : Instr) : Option Cand := some ⟨true, true, some i⟩
  match maj with
  | 0x20 => yes (.ldb d a o off) | 0x21 => yes (.ldbu d a o off) | 0x22 => yes (.ldh d a o off)
  | 0x23 => yes (.ldhu d a o off) | 0x24 => yes (.ldw d a o off) | 0x25 => yes (.ldwu d a o off)
  | 0x26 => yes (.ldd d a o off)
  | 0x27 => some ⟨bits w 16 2 == 0, true, some (.ldc d a off)⟩
  | 0x28 => yes (.stb d a o off) | 0x29 => yes (.sth d a o off) | 0x2A => yes (.stw d a o off)
  | 0x2B => yes (.std d a o off)
  | _ => none

/-- Format X, major 0x2C (R115). -/
def decodeAtomic (w : W32) : Option Cand :=
  let d := bits w 22 4; let a := bits w 18 4; let v := bits w 14 4; let c := bits w 10 4
  let o := orderOf (bits w 8 2); let z := bits w 0 2 == 0
  let sz := asizeOf (bits w 2 2)
  let r (f : ASize → Instr) : Option Cand := some ⟨z && c == 0, false, sz.map f⟩
  match (bits w 4 4).toNat with
  | 0x0 => r (.aadd d a v o) | 0x1 => r (.aand d a v o) | 0x2 => r (.aor d a v o)
  | 0x3 => r (.axor d a v o) | 0x4 => r (.amin d a v o) | 0x5 => r (.amax d a v o)
  | 0x6 => r (.aminu d a v o) | 0x7 => r (.amaxu d a v o) | 0x8 => r (.aswp d a v o)
  | 0x9 => some ⟨z, false, sz.map (.acas d a v c o)⟩
  | 0xA => some ⟨z && c == 0, false,
      match (bits w 2 2).toNat with
      | 1 => some (.aaddf d a v o .bf) | 2 => some (.aaddf d a v o .f) | _ => none⟩
  | 0xB => some ⟨z && c == 0 && d == 0, false, sz.map (.radd a v o)⟩
  | _ => none

/-- Format A, majors 0x30 to 0x35, and format I, majors 0x36 and 0x37 (R116, R117, R167). -/
def decodeCoord (w : W32) (maj : Nat) : Option Cand :=
  let d := bits w 22 4; let a := bits w 18 4; let b := bits w 14 4; let c := bits w 0 4
  let f := (bits w 4 10).toNat
  let d0 := d == 0; let a0 := a == 0; let b0 := b == 0; let c0 := c == 0
  let q := bits w 0 2; let t := bits w 0 3; let ch := bits w 2 2 == 0; let c3 := bits w 3 1 == 0
  let r (z : Bool) (i : Instr) : Option Cand := some ⟨z, false, some i⟩
  let n := bits w 0 12
  let numOk := n.toNat < 4 || 0x100 ≤ n.toNat
  match maj, f with
  | 0x30, 0 => r (d0 && a0 && b0 && c0) .fenceL | 0x30, 1 => r (d0 && a0 && b0 && c0) .fenceH
  | 0x30, 2 => r (d0 && a0 && b0 && c0) .bart
  | 0x30, 3 => some ⟨b0 && ch, false,
      match q.toNat with
      | 0 => some (.barw d a .row) | 1 => some (.barw d a .col) | 2 => some (.barw d a .die) | _ => none⟩
  | 0x30, 4 => some ⟨d0 && ch, false, (asizeOf q).map (.waitv a b)⟩
  | 0x30, 5 => r (b0 && c0) (.waitx d a) | 0x30, 6 => r (d0 && b0 && c0) (.yield a)
  | 0x31, 0 => r (d0 && b0 && ch) (.qsnd a q) | 0x31, 1 => r (a0 && b0 && ch) (.qrcv d q)
  | 0x31, 2 => r (b0 && ch && d != a) (.qtry d a q) | 0x31, 3 => r (a0 && b0 && ch) (.qcnt d q)
  | 0x32, 0 => r (d0 && c0) (.fork a b) | 0x32, 1 => r (d0 && a0 && b0 && c0) .join
  | 0x32, 2 => r (d0 && a0 && b0 && c0) .exit | 0x32, 3 => r (d0 && b0 && c0) (.go a)
  | 0x32, 4 => r (d0 && a0 && b0 && c0) .home | 0x32, 5 => r (d0 && b0 && c0) (.prio a)
  | 0x32, 6 => some ⟨a0, false, (idSelOf (b ++ c).toNat).map (.id d)⟩
  | 0x33, 0 => r (d0 && b0 && c3) (.launch a t) | 0x33, 1 => r (d0 && b0 && c3) (.next a t)
  | 0x33, 2 => r (d0 && c3) (.estat a b t) | 0x33, 3 => r (d0 && b0) (.cancel a (!c3) t)
  | 0x34, 0 => r (b0 && c0) (.watch d a) | 0x34, 1 => r (d0 && b0 && c0) (.unwatch a)
  | 0x34, 2 => r (b0 && c0) (.wqry d a)
  | 0x35, 0 => r (d0 && a0) (.trap (b ++ c)) | 0x35, 1 => r (d0 && a0) (.brk (b ++ c))
  | 0x35, 2 => r (d0 && a0 && b0 && c0) .halt
  | 0x36, _ => some ⟨a0 && bits w 12 6 == 0, false,
      if n == 0x104 then some (.srdSysFhead d) else allow numOk (.srd d n)⟩
  | 0x37, _ => some ⟨d0 && bits w 12 6 == 0, false,
      if n == 0x105 then some (.swrSysFtail a) else if n == 0x109 then some (.swrSysCtxload a)
      else allow numOk (.swr a n)⟩
  | _, _ => none

/-- Format E, majors 0x38 and 0x39 (R122, R245). -/
def decodeEngine (w : W32) (maj : Nat) : Option Cand :=
  let t := bits w 23 3; let m := bits w 15 8; let a := bits w 11 4; let b := bits w 7 4
  let c := bits w 3 4
  let r3 (i : Instr) : Option Cand := some ⟨true, false, some i⟩
  let r2 (i : Instr) : Option Cand := some ⟨c == 0, false, some i⟩
  match maj, (bits w 0 3).toNat with
  | 0x38, 0 => r3 (.cpy t m a b c) | 0x38, 1 => r2 (.cpyr t m a b) | 0x38, 2 => r3 (.cpyg t m a b c)
  | 0x38, 3 => r3 (.cfil t m a b c) | 0x38, 4 => r3 (.cast t m a b c) | 0x38, 5 => r3 (.cqnt t m a b c)
  | 0x39, 0 => r2 (.fset t m a b) | 0x39, 1 => r3 (.fmap t m a b c) | 0x39, 2 => r3 (.fmm t m a b c)
  | 0x39, 3 => r3 (.fmmt t m a b c) | 0x39, 4 => r2 (.fscl t m a b)
  | 0x39, 5 => some ⟨b == 0 && c == 0, false, some (.fclr t m a)⟩ | 0x39, 6 => r2 (.fprb t m a b)
  | _, _ => none

/-- Format V, majors 0x3A and 0x3B (R104, R119, R121). -/
def decodeVec (w : W32) (maj : Nat) : Option Cand :=
  let d := bits w 21 5; let a := bits w 16 5; let b := bits w 11 5; let p := bits w 8 3
  let t := laneOf (bits w 5 3)
  let ga := bits w 16 4; let gaOk := bits w 20 1 == 0; let gb := bits w 11 4; let gbOk := bits w 15 1 == 0
  let b0 := b == 0; let pd := bits w 21 3; let pdOk := bits w 24 2 == 0 && pd != 0
  let r (z : Bool) (ty : Bool) (i : Instr) : Option Cand := some ⟨z, false, allow ty i⟩
  let ar := t != .f8; let mv := t.noFlush; let it := t.isInt
  match maj, (bits w 0 5).toNat with
  | 0x3A, 0x00 => r (gaOk && b0) true (.vld d ga p t) | 0x3A, 0x01 => r (gaOk && b0) true (.vst d ga p t)
  | 0x3A, 0x02 => r (gaOk && gbOk) true (.vlds d ga gb p t)
  | 0x3A, 0x03 => r (gaOk && gbOk) true (.vsts d ga gb p t)
  | 0x3A, 0x04 => r gaOk true (.vgth d ga b p t) | 0x3A, 0x05 => r gaOk true (.vsct d ga b p t)
  | 0x3A, 0x06 => r (gaOk && gbOk) mv (.vldt d ga gb p t) | 0x3A, 0x07 => r b0 true (.vxch d a p t)
  | 0x3A, 0x08 => r (gaOk && b0) mv (.vbcst d ga p t) | 0x3A, 0x09 => r b0 true (.vmov d a p t)
  | 0x3B, 0x00 => r true ar (.vadd d a b p t) | 0x3B, 0x01 => r true ar (.vsub d a b p t)
  | 0x3B, 0x02 => r true ar (.vmul d a b p t) | 0x3B, 0x03 => r true it (.vmac d a b p t)
  | 0x3B, 0x04 => r true t.isFloat (.vfma d a b p t) | 0x3B, 0x05 => r true mv (.vmin d a b p t)
  | 0x3B, 0x06 => r true mv (.vmax d a b p t) | 0x3B, 0x07 => r b0 mv (.vabs d a p t)
  | 0x3B, 0x08 => r b0 mv (.vneg d a p t) | 0x3B, 0x09 => r true it (.vshl d a b p t)
  | 0x3B, 0x0A => r true it (.vshr d a b p t) | 0x3B, 0x0B => r true it (.vsar d a b p t)
  | 0x3B, 0x0C => r true it (.vand d a b p t) | 0x3B, 0x0D => r true it (.vor d a b p t)
  | 0x3B, 0x0E => r true it (.vxor d a b p t) | 0x3B, 0x0F => r true mv (.vsel d a b p t)
  | 0x3B, 0x10 => r pdOk mv (.vcmpEq pd a b p t) | 0x3B, 0x11 => r pdOk mv (.vcmpNe pd a b p t)
  | 0x3B, 0x12 => r pdOk mv (.vcmpLt pd a b p t) | 0x3B, 0x13 => r pdOk mv (.vcmpLe pd a b p t)
  | 0x3B, 0x14 => r pdOk it (.vcmpLtu pd a b p t) | 0x3B, 0x15 => r pdOk it (.vcmpLeu pd a b p t)
  | 0x3B, 0x16 => r b0 ar (.vrsum d a p t) | 0x3B, 0x17 => r b0 mv (.vrmax d a p t)
  | 0x3B, 0x18 => r b0 mv (.vrmin d a p t)
  | _, _ => none

/-- Format V, majors 0x3C and 0x3D (R119, R120, R121, R237). The type of PAND, POR, PNOT and ACLR is
read as a field that must be 0 (R118), so cause 2 (DEDUCED, log entry 40). -/
def decodeVec2 (w : W32) (maj : Nat) : Option Cand :=
  let d := bits w 21 5; let a := bits w 16 5; let b := bits w 11 5; let p := bits w 8 3
  let tc := bits w 5 3; let t := laneOf tc; let dst := fmtOf tc; let src := fmtOf (bits w 11 3)
  let gb := bits w 11 4; let gbOk := bits w 15 1 == 0
  let b0 := b == 0; let p0 := p == 0; let t0 := tc == 0
  let pd := bits w 21 3; let pdOk := bits w 24 2 == 0 && pd != 0
  let pa := bits w 16 3; let paOk := bits w 19 2 == 0; let pb := bits w 11 3; let pbOk := bits w 14 2 == 0
  let acOk := bits w 24 2 == 0
  let r (z : Bool) (ty : Bool) (i : Instr) : Option Cand := some ⟨z, false, allow ty i⟩
  match maj, (bits w 0 5).toNat with
  | 0x3C, 0x00 =>
    let z := bits w 15 1 == 1; let s := bits w 14 1 == 1
    let fl (x : Option Fmt) : Bool := match x with | some y => y.isFloat | none => false
    some ⟨(!z || fl src || fl dst) && (!s || dst == some .f8), false,
      match src, dst with
      | some x, some y => allow (Fmt.cvtOk x y) (.vcvt d a z s x p y)
      | _, _ => none⟩
  | 0x3C, 0x01 => some ⟨gbOk, false,
      dst.bind fun y => allow (y == .i8 || y == .i4 || y == .mx8) (.vqnt d a gb p y)⟩
  | 0x3C, 0x02 => some ⟨gbOk, false, dst.bind fun y => allow y.isFloat (.vdq d a gb p y)⟩
  | 0x3C, 0x03 => r b0 t.isFloat (.vexp2 d a p t) | 0x3C, 0x04 => r b0 t.isFloat (.vrcp d a p t)
  | 0x3C, 0x05 => r b0 t.isFloat (.vrsq d a p t) | 0x3C, 0x06 => r b0 (t == .b) (.vtunp d a p)
  | 0x3C, 0x07 => r b0 (t == .b) (.vtpk d a p) | 0x3C, 0x08 => r true t.isInt (.vperm d a b p t)
  | 0x3C, 0x09 => r gbOk t.isInt (.vslid d a gb p t)
  | 0x3C, 0x10 => r (pdOk && paOk && pbOk && p0 && t0) true (.pand pd pa pb)
  | 0x3C, 0x11 => r (pdOk && paOk && pbOk && p0 && t0) true (.por pd pa pb)
  | 0x3C, 0x12 => r (pdOk && paOk && b0 && p0 && t0) true (.pnot pd pa)
  | 0x3C, 0x13 => r (bits w 25 1 == 0 && paOk && b0 && p0) t.isInt (.pcnt (bits w 21 4) pa t)
  | 0x3C, 0x14 => r (pdOk && bits w 20 1 == 0 && b0 && p0) t.isInt (.pset pd (bits w 16 4) t)
  | 0x3D, 0x00 => r (acOk && bits w 11 1 == 0 && p0) (t == .b || t == .f8) (.dmm pd a (bits w 12 4) t)
  | 0x3D, 0x01 => r (acOk && bits w 11 1 == 0) (t == .b || t == .f8) (.dmmb pd a (bits w 12 4) p t)
  | 0x3D, 0x02 => r (acOk && a == 0 && b0 && p0 && t0) true (.aclr pd)
  | 0x3D, 0x03 => r (paOk && gbOk && p0) (t == .w || t == .f) (.acrd d pa gb t)
  | 0x3D, 0x04 => r (acOk && gbOk && p0) (t == .w || t == .f) (.acwr pd a gb t)
  | _, _ => none

/-- Format H, major 0x3F (R107). IMX itself is joined to the next word by `decodeWords`. -/
def decodeHint (w : W32) : Option Cand :=
  let r (z : Bool) (i : Instr) : Option Cand := some ⟨z, false, some i⟩
  match (bits w 22 4).toNat with
  | 0 => r (bits w 0 22 == 0) .nop
  | 1 => some ⟨true, false, none⟩
  | 2 => r (bits w 8 14 == 0) (.wait (bits w 0 8))
  | 3 => some ⟨true, false,
      match (bits w 16 2).toNat with
      | 0 => some (.pref (bits w 18 4) .rd (bits w 0 16)) | 1 => some (.pref (bits w 18 4) .wr (bits w 0 16))
      | 2 => some (.pref (bits w 18 4) .far (bits w 0 16)) | _ => none⟩
  | 4 => r (bits w 1 21 == 0) (if bits w 0 1 == 1 then .likely else .unlikely)
  | _ => none

/-- The assignment of major opcodes (R112); none where the word's opcode is unassigned. -/
def candOf (pay : Option (BitVec 22)) (w : W32) : Option Cand :=
  let m := (bits w 26 6).toNat
  if m < 0x03 then decodeInt w m
  else if m < 0x20 then decodeImm pay w m
  else if m < 0x2C then decodeMem pay w m
  else if m = 0x2C then decodeAtomic w
  else if m < 0x38 then decodeCoord w m
  else if m < 0x3A then decodeEngine w m
  else if m < 0x3C then decodeVec w m
  else if m < 0x3E then decodeVec2 w m
  else if m = 0x3F then decodeHint w
  else none

/-- One word, with the payload of the IMX before it if there is one. The lowest cause wins (R123). -/
def decodeOne (pay : Option (BitVec 22)) (w : W32) : Except UndefCause Instr :=
  if w == 0 then .error .zeroWord else
  match candOf pay w with
  | none => .error .unassigned
  | some c =>
    if !c.zeroOk then .error .reservedField
    else if pay.isSome && !c.imx then .error .badImx
    else match c.ins with
      | none => .error .operandType
      | some i => .ok i

/-- An IMX hint: major 0x3F, kind 1 (R107). -/
def isImx (w : W32) : Bool := bits w 22 10 == 0x3F1

/-- The word at the PC and the word after it, which counts only when the first is an IMX (R108). -/
def decodeWords (w w2 : W32) : Except UndefCause Instr :=
  if isImx w then decodeOne (some (bits w 0 22)) w2 else decodeOne none w

/-- A little-endian word of a byte list (R7), with the bytes after it. -/
def takeWord : List Byte → Option (W32 × List Byte)
  | a :: b :: c :: d :: r => some (d ++ c ++ b ++ a, r)
  | _ => none

/-- What the decoder finds at the start of a byte list. -/
inductive Decoded where
  | instr (i : Instr) (rest : List Byte)
  | undefined (c : UndefCause)
  | tooShort
  deriving DecidableEq, Repr

/-- The decoder, total on byte lists: a word, or an IMX pair. -/
def decode (bs : List Byte) : Decoded :=
  match takeWord bs with
  | none => .tooShort
  | some (w, r) =>
    if isImx w then
      match takeWord r with
      | none => .tooShort
      | some (w2, r2) =>
        match decodeWords w w2 with
        | .ok i => .instr i r2
        | .error c => .undefined c
    else match decodeWords w 0 with
      | .ok i => .instr i r
      | .error c => .undefined c

/-- The little-endian bytes of a word (R7). -/
def wordBytes (w : W32) : List Byte := [bits w 0 8, bits w 8 8, bits w 16 8, bits w 24 8]

/-- The instruction this decoder reads from the bits of the opcode table's numbering: the first word is
bits 31..0, the second bits 63..32, zeros above `nbits`. -/
def decodeTableWord (nbits w : Nat) : Option Instr :=
  let v := w % 2 ^ nbits
  match decode (wordBytes (BitVec.ofNat 32 v) ++ wordBytes (BitVec.ofNat 32 (v / 2 ^ 32))) with
  | .instr i _ => some i
  | _ => none

/-! The encoder, from the formats of R103 and the assignments of R112 to R122. -/

def fmtA (maj : BitVec 6) (d a b : GReg) (func : BitVec 10) (c : BitVec 4) : W32 :=
  maj ++ d ++ a ++ b ++ func ++ c
def fmtI (maj : BitVec 6) (d a : GReg) (imm : BitVec 18) : W32 := maj ++ d ++ a ++ imm
def fmtM (maj : BitVec 6) (d base : GReg) (o : Order) (off : BitVec 16) : W32 :=
  maj ++ d ++ base ++ orderCode o ++ off
def fmtX (d a v c : GReg) (o : Order) (op : BitVec 4) (size : BitVec 2) : W32 :=
  (0x2C : BitVec 6) ++ d ++ a ++ v ++ c ++ orderCode o ++ op ++ size ++ (0 : BitVec 2)
def fmtJ (maj : BitVec 6) (d : GReg) (off : BitVec 22) : W32 := maj ++ d ++ off
def fmtV (maj : BitVec 6) (d a b : BitVec 5) (p t : BitVec 3) (func : BitVec 5) : W32 :=
  maj ++ d ++ a ++ b ++ p ++ t ++ func
def fmtE (maj : BitVec 6) (t : TokReg) (m : Byte) (a b c : GReg) (func : BitVec 3) : W32 :=
  maj ++ t ++ m ++ a ++ b ++ c ++ func
def fmtH (kind : BitVec 4) (pay : BitVec 22) : W32 := (0x3F : BitVec 6) ++ kind ++ pay

/-- A V field that names a general, predicate or accumulator register (R104). -/
def gF (g : GReg) : BitVec 5 := (0 : BitVec 1) ++ g
def pF (p : BitVec 3) : BitVec 5 := (0 : BitVec 2) ++ p

/-- The word, preceded by an IMX where the immediate does not fit its field (R105, R132). `short` builds the
word from the field; `fits` says that extending the field gives the immediate back. -/
def withImm {n : Nat} (imm : BitVec (22 + n)) (fits : Bool) (mk : BitVec n → W32) : List W32 :=
  let low := imm.extractLsb' 0 n
  if fits then [mk low] else [fmtH 1 (imm.extractLsb' n 22), mk low]

/-- Sign-extending immediates. -/
def immS {n : Nat} (imm : BitVec (22 + n)) (mk : BitVec n → W32) : List W32 :=
  withImm imm ((imm.extractLsb' 0 n).signExtend (22 + n) == imm) mk
/-- Zero-extending immediates. -/
def immZ {n : Nat} (imm : BitVec (22 + n)) (mk : BitVec n → W32) : List W32 :=
  withImm imm ((imm.extractLsb' 0 n).zeroExtend (22 + n) == imm) mk

/-- The words of a well-formed instruction; a step that has no encoding has none. -/
def encode : Instr → List W32
  | .add d a b => [fmtA 0x1 d a b 0x0 0]
  | .sub d a b => [fmtA 0x1 d a b 0x1 0]
  | .and d a b => [fmtA 0x1 d a b 0x2 0]
  | .or d a b => [fmtA 0x1 d a b 0x3 0]
  | .xor d a b => [fmtA 0x1 d a b 0x4 0]
  | .andn d a b => [fmtA 0x1 d a b 0x5 0]
  | .shl d a b => [fmtA 0x1 d a b 0x6 0]
  | .shr d a b => [fmtA 0x1 d a b 0x7 0]
  | .sar d a b => [fmtA 0x1 d a b 0x8 0]
  | .min d a b => [fmtA 0x1 d a b 0x9 0]
  | .max d a b => [fmtA 0x1 d a b 0xa 0]
  | .minu d a b => [fmtA 0x1 d a b 0xb 0]
  | .maxu d a b => [fmtA 0x1 d a b 0xc 0]
  | .slt d a b => [fmtA 0x1 d a b 0xd 0]
  | .sltu d a b => [fmtA 0x1 d a b 0xe 0]
  | .seq d a b => [fmtA 0x1 d a b 0xf 0]
  | .sel d a b c => [fmtA 0x1 d a b 0x10 c]
  | .clz d a => [fmtA 0x1 d a 0 0x11 0]
  | .ctz d a => [fmtA 0x1 d a 0 0x12 0]
  | .popc d a => [fmtA 0x1 d a 0 0x13 0]
  | .ext d a b c => [fmtA 0x1 d a b 0x14 c]
  | .ins d a b c => [fmtA 0x1 d a b 0x15 c]
  | .lea d a b n => [fmtA 0x1 d a b 0x16 n]
  | .tad d a b => [fmtA 0x1 d a b 0x17 0]
  | .mul d a b => [fmtA 0x2 d a b 0x0 0]
  | .mulh d a b => [fmtA 0x2 d a b 0x1 0]
  | .mulhu d a b => [fmtA 0x2 d a b 0x2 0]
  | .div d a b => [fmtA 0x2 d a b 0x3 0]
  | .divu d a b => [fmtA 0x2 d a b 0x4 0]
  | .rem d a b => [fmtA 0x2 d a b 0x5 0]
  | .remu d a b => [fmtA 0x2 d a b 0x6 0]
  | .addi d a imm => immS (n := 18) imm (fmtI 0x4 d a)
  | .andi d a imm => immZ (n := 18) imm (fmtI 0x5 d a)
  | .ori d a imm => immZ (n := 18) imm (fmtI 0x6 d a)
  | .xori d a imm => immZ (n := 18) imm (fmtI 0x7 d a)
  | .shli d a n => [fmtI 0x8 d a ((0 : BitVec 12) ++ n)]
  | .shri d a n => [fmtI 0x9 d a ((0 : BitVec 12) ++ n)]
  | .sari d a n => [fmtI 0xa d a ((0 : BitVec 12) ++ n)]
  | .slti d a imm => immS (n := 18) imm (fmtI 0xb d a)
  | .li d imm => immS (n := 18) imm (fmtI 0xc d 0)
  | .lih d imm => immZ (n := 18) (imm.zeroExtend 40) (fmtI 0xd d 0)
  | .beq a b off => immS (n := 18) off (fmtI 0x10 a b)
  | .bne a b off => immS (n := 18) off (fmtI 0x11 a b)
  | .blt a b off => immS (n := 18) off (fmtI 0x12 a b)
  | .bge a b off => immS (n := 18) off (fmtI 0x13 a b)
  | .bltu a b off => immS (n := 18) off (fmtI 0x14 a b)
  | .bgeu a b off => immS (n := 18) off (fmtI 0x15 a b)
  | .beqz a off => immS (n := 18) off (fmtI 0x16 a 0)
  | .bnez a off => immS (n := 18) off (fmtI 0x17 a 0)
  | .jal d off => immS (n := 22) off (fmtJ 0x18 d)
  | .jalr d a imm => immS (n := 18) imm (fmtI 0x19 d a)
  | .ldb d base ord off => immS (n := 16) off (fmtM 0x20 d base ord)
  | .ldbu d base ord off => immS (n := 16) off (fmtM 0x21 d base ord)
  | .ldh d base ord off => immS (n := 16) off (fmtM 0x22 d base ord)
  | .ldhu d base ord off => immS (n := 16) off (fmtM 0x23 d base ord)
  | .ldw d base ord off => immS (n := 16) off (fmtM 0x24 d base ord)
  | .ldwu d base ord off => immS (n := 16) off (fmtM 0x25 d base ord)
  | .ldd d base ord off => immS (n := 16) off (fmtM 0x26 d base ord)
  | .ldc d base off => immS (n := 16) off (fmtM 0x27 d base .relaxed)
  | .stb s base ord off => immS (n := 16) off (fmtM 0x28 s base ord)
  | .sth s base ord off => immS (n := 16) off (fmtM 0x29 s base ord)
  | .stw s base ord off => immS (n := 16) off (fmtM 0x2a s base ord)
  | .std s base ord off => immS (n := 16) off (fmtM 0x2b s base ord)
  | .aadd d addr val ord size => [fmtX d addr val 0 ord 0x0 (asizeCode size)]
  | .aand d addr val ord size => [fmtX d addr val 0 ord 0x1 (asizeCode size)]
  | .aor d addr val ord size => [fmtX d addr val 0 ord 0x2 (asizeCode size)]
  | .axor d addr val ord size => [fmtX d addr val 0 ord 0x3 (asizeCode size)]
  | .amin d addr val ord size => [fmtX d addr val 0 ord 0x4 (asizeCode size)]
  | .amax d addr val ord size => [fmtX d addr val 0 ord 0x5 (asizeCode size)]
  | .aminu d addr val ord size => [fmtX d addr val 0 ord 0x6 (asizeCode size)]
  | .amaxu d addr val ord size => [fmtX d addr val 0 ord 0x7 (asizeCode size)]
  | .aswp d addr val ord size => [fmtX d addr val 0 ord 0x8 (asizeCode size)]
  | .acas d addr val cmp ord size => [fmtX d addr val cmp ord 0x9 (asizeCode size)]
  | .aaddf d addr val ord size => [fmtX d addr val 0 ord 0xa (match size with | .bf => 1 | .f => 2)]
  | .radd addr val ord size => [fmtX 0 addr val 0 ord 0xb (asizeCode size)]
  | .fenceL => [fmtA 0x30 0 0 0 0x0 0]
  | .fenceH => [fmtA 0x30 0 0 0 0x1 0]
  | .bart => [fmtA 0x30 0 0 0 0x2 0]
  | .barw d a scope => [fmtA 0x30 d a 0 0x3 (match scope with | .row => 0 | .col => 1 | .die => 2)]
  | .waitv a b size => [fmtA 0x30 0 a b 0x4 ((0 : BitVec 2) ++ asizeCode size)]
  | .waitx d a => [fmtA 0x30 d a 0 0x5 0]
  | .yield a => [fmtA 0x30 0 a 0 0x6 0]
  | .qsnd a q => [fmtA 0x31 0 a 0 0x0 ((0 : BitVec 2) ++ q)]
  | .qrcv d q => [fmtA 0x31 d 0 0 0x1 ((0 : BitVec 2) ++ q)]
  | .qtry d a q => [fmtA 0x31 d a 0 0x2 ((0 : BitVec 2) ++ q)]
  | .qcnt d q => [fmtA 0x31 d 0 0 0x3 ((0 : BitVec 2) ++ q)]
  | .fork a b => [fmtA 0x32 0 a b 0x0 0]
  | .join => [fmtA 0x32 0 0 0 0x1 0]
  | .exit => [fmtA 0x32 0 0 0 0x2 0]
  | .go a => [fmtA 0x32 0 a 0 0x3 0]
  | .home => [fmtA 0x32 0 0 0 0x4 0]
  | .prio a => [fmtA 0x32 0 a 0 0x5 0]
  | .id d sel => [fmtA 0x32 d 0 ((idSelCode sel).extractLsb' 4 4) 0x6 ((idSelCode sel).extractLsb' 0 4)]
  | .launch a t => [fmtA 0x33 0 a 0 0x0 ((0 : BitVec 1) ++ t)]
  | .next a t => [fmtA 0x33 0 a 0 0x1 ((0 : BitVec 1) ++ t)]
  | .estat a b t => [fmtA 0x33 0 a b 0x2 ((0 : BitVec 1) ++ t)]
  | .cancel a kill t => [fmtA 0x33 0 a 0 0x3 (BitVec.ofBool kill ++ t)]
  | .watch d a => [fmtA 0x34 d a 0 0x0 0]
  | .unwatch a => [fmtA 0x34 0 a 0 0x1 0]
  | .wqry d a => [fmtA 0x34 d a 0 0x2 0]
  | .trap code => [fmtA 0x35 0 0 (code.extractLsb' 4 4) 0x0 (code.extractLsb' 0 4)]
  | .brk code => [fmtA 0x35 0 0 (code.extractLsb' 4 4) 0x1 (code.extractLsb' 0 4)]
  | .halt => [fmtA 0x35 0 0 0 0x2 0]
  | .srd d n => [fmtI 0x36 d 0 ((0 : BitVec 6) ++ n)]
  | .swr a n => [fmtI 0x37 0 a ((0 : BitVec 6) ++ n)]
  | .srdSysFhead d => [fmtI 0x36 d 0 0x104]
  | .swrSysFtail a => [fmtI 0x37 0 a 0x105]
  | .swrSysCtxload a => [fmtI 0x37 0 a 0x109]
  | .nop => [fmtH 0 0]
  | .wait mask => [fmtH 2 ((0 : BitVec 14) ++ mask)]
  | .pref base intent off => [fmtH 3 (base ++ (match intent with | .rd => (0 : BitVec 2) | .wr => 1 | .far => 2) ++ off)]
  | .likely => [fmtH 4 1]
  | .unlikely => [fmtH 4 0]
  | .vld d a p t => [fmtV 0x3a d (gF a) 0 p (laneCode t) 0x0]
  | .vst s a p t => [fmtV 0x3a s (gF a) 0 p (laneCode t) 0x1]
  | .vlds d a b p t => [fmtV 0x3a d (gF a) (gF b) p (laneCode t) 0x2]
  | .vsts s a b p t => [fmtV 0x3a s (gF a) (gF b) p (laneCode t) 0x3]
  | .vgth d a i p t => [fmtV 0x3a d (gF a) i p (laneCode t) 0x4]
  | .vsct s a i p t => [fmtV 0x3a s (gF a) i p (laneCode t) 0x5]
  | .vldt d a b p t => [fmtV 0x3a d (gF a) (gF b) p (laneCode t) 0x6]
  | .vxch d a p t => [fmtV 0x3a d a 0 p (laneCode t) 0x7]
  | .vbcst d a p t => [fmtV 0x3a d (gF a) 0 p (laneCode t) 0x8]
  | .vmov d a p t => [fmtV 0x3a d a 0 p (laneCode t) 0x9]
  | .vadd d a b p t => [fmtV 0x3b d a b p (laneCode t) 0x0]
  | .vsub d a b p t => [fmtV 0x3b d a b p (laneCode t) 0x1]
  | .vmul d a b p t => [fmtV 0x3b d a b p (laneCode t) 0x2]
  | .vmac d a b p t => [fmtV 0x3b d a b p (laneCode t) 0x3]
  | .vfma d a b p t => [fmtV 0x3b d a b p (laneCode t) 0x4]
  | .vmin d a b p t => [fmtV 0x3b d a b p (laneCode t) 0x5]
  | .vmax d a b p t => [fmtV 0x3b d a b p (laneCode t) 0x6]
  | .vabs d a p t => [fmtV 0x3b d a 0 p (laneCode t) 0x7]
  | .vneg d a p t => [fmtV 0x3b d a 0 p (laneCode t) 0x8]
  | .vshl d a b p t => [fmtV 0x3b d a b p (laneCode t) 0x9]
  | .vshr d a b p t => [fmtV 0x3b d a b p (laneCode t) 0xa]
  | .vsar d a b p t => [fmtV 0x3b d a b p (laneCode t) 0xb]
  | .vand d a b p t => [fmtV 0x3b d a b p (laneCode t) 0xc]
  | .vor d a b p t => [fmtV 0x3b d a b p (laneCode t) 0xd]
  | .vxor d a b p t => [fmtV 0x3b d a b p (laneCode t) 0xe]
  | .vsel d a b p t => [fmtV 0x3b d a b p (laneCode t) 0xf]
  | .vcmpEq d a b p t => [fmtV 0x3b (pF d) a b p (laneCode t) 0x10]
  | .vcmpNe d a b p t => [fmtV 0x3b (pF d) a b p (laneCode t) 0x11]
  | .vcmpLt d a b p t => [fmtV 0x3b (pF d) a b p (laneCode t) 0x12]
  | .vcmpLe d a b p t => [fmtV 0x3b (pF d) a b p (laneCode t) 0x13]
  | .vcmpLtu d a b p t => [fmtV 0x3b (pF d) a b p (laneCode t) 0x14]
  | .vcmpLeu d a b p t => [fmtV 0x3b (pF d) a b p (laneCode t) 0x15]
  | .vrsum d a p t => [fmtV 0x3b d a 0 p (laneCode t) 0x16]
  | .vrmax d a p t => [fmtV 0x3b d a 0 p (laneCode t) 0x17]
  | .vrmin d a p t => [fmtV 0x3b d a 0 p (laneCode t) 0x18]
  | .vcvt d a z s src p dst => [fmtV 0x3c d a (BitVec.ofBool z ++ BitVec.ofBool s ++ fmtCode src) p (fmtCode dst) 0x0]
  | .vqnt d a g p dst => [fmtV 0x3c d a (gF g) p (fmtCode dst) 0x1]
  | .vdq d a g p dst => [fmtV 0x3c d a (gF g) p (fmtCode dst) 0x2]
  | .vexp2 d a p t => [fmtV 0x3c d a 0 p (laneCode t) 0x3]
  | .vrcp d a p t => [fmtV 0x3c d a 0 p (laneCode t) 0x4]
  | .vrsq d a p t => [fmtV 0x3c d a 0 p (laneCode t) 0x5]
  | .vtunp d a p => [fmtV 0x3c d a 0 p 0 0x6]
  | .vtpk d a p => [fmtV 0x3c d a 0 p 0 0x7]
  | .vperm d a i p t => [fmtV 0x3c d a i p (laneCode t) 0x8]
  | .vslid d a b p t => [fmtV 0x3c d a (gF b) p (laneCode t) 0x9]
  | .pand d a b => [fmtV 0x3c (pF d) (pF a) (pF b) 0 0 0x10]
  | .por d a b => [fmtV 0x3c (pF d) (pF a) (pF b) 0 0 0x11]
  | .pnot d a => [fmtV 0x3c (pF d) (pF a) 0 0 0 0x12]
  | .pcnt d a t => [fmtV 0x3c (gF d) (pF a) 0 0 (laneCode t) 0x13]
  | .pset d a m => [fmtV 0x3c (pF d) (gF a) 0 0 (laneCode m) 0x14]
  | .dmm c a b t => [fmtV 0x3d (pF c) a (b ++ (0 : BitVec 1)) 0 (laneCode t) 0x0]
  | .dmmb c a b p t => [fmtV 0x3d (pF c) a (b ++ (0 : BitVec 1)) p (laneCode t) 0x1]
  | .aclr c => [fmtV 0x3d (pF c) 0 0 0 0 0x2]
  | .acrd d c g t => [fmtV 0x3d d (pF c) (gF g) 0 (laneCode t) 0x3]
  | .acwr c a g t => [fmtV 0x3d (pF c) a (gF g) 0 (laneCode t) 0x4]
  | .cpy t wait a b c => [fmtE 0x38 t wait a b c 0]
  | .cpyr t wait a b => [fmtE 0x38 t wait a b 0 1]
  | .cpyg t wait a b c => [fmtE 0x38 t wait a b c 2]
  | .cfil t wait a b c => [fmtE 0x38 t wait a b c 3]
  | .cast t wait a b c => [fmtE 0x38 t wait a b c 4]
  | .cqnt t wait a b c => [fmtE 0x38 t wait a b c 5]
  | .fset t wait a b => [fmtE 0x39 t wait a b 0 0]
  | .fmap t wait a b c => [fmtE 0x39 t wait a b c 1]
  | .fmm t wait a b c => [fmtE 0x39 t wait a b c 2]
  | .fmmt t wait a b c => [fmtE 0x39 t wait a b c 3]
  | .fscl t wait a b => [fmtE 0x39 t wait a b 0 4]
  | .fclr t wait a => [fmtE 0x39 t wait a 0 0 5]
  | .fprb t wait a b => [fmtE 0x39 t wait a b 0 6]
  | .formeOpStart .. | .copyOpStart .. | .directCastStart .. | .engineTokenComplete ..
  | .proofingScrub .. | .vxchExchange .. | .launchAccept .. | .editionBroadcast ..
  | .folioRequest .. | .blockDeal .. | .teamDispatch .. | .nextService .. | .estatSnapshot ..
  | .imposerAnswer .. | .cancelService .. | .cancelBroadcast .. | .blockComplete ..
  | .completionReport .. | .packageReport .. | .lightSlotTake .. | .steal .. | .migrationArrival ..
  | .bartRelease .. | .barwRelease .. | .barwTimeout .. | .waitvWake .. | .wakeEvent ..
  | .waitxLimit .. | .allAsleepFault .. | .quantumExpiry .. | .asleepYieldTimeout ..
  | .forcedPreemption .. | .preemptGraceExpiry .. | .accTokenExchange .. | .saveRecordWrite ..
  | .teamResume .. | .gangPreSliceRequest .. | .gangSliceStart .. | .gangSliceEnd ..
  | .gangLateNotice .. | .packageReset .. | .storeRegistration .. | .registrationAck ..
  | .ownedWordWriteback .. | .remoteAccessArrival .. | .remoteAnswer .. | .hostCompletion ..
  | .hostWriteIngress .. | .budgetWindowRoll .. | .impressionStart .. | .serialiseRequest ..
  | .serialiseAck .. | .pageWalk .. | .mmFaultDecision .. | .tlbRangedInvalidate ..
  | .dirtyLogMerge .. | .sideLogReplay .. | .migrationNoticeTake .. | .pageMigration ..
  | .migrationRelease .. | .faultPacketWrite .. | .supervisorEscalation .. | .dbgResume ..
  | .dbgKillBlock .. | .dbgKillEdition .. | .dbgPark .. | .dbgHalt .. | .dbgEscalate ..
  | .dbgStep .. | .debugWindowWrite .. | .traceControlWrite .. | .traceTrigger .. | .frameMark ..
  | .doorbell .. | .doorbellLatch .. | .latchReplay .. | .evtailWrite .. | .eventRingEnable ..
  | .bar0RegisterWrite .. | .cmdActive .. | .activeMessageDelivery .. | .cmdTensor ..
  | .cmdPlatetag .. | .cmdFrame .. | .cmdContext .. | .cmdRelease .. | .repairTileRow ..
  | .repairMacro .. | .repairLp6Channel .. | .repairLane .. | .repairPackageBypass ..
  | .repairFrameRetire .. | .secureSetDebugLevel .. | .secureLoadKey .. | .secureZeroKey ..
  | .powerP0 .. | .powerP2 .. | .powerP3 .. | .powerP4 .. | .powerExitComplete .. | .cmdAttest ..
  | .cmdSealed .. | .cmdYield .. | .cmdResetcore .. | .mailboxPost .. | .coreFailure ..
  | .takeoverLive .. | .bringUp .. | .flitReceive .. | .flitReplay .. | .laneTrainFail ..
  | .powerReport .. | .currentTrip .. | .thermalTrip .. | .dieReset .. | .undefinedInstruction ..
  | .instructionFetchFault .. | .hostWriteRefused .. => []

end Sys2Proof
end

