-- ==== Sys2Proof/Machine/State.lean ====
section
/-! DEFINITION. The machine's state as plain data: everything the spec gives the part (INVENTORY.md,
'## State'), the model's own bookkeeping, the reasons a step can stop, and the state right after reset.
Addresses of parts: a tile is its 19-bit address (R3), a die is 4 * package + die. A `Table` field lists
only what differs from its default (Machine/Ops.lean says how it is read). -/
namespace Sys2Proof.Machine

/-! ## Strands -/

/-- The strand that issues: a tile's slot (R54) or a die supervisor's slot (R298). -/
inductive Ref where
  | tile (t slot : Nat)
  | sup (d slot : Nat)
  deriving DecidableEq, Repr

/-- R54 kind, with the supervisor strands of R298. -/
inductive Kind where
  | anchored | forked | impression | handler | supervisor
  deriving DecidableEq, Repr

/-- R308 state of an occupied slot. -/
inductive Run where
  | running | frozen | halted | parked
  deriving DecidableEq, Repr

/-- Where a byte is performed (R75): a tile's scratchpad, device memory, or host memory. -/
inductive Loc where
  | spad (tile off : Nat)
  | dev (pa : Nat)
  | host (bus : Nat)
  deriving DecidableEq, Repr

/-- A completion token (R21, R110, R249): its error word is meaningful while failed. -/
structure Tok where
  pending : Bool
  failed : Bool
  err : W64
  /-- the strand whose LAUNCH the token last tracked (R84) -/
  launch : Option Nat
  deriving DecidableEq, Repr

/-- Whose token (R21, R184): a team's, of a context, edition and block, or a light strand's own. -/
inductive TokOwner where
  | team (asid ident block : Nat)
  | strand (uid : Nat)
  deriving DecidableEq, Repr

/-- Why a strand is held (R73, R140, R246): the instruction at its PC has had no visible effect and issues
again, unless the step that ends the hold completes it. -/
inductive Hold where
  /-- release action: prior loads and stores (R80) -/
  | release
  /-- translation miss of a data access (R156) -/
  | xlate (va : W64)
  /-- a supervisor's store of n bytes on a page that is absent or not writable (R349) -/
  | storeMiss (ea : W64) (n : Nat)
  /-- translation miss of the fetch (R126) -/
  | fetch (va : W64)
  /-- full side log (R97) or full dirty log (R348) -/
  | logFull
  /-- load of a word in the side log (R97) -/
  | sideWord
  /-- answer of another tile (R25) -/
  | remote (n : Nat)
  /-- answer of the host (R156, R164) -/
  | host (n : Nat)
  /-- store with the acquire bit, until its registration (R155) -/
  | storeAcq (n : Nat)
  /-- a token of the mask, or tk, is pending (R110, R184, R246) -/
  | token (mask : Byte)
  /-- WAIT itself, which is asleep (R73) -/
  | wait (mask : Byte)
  | queueSend (q : QReg) (a : GReg)
  | queueRecv (q : QReg) (d : GReg)
  /-- engine queue full (R246) -/
  | engine
  | bart
  | barw (d : GReg) (scope : BarScope) (expires : Nat)
  | waitv (loc : Loc) (size : Nat) (v : W64)
  | waitx (d : GReg) (expires : Nat)
  /-- address and words of the save declaration as checked (R175) -/
  | yield (decl : W64) (words : List W64)
  | join
  /-- FORK at 65,535 children (asleep, R73) -/
  | forkFull
  /-- FORK on a full spill area (R63) -/
  | spillFull
  /-- FENCE.H number n: serialise acknowledgements still to come (R90) -/
  | fence (n acks : Nat)
  /-- VXCH waiting for its mirror (R215) -/
  | vxch
  /-- private tokens pending at GO, HOME or EXIT (R65, R181) -/
  | drain
  /-- an accumulator or token before the exchange (R332 step 3), an accumulator a forme operation writes (R210),
  a register that a VXCH writes (R208) -/
  | exchange
  /-- HALT of a supervisor (R203) -/
  | halt
  deriving DecidableEq, Repr

/-- The word being executed by a strand: start of the pair (R109), the word's own address, the words. -/
structure Fetch where
  start : W64
  own : W64
  word : W32
  word2 : W32
  deriving DecidableEq, Repr

/-- The values an impression started with (R183 selectors 0x10 to 0x15) and its watch entry. -/
structure Imp where
  vals : Vector W64 6
  die : Nat
  entry : Nat
  word : W64
  /-- the WATCH that installed the entry (R197) -/
  inst : Nat
  deriving DecidableEq, Repr

/-- A fault packet (R305). -/
structure FaultPkt where
  code : Byte
  slot : Nat
  kind : BitVec 2
  tokens : Byte
  cause : Byte
  gen : Byte
  tile : Nat
  pc : W64
  word : W32
  word2 : W32
  addr : W64
  asid : Nat
  block : Option Nat
  edition : Option Nat
  time : W64
  errs : Vector W64 8
  deriving DecidableEq, Repr

/-- A strand (R53, R55). -/
structure Strand where
  /-- identity, never reused (R322: migration does not change it) -/
  uid : Nat
  asid : Nat
  kind : Kind
  /-- origin tile (R55) -/
  origin : Nat
  /-- k of an anchored strand (R55) -/
  rank : Nat
  g : Vector W64 16
  pc : W64
  /-- own class (R54) -/
  cls : BitVec 2
  run : Run
  /-- R309 action 7: halt again after the next issue -/
  stepping : Bool
  hold : Option Hold
  /-- order in which holds began (R67: served longest first) -/
  since : Nat
  /-- the word last issued: it stays the held or faulting one (R109, R305) -/
  fetch : Fetch
  /-- private tokens of a light strand (R21) -/
  toks : Vector Tok 8
  /-- direct children that have not exited (R63) -/
  children : Nat
  parent : Option Nat
  /-- block and edition it belongs to (R57, R180) -/
  block : Option Nat
  edition : Option Nat
  /-- steal domain of its children (R62): 0 tile, 1 die, 2 package -/
  steal : BitVec 2
  imp : Option Imp
  /-- acquire time (R81) -/
  acq : W64
  /-- clk of creation -/
  born : Nat
  /-- clk of the last issue -/
  lastIssue : Nat
  /-- first clk of its next issue (R166, R285, R381) -/
  ready : Nat
  /-- clk from which each general register may be used (R140, R166) -/
  regAt : Table Nat
  /-- order of arrival at a tile while it waits for a light slot (R23) -/
  arrival : Nat
  /-- has issued an instruction (R55 origin tile, R197 started) -/
  started : Bool
  /-- must acquire before its next instruction (R65, R96, R331) -/
  mustAcquire : Bool
  /-- the address of the WAIT or engine instruction whose wait on its mask is over (R110, R246 step 1) -/
  passed : Option W64
  /-- the packet of the fault that froze it last (R304, R309) -/
  pkt : Option FaultPkt
  deriving DecidableEq, Repr

/-! ## Memory-system parts of a tile -/

/-- What a store-buffer or side-log entry does at its home (R155, R161). -/
inductive StoreKind where
  | store
  | radd (size : ASize)
  deriving DecidableEq, Repr

/-- A store buffer entry (R79), until the acknowledgement of its registration returns (R285). -/
structure StoreEnt where
  n : Nat
  uid : Nat
  asid : Nat
  edition : Option Nat
  /-- address as issued, for watches (R194) and records -/
  addr : W64
  /-- runs of consecutive bytes: first place and count -/
  segs : List (Loc × Nat)
  data : List Byte
  kind : StoreKind
  ord : Order
  registered : Bool
  deriving DecidableEq, Repr

/-- A side-log entry (R350). -/
structure SideEnt where
  n : Nat
  uid : Nat
  slot : Nat
  gen : Byte
  asid : Nat
  edition : Option Nat
  addr : W64
  data : List Byte
  kind : StoreKind
  ord : Order
  /-- the entry faulted, rather than only queued behind another (R97) -/
  faulted : Bool
  /-- the memory manager has settled its fault: replay it -/
  settled : Bool
  /-- declared unreplayable -/
  discard : Bool
  deriving DecidableEq, Repr

/-- A valid word of the L1 (R77). -/
structure L1Word where
  val : W32
  owned : Bool
  /-- the fill that brought it, or the registration that made it: words of one are of one instant (R87) -/
  fill : Nat
  /-- pod time at which its value was that of its home (R78, R86) -/
  stamp : W64
  deriving DecidableEq, Repr

/-- A word of a die's remote-data cache with its fill stamp (R78). -/
structure RdcWord where
  val : W32
  stamp : W64
  /-- as in `L1Word` -/
  fill : Nat
  deriving DecidableEq, Repr

/-- A TLB entry (R342): page start, page size in bytes, the leaf, where it was read, logged (R347). -/
structure TlbEnt where
  asid : Nat
  va : Nat
  size : Nat
  leaf : W64
  logged : Bool
  deriving DecidableEq, Repr

/-- A dirty log entry (R347). -/
structure DirtyEnt where
  asid : Nat
  va : Nat
  size : Nat
  deriving DecidableEq, Repr

/-- What an atomic does (R159, R160). -/
inductive AtomOp where
  | add | and | or | xor | min | max | minu | maxu | swp | cas | addf
  deriving DecidableEq, Repr

/-- A read or atomic performed at its home on behalf of a held strand, and how its answer is used. -/
inductive Access where
  /-- n bytes into gd -/
  | load (d : GReg) (n : Nat) (signed : Bool)
  /-- atomic of n bytes into gd -/
  | atomic (op : AtomOp) (d : GReg) (n : Nat) (signed : Bool) (val cmp : W64)
  /-- n bytes for an instruction that issues again with them (WAITV, LAUNCH, WATCH) -/
  | again (n : Nat)
  deriving DecidableEq, Repr

/-- What came back (R25, R156, R164). -/
inductive Answer where
  | bytes (b : List Byte)
  | fault (code : Byte)
  deriving DecidableEq, Repr

/-- An access on its way to its home, or its answer on the way back (R25, R74 item 3). -/
structure Packet where
  n : Nat
  ref : Ref
  uid : Nat
  asid : Nat
  addr : W64
  segs : List (Loc × Nat)
  acc : Access
  ord : Order
  /-- a store of the sender's store buffer instead (R25) -/
  store : Option Nat
  answer : Option Answer
  /-- the bytes of its host requests that have completed, by number (R157) -/
  parts : List (Nat × List Byte)
  deriving DecidableEq, Repr

/-! ## Engines -/

/-- Geometry of a plate (R255, R256). -/
structure Geo where
  handle : Nat
  j0 : Nat
  n0 : Nat
  cols : Nat
  kg : Nat
  ng : Nat
  /-- K of the handle (dim0) -/
  k : Nat
  deriving DecidableEq, Repr

/-- A tensor-table entry as read at acceptance (R250, R251). -/
structure Tensor where
  base : W64
  dim1 : Nat
  dim0 : Nat
  pitch : Nat
  sbase : W64
  spitch : Nat
  grp : Nat
  valid : Bool
  asid : Nat
  format : Nat
  rd : Bool
  wr : Bool
  deriving DecidableEq, Repr

/-- R253 chase states. -/
inductive ChaseState where
  | unset | set | suspect
  deriving DecidableEq, Repr

/-- A chase (R253): its plate, duplication map, row maps, scales, cells, parities and check words. -/
structure Chase where
  state : ChaseState
  asid : Nat
  geo : Geo
  /-- duplicated plate K indices, ascending (R259) -/
  dup : List Nat
  /-- row maps (R258), keyed by macro * 320 + physical row: valid entries only -/
  rows : Table (BitVec 16)
  /-- BF16 column scales keyed by macro * 64 + column -/
  scales : Table (BitVec 16)
  /-- trit cells of a physical row, two bits each (R358, R359), keyed as rows -/
  cells : Table (BitVec 128)
  /-- row parity bits (R358), keyed as rows: rows whose parity bit is 1 -/
  parity : Table Bool
  /-- check words (R359) keyed by macro -/
  check : Table W32
  deriving DecidableEq, Repr

/-- The expected state of a chase (R254): set by a context with a geometry, and the duplication map the
acceptance checks see. -/
structure Expect where
  set : Bool
  asid : Nat
  geo : Geo
  dup : List Nat
  deriving DecidableEq, Repr

/-- The parameter block of FMM and FMMT (R261). -/
structure FmmBlk where
  chase : Nat
  rows : Nat
  spitch : Nat
  opitch : Nat
  oscale : W32
  act : Nat
  out : Nat
  z : Bool
  acc : Nat
  mxaddr : W64
  mxpitch : Nat
  deriving DecidableEq, Repr

/-- An engine operation with what its acceptance read (R246). -/
inductive Op where
  | fset (chase : Nat) (geo : Geo) (t : Tensor)
  | fmap (chase : Nat) (dup : List Nat)
  | fmm (blk : FmmBlk) (src dst : W64) (transposed : Bool)
  | fscl (chase : Nat) (geo : Geo) (t : Tensor)
  | fclr (mask : W32)
  | fprb (chase : Nat) (dst : W64)
  | cpy (t : Tensor) (toHandle : Bool) (rows row0 c0 cols dpitch : Nat) (spad sa : W64)
  | cpyr (src : W64) (chunk len dbase : Nat) (tiles : List Nat)
  | cpyg (t : Tensor) (rows c0 cols dpitch : Nat) (list dst : W64)
  | cfil (dst : W64) (len : Nat) (pat : W64)
  | cast (src dst : Tensor) (theta : Byte) (first count : Nat)
  | castDirect (src : Tensor) (theta : Byte) (chase : Nat) (geo : Geo)
  | cqnt (src dst : Tensor) (row0 rows : Nat) (z : Bool)
  deriving DecidableEq, Repr

/-- A queued operation (R246): n orders it among the machine's events, the strand's stores included. -/
structure EngOp where
  n : Nat
  tok : TokReg
  uid : Nat
  asid : Nat
  ident : Nat
  block : Nat
  op : Op
  deriving DecidableEq, Repr

/-- An executed operation whose token is still to complete (R247). -/
structure EngDone where
  n : Nat
  tok : TokReg
  asid : Nat
  ident : Nat
  block : Nat
  /-- the clk its token may complete in -/
  due : Nat
  err : Option W64
  flags : W64
  direct : Bool
  /-- accumulator it writes (R210) -/
  ac : Option Nat
  /-- the chase that is set when kerning ends (R257) -/
  chase : Option (Nat × Chase)
  deriving DecidableEq, Repr

/-- One of a tile's two engines (R245, R247). -/
structure Engine where
  queue : List EngOp
  /-- the operation that has left the queue and has not ended: it waits for a page or for accesses before it (R247, R249) -/
  current : Option EngOp
  /-- last clk of the busy time in progress -/
  busyUntil : Nat
  done : List EngDone
  /-- an operation held on a page that is not present (R249) -/
  stuck : Option W64
  /-- pages the memory manager has declared unresolvable for the held operation -/
  denied : List W64
  deriving DecidableEq, Repr

/-! ## Teams -/

/-- A VXCH issued and not performed (R215): its slot, destination, source bits, predicate, lane width, and the clk at which
its bits are at the mirror tile (R244). -/
structure Exch where
  slot : Nat
  d : VReg
  src : VWord
  pred : PWord
  w : Nat
  there : Nat
  deriving DecidableEq, Repr

/-- A resident or saved team (R56, R59, R100). -/
structure Team where
  asid : Nat
  /-- edition identifier and linear block index (R58, R61) -/
  ident : Nat
  block : Nat
  /-- extents as id.ext packs them (R183) -/
  ext : W64
  n : Nat
  /-- grant size S (R25) -/
  grant : Nat
  v : Vector VWord 32
  p : Vector PWord 8
  /-- element e of ac n at key 512 * n + e -/
  ac : Table W32
  toks : Vector Tok 8
  q : Vector (List W64) 4
  aflags : W64
  /-- bits of aflags set in this clk, which no write clears in it (R47) -/
  raised : W64
  /-- yield deadline of the descriptor, and its counter (R330) -/
  deadline : Nat
  count : Option Nat
  yreq : Bool
  yreqAt : Nat
  residence : Nat
  asleepFor : Nat
  /-- slots that have arrived at the BART in progress, in order, and BARTs released (R170) -/
  bart : List Nat
  barts : Nat
  /-- classes that the slots inherited at the BART released in clk `lentAt`: they last through it (R70) -/
  lent : Table Nat
  lentAt : Nat
  /-- the scope of the tile's raised BARW tap, and the clk from which it is raised (R172, R285) -/
  tapAt : Option (BarScope × Nat)
  vxch : Nat
  /-- forced pre-emption has begun: the team issues nothing more (R332 step 1) -/
  stopping : Bool
  /-- VXCHs waiting for their mirror, in issue order (R215) -/
  exch : List Exch
  /-- the block is being killed (R193) -/
  killed : Bool
  gang : Bool
  /-- the accumulators and tokens are not yet exchanged (R332 step 3) -/
  noExchange : Bool
  /-- clk from which v (16 on), p (48 on), the sums of ac (56 on) and what was moved into ac (64 on) may be used (R208, R239,
  R244), and the dense path is free (R239) -/
  regAt : Table Nat
  denseFree : Nat
  /-- first clk it issues in: its lines are filled (R332 step 5, R333) -/
  start : Nat
  /-- a gang team has issued an instruction in this slice (R336) -/
  begun : Bool
  deriving DecidableEq, Repr

/-- How a team left its tile (R177, R332). -/
inductive SavePath where
  | forced | compact
  deriving DecidableEq, Repr

/-- A swapped-out team (R331, R334): what its save record does not hold stays here. -/
structure Saved where
  team : Team
  strands : Table Strand
  path : SavePath
  /-- record index (R334) -/
  idx : Nat
  /-- PA of the record -/
  pa : Nat
  /-- words 0 to 9 of the lead's save declaration (compact path) -/
  decl : List W64
  /-- clk of the swap-out -/
  since : Nat
  /-- the record is complete (R331) -/
  final : Bool
  deriving DecidableEq, Repr

/-- What takes a tile next (R323): a swapped-out team or an undealt block. -/
inductive Candidate where
  | saved (idx : Nat) (asid : Nat)
  | block (asid ident idx : Nat)
  deriving DecidableEq, Repr

/-- A dealt block to be placed as a team (R323, R56). -/
structure Dispatch where
  asid : Nat
  ident : Nat
  idx : Nat
  deriving DecidableEq, Repr

/-- A trace trigger in progress (R312): entries still to record before freezing. -/
structure Trace where
  ctl : W64
  a : W64
  b : W64
  buf : Table (BitVec 128)
  left : Option Nat
  deriving DecidableEq, Repr

/-- A serialise request of a FENCE.H at a tile (R90): context, number and strand of the fence. -/
structure Serial where
  asid : Nat
  n : Nat
  k : Nat
  deriving DecidableEq, Repr

/-- A tile (R19). -/
structure Tile where
  strands : Table Strand
  /-- slot generations (R308) -/
  gens : Table Byte
  /-- slots whose err bit is set (R308) -/
  errs : List Nat
  /-- slot last chosen in each class (R68) -/
  lastPick : Table Nat
  /-- first clk in which the tile may issue again: one instruction a clk, an IMX pair in two (R68) -/
  nextIssue : Nat
  team : Option Team
  waiting : List Strand
  deque : List Strand
  /-- tile after which the next steal scan starts (R62) -/
  stealAt : Nat
  sb : List StoreEnt
  l1 : Table L1Word
  tlb : List TlbEnt
  dirty : List DirtyEnt
  side : List SideEnt
  /-- serialise requests that wait, in order of arrival (R169) -/
  serials : List Serial
  /-- wake latch: 0 clear, else the event code (R174) -/
  latch : Nat
  forme : Engine
  copy : Engine
  chases : Table Chase
  expects : Table Expect
  /-- active chase (R264) -/
  active : Option Nat
  /-- next macro row of the proofing scrub: chase, macro, row (R359) -/
  scrub : Nat
  /-- plate tag of each context (R323) -/
  tags : Table Nat
  /-- spare macros mapped in (R360) -/
  spares : List (Nat × Nat)
  swapped : List Saved
  /-- what takes the tile (R323, R332) -/
  incoming : Option Candidate
  dispatch : Option Dispatch
  /-- first clk in which a line of an incoming team may be filled (R332 step 4, R333) -/
  fillFrom : Nat
  /-- context of the previous team; none after bring-up and row sparing (R56) -/
  lastCtx : Option Nat
  /-- P2 (R315) -/
  gated : Bool
  trace : Trace
  deriving DecidableEq, Repr

/-! ## Dies -/

/-- A loaded context entry (R302). -/
structure Ctx where
  valid : Bool
  frame : Bool
  ceiling : BitVec 2
  quantum : Nat
  ptroot : Nat
  ttbase : Nat
  ttlen : Nat
  notice : Nat
  spill : Nat
  root : Nat
  spillsize : Nat
  save : Nat
  pkgmask : BitVec 512
  deriving DecidableEq, Repr

/-- A frisket entry (R194, R195, R198). -/
structure Watch where
  base : W64
  len : Nat
  eng : Bool
  ext : Bool
  cls : BitVec 2
  target : BitVec 2
  queue : Bool
  pred : BitVec 3
  wide : Bool
  pc : W64
  arg : W64
  value : W64
  tile : Nat
  window : Nat
  budget : Nat
  armed : Bool
  overprint : Bool
  dropped : Nat
  /-- clk and pod time at which the window began, impressions created in it -/
  winClk : Nat
  winPod : W64
  created : Nat
  /-- number of the WATCH that installed it -/
  inst : Nat
  deriving DecidableEq, Repr

/-- Tag and owner of a frame (R345, R346). -/
structure Frame where
  tag : BitVec 2
  owner : Nat
  deriving DecidableEq, Repr

/-- A migration notice (R352). -/
structure MigNotice where
  pa : Nat
  die : Nat
  time : W64
  deriving DecidableEq, Repr

/-- Phase of a page migration (R353): copying, re-copying pass n, switched. -/
inductive MigPhase where
  | copy | recopy (pass : Nat) | switch
  deriving DecidableEq, Repr

/-- A migration in progress (R353): the first lines are copied, the dirty ones among them are to be copied again. -/
structure Migration where
  plan : MigratePlan
  src : Nat
  dst : Nat
  size : Nat
  copied : Nat
  dirty : List Nat
  phase : MigPhase
  deriving DecidableEq, Repr

/-- A claim of a wire instance (R171). -/
structure Claim where
  scope : BarScope
  line : Nat
  asid : Nat
  ident : Nat
  /-- the release clk, once every member has raised its tap -/
  release : Option Nat
  deriving DecidableEq, Repr

/-- A request of a die agent to the memory manager (R349). -/
structure MMReq where
  asid : Nat
  va : W64
  deriving DecidableEq, Repr

/-- A compute die (R16, R300). -/
structure Die where
  sups : Table Strand
  /-- bases without effect until their first SWR (R300) -/
  ctxtab : Option W64
  tiletab : Option W64
  fring : Option W64
  fhead : W32
  ftail : W32
  svasid : BitVec 12
  pstate : BitVec 3
  ctxs : Table Ctx
  grants : Table (BitVec 256)
  /-- keyed by 256 * asid + index -/
  frisket : Table Watch
  tlb : List TlbEnt
  /-- keyed by PA / 4096 -/
  frames : Table Frame
  /-- accesses counted by region and requesting die (R352), keyed by region * 2048 + die -/
  migCount : Table Nat
  migThreshold : Nat
  migQueue : List MigNotice
  migOver : List Nat
  migMissed : Nat
  migrations : List Migration
  /-- keyed by PA / 4 -/
  rdc : Table RdcWord
  /-- tile that owns a word homed here (R77, R79), keyed by PA / 4 -/
  owner : Table Nat
  claims : List Claim
  faults : List FaultPkt
  mm : List MMReq
  /-- errors of its lines that SECDED or LP6 error correction corrected (R361; DESIGN CHOICE, log entry 60) -/
  corrected : Nat
  /-- poisonings of its lines that core 3 has reported (R361; DESIGN CHOICE, log entry 60) -/
  poisoned : Nat
  /-- its supervisor's mailbox to core 3 (R372): 16 entries, and then the posts that it holds while full -/
  mail : List (List W64)
  /-- under reset: its tiles drop stores and refuse loads (R354) -/
  resetting : Bool
  /-- first clk in which the supervisor may issue again, and the slot that is looked at first -/
  nextIssue : Nat
  pick : Nat
  deriving DecidableEq, Repr

/-! ## Packages -/

/-- A command queue of a function (R365). -/
structure CmdQueue where
  base : W64
  en : Bool
  size : Nat
  tail : W32
  head : W32
  /-- a command has been taken whose completion entry is not written (R367, R371) -/
  blocked : Bool
  deriving DecidableEq, Repr

/-- A PCIe function (R363, R365). -/
structure Fn where
  evbase : W64
  even : Bool
  evsize : Nat
  evhead : W64
  evtail : W64
  evlost : W64
  evovf : BitVec 16
  /-- errors lost since the last summary (R370) -/
  lostSince : Nat
  queues : Table CmdQueue
  /-- held completion entries with their queues, oldest first (R371) -/
  heldDone : List (Nat × List Byte)
  deriving DecidableEq, Repr

/-- A firmware core (R372, R373). -/
structure Core where
  running : Bool
  /-- the entries of the mailbox, 16 at most, and then the posts that it holds while full, in post order (R372) -/
  mail : List (List W64)
  version : Nat
  image : List Byte
  deriving DecidableEq, Repr

/-- A frame submission (R317); it fails once the key that was loaded when it was taken has been zeroed (R313). -/
structure Submission where
  fn : Nat
  queue : Nat
  tag : Nat
  desc : List Byte
  live : Bool
  deriving DecidableEq, Repr

/-- A scale-up port (R377). -/
structure Port where
  lanes : Nat
  up : Bool
  replays : Nat
  total : Nat
  /-- flits sent and not acknowledged, oldest first -/
  buffer : List Flit
  /-- next sequence number expected -/
  expect : Nat
  received : List Flit
  peer : Nat
  /-- sequence number of the next flit to send -/
  next : Nat
  deriving DecidableEq, Repr

/-- A completion entry that waits for a core (R337, R373): its function and queue, 16 for that of an edition, whose context
and root sequence number it has. -/
structure HeldDone where
  fn : Nat
  queue : Nat
  root : Option (Nat × Nat)
  bytes : List Byte
  deriving DecidableEq, Repr

/-- Security level and debug level (R313): 0 unprovisioned, 1 provisioned, 2 attested; 0 closed,
1 user-debug, 2 full. -/
structure Package where
  /-- bring-up step last done, or the one that failed (R376): what the status register reads -/
  step : Nat
  failed : Bool
  sec : BitVec 2
  debug : BitVec 2
  /-- provenance key: marking secret and key identity (R317) -/
  key : Option (List Byte × List Byte)
  frames : W64
  nonce : BitVec 128
  fns : Table Fn
  cores : Table Core
  /-- core being taken over by core 7, and when its failure was (R373) -/
  takeover : Option (Nat × W64)
  /-- core whose part core 7 plays since a take-over: there is no standby (R373) -/
  role : Option Nat
  /-- completions held while a core is down (R337, R373) -/
  heldDone : List HeldDone
  /-- queues whose pending-kick bit is set (R373), as 16 * function + queue -/
  kicks : List Nat
  /-- core 1's write-ahead journal (R373): a command of a queue each, key in [63:32], number in [31:0] -/
  journal : List W64
  /-- function owning each ASID (R366) -/
  owners : Table Nat
  marker : List Submission
  /-- doorbell latch: latched tails in order, other writes, discards (R369) -/
  tails : List (Nat × W32)
  writes : List (Nat × Nat × W64)
  discards : Nat
  waking : Bool
  pstate : BitVec 3
  ports : Table Port
  bypassed : Bool
  rowSpared : List Nat
  channels : List Nat
  retired : List Nat
  watts : Nat
  amps : Nat
  celsius : Nat
  traceSave : Table (List (Nat × BitVec 128))
  /-- the number that firmware assigns at bring-up (R15, R376 step 5) -/
  number : BitVec 9
  /-- contexts to which the host debugger is attached (R202, R314) -/
  attached : List Nat
  deriving DecidableEq, Repr

/-! ## Editions -/

/-- A checked descriptor (R59, R186). -/
structure Desc where
  pc : W64
  arg : W64
  x : Nat
  y : Nat
  z : Nat
  deadline : Nat
  ranges : Nat
  gang : Bool
  after : Bool
  policy : BitVec 2
  steal : BitVec 2
  cls : BitVec 2
  n : Nat
  tag : Nat
  grant : Nat
  work : Nat
  chases : W32
  word : W64
  list : W64
  deriving DecidableEq, Repr

/-- A faulting block (R327). -/
structure FirstFault where
  cls : Nat
  time : W64
  pkg : Nat
  tile : Nat
  idx : Nat
  deriving DecidableEq, Repr

/-- A package imposer's report of an edition, or the merged one (R327). -/
structure Report where
  counts : Vector Nat 8
  firsts : List FirstFault
  packet : Option (Nat × FaultPkt)
  lost : Nat
  deriving DecidableEq, Repr

/-- R191 states of an edition. -/
inductive EdState where
  | running | cancelling | complete
  deriving DecidableEq, Repr

/-- A block dealt and not complete (R323). -/
structure Dealt where
  idx : Nat
  tile : Nat
  deriving DecidableEq, Repr

/-- A live edition at its imposers (R319 to R328). -/
structure Edition where
  ident : Nat
  seq : Nat
  desc : Desc
  /-- origin strand (R322), and the owner of the LAUNCH token -/
  uid : Nat
  own : TokOwner
  tok : TokReg
  tile : Nat
  state : EdState
  kill : Bool
  /-- sequence number whose final record it waits for (R322) -/
  pred : Option Nat
  /-- packages at which its broadcast has arrived, and at which it is eligible with the clk -/
  arrived : List Nat
  eligible : Table Nat
  /-- undealt index ranges (first, count) at the root, at packages and at dies -/
  atRoot : List (Nat × Nat)
  atPkg : Table (List (Nat × Nat))
  atDie : Table (List (Nat × Nat))
  dealt : List Dealt
  next : Nat
  done : Nat
  dropped : Nat
  killed : Nat
  /-- packages that received a folio, and those that have reported -/
  folios : List Nat
  reported : List Nat
  reports : Table Report
  merged : Report
  reportRead : Bool
  begun : Nat
  /-- gang slices: first start, slice number, lateness counts per package (R335, R336) -/
  gangStart : Option W64
  /-- a slice is running -/
  gangOn : Bool
  slice : Nat
  late : Table Nat
  /-- pod time of the start of the slice -/
  sliceAt : W64
  /-- the last L before a slice starts, or before it ends -/
  gangAsk : Bool
  /-- packages whose start of the slice has been timed (R336) -/
  timed : List Nat
  /-- tiles of gang blocks in index order -/
  gangTiles : List Dealt
  /-- CANCEL tokens to complete with it: tile, owner, token -/
  cancels : List (Nat × TokOwner × TokReg)
  deriving DecidableEq, Repr

/-- The point of a strand's program order at which a request or an operation was issued (R93): accesses of the strand
`uid` whose numbers are below `n` come before it. -/
structure Point where
  uid : Nat
  n : Nat
  deriving DecidableEq, Repr

/-- A request on its way to the root imposer (R319), in arrival order. -/
inductive Req where
  | launch (tile uid : Nat) (own : TokOwner) (tok : TokReg) (desc : Desc)
  | next (tile : Nat) (own : TokOwner) (tok : TokReg) (at_ : Point) (ident : Nat) (dst : W64)
  | estat (tile : Nat) (own : TokOwner) (tok : TokReg) (at_ : Point) (ident : W64) (dst : W64)
  | cancel (tile : Nat) (own : TokOwner) (tok : TokReg) (ident : W64) (kill : Bool)
  deriving DecidableEq, Repr

/-- An answer of the imposer tree on its way (R190, R191): bytes to write and the error of the token. -/
structure ImpAnswer where
  n : Nat
  tile : Nat
  own : TokOwner
  asid : Nat
  tok : TokReg
  dst : Option W64
  bytes : List Byte
  err : Option W64
  /-- where it was asked for: the answer's write comes after the strand's earlier accesses (R93) -/
  asked : Option Point
  /-- the edition whose NEXT it answers (R326) -/
  ident : Option Nat
  deriving DecidableEq, Repr

/-- A context's root imposer (R319). -/
structure Root where
  /-- next root sequence number; 0 before the context is first loaded -/
  seq : Nat
  pkg : Nat
  /-- a root field loaded and not yet in effect (R319) -/
  newPkg : Option Nat
  /-- the root package was lost: requests wait for a new root (R320) -/
  held : Bool
  reqs : List Req
  editions : List Edition
  /-- last accepted edition's sequence number of each origin strand (R322) -/
  last : Table Nat
  /-- clk for which the all-asleep condition has held (R74) -/
  quiet : Nat
  /-- strand chosen for the all-asleep fault whose team must be made resident (R357) -/
  chosen : Option Nat
  deriving DecidableEq, Repr

/-- A light strand on its way by GO or HOME (R65). -/
structure Transit where
  n : Nat
  tile : Nat
  strand : Strand
  deriving DecidableEq, Repr

/-- A host command's handler on its way to its home tile (R368). -/
structure ActiveMsg where
  n : Nat
  pkg : Nat
  tile : Nat
  strand : Strand
  fn : Nat
  queue : Nat
  tag : Nat
  deriving DecidableEq, Repr

/-! ## The machine -/

/-- Whose turn is next (the model's own): an issue, the passing of one clk, or a step of another agent. -/
inductive Turn where
  | issue (r : Ref)
  | tick
  | happen (e : Instr) (x : EvArg)
  deriving DecidableEq, Repr

/-- A step due at a clk. -/
structure Timer where
  due : Nat
  ev : Instr
  arg : EvArg
  deriving DecidableEq, Repr

/-- Old bytes that a registration replaced, for the read-only path (R92). -/
structure Hist where
  key : Nat
  clk : Nat
  old : List Byte
  deriving DecidableEq, Repr

/-- The whole machine. -/
structure State where
  /-- device memory by PA, scratchpads by tile-space address, host memory by 2^64 + bus address -/
  mem : List Host.Cell
  /-- poisoned lines: key / 64 (R361) -/
  poison : List Nat
  /-- bytes that registrations replaced (R92; DESIGN CHOICE, log entry 3) -/
  hist : List Hist
  clk : Nat
  podBase : Nat
  podPhase : Nat
  tiles : Table Tile
  dies : Table Die
  pkgs : Table Package
  roots : Table Root
  net : List Packet
  answers : List ImpAnswer
  transit : List Transit
  actives : List ActiveMsg
  agenda : List Turn
  /-- steps taken at the end of this clk, when nothing more issues -/
  late : List Turn
  timers : List Timer
  cur : Ref
  /-- operands of the step being taken -/
  ev : EvArg
  /-- answer bytes for an instruction that issues again (uid, bytes) -/
  data : List (Nat × List Byte)
  /-- next identity, and next draw of a free value: the model's own (DESIGN CHOICE, log entries 3 and 48) -/
  fresh : Nat
  free : Nat
  deriving DecidableEq, Repr

/-! ## Stops -/

/-- Reasons the model stops with a fault; none is a fault of the part (those are next states, R304). -/
inductive Fault where
  /-- Raised by an Akust instruction executed while no strand occupies the issuing slot; no run of `step`
  reaches it, since only occupied slots issue. Safe. -/
  | noStrand
  /-- Raised by `step` for an agenda entry that names an encoded instruction, which only a strand's fetch
  can execute. Safe. -/
  | badTurn
  deriving DecidableEq, Repr

/-- Reasons the model refuses. -/
inductive Refusal where
  /-- An instruction without a meaning yet, rejected by name in Machine/Dispatch.lean. Safe. -/
  | notModelled (mnemonic : String)
  deriving DecidableEq, Repr

/-! ## Reset -/

/-- A token neither pending nor failed (R56). -/
def Tok.idle : Tok := ⟨false, false, 0, none⟩

/-- An idle engine (R247). -/
def Engine.idle : Engine := ⟨[], none, 0, [], none, []⟩

/-- R312 reset of the trace control; triggers 0 (DESIGN CHOICE, log entry 2). -/
def Trace.reset : Trace := ⟨0, 0, 0, [], none⟩

/-- A tile after bring-up (R376): no team, scratchpad zero (by `State.mem`), chases unset. -/
def Tile.reset : Tile where
  strands := []
  gens := []
  errs := []
  lastPick := []
  nextIssue := 0
  team := none
  waiting := []
  deque := []
  stealAt := 0
  sb := []
  l1 := []
  tlb := []
  dirty := []
  side := []
  serials := []
  latch := 0
  forme := Engine.idle
  copy := Engine.idle
  chases := []
  expects := []
  active := none
  scrub := 0
  tags := []
  spares := []
  swapped := []
  incoming := none
  dispatch := none
  fillFrom := 0
  lastCtx := none
  gated := false
  trace := Trace.reset

/-- A die after reset: R300 gives fhead, ftail, svasid and pstate; the bases are DESIGN CHOICE, log entry 2. -/
def Die.reset : Die where
  sups := []
  ctxtab := none
  tiletab := none
  fring := none
  fhead := 0
  ftail := 0
  svasid := 0
  pstate := 0
  ctxs := []
  grants := []
  frisket := []
  tlb := []
  frames := []
  migCount := []
  migThreshold := 0
  migQueue := []
  migOver := []
  migMissed := 0
  migrations := []
  rdc := []
  owner := []
  claims := []
  faults := []
  mm := []
  corrected := 0
  poisoned := 0
  mail := []
  resetting := false
  nextIssue := 0
  pick := 0

/-- A package at power-on (R300 secstate 0, R376 before step 1). -/
def Package.reset : Package where
  step := 0
  failed := false
  sec := 0
  debug := 0
  key := none
  frames := 0
  nonce := 0
  fns := []
  cores := []
  takeover := none
  role := none
  heldDone := []
  kicks := []
  journal := []
  owners := []
  marker := []
  tails := []
  writes := []
  discards := 0
  waking := false
  pstate := 0
  ports := []
  bypassed := false
  rowSpared := []
  channels := []
  retired := []
  watts := 0
  amps := 0
  celsius := 0
  traceSave := []
  number := 0
  attached := []

/-- A PCIe function after reset (R365). -/
def Fn.reset : Fn := ⟨0, false, 0, 0, 0, 0, 0, 0, [], []⟩

/-- A command queue after reset (R365). -/
def CmdQueue.reset : CmdQueue := ⟨0, false, 0, 0, 0, false⟩

/-- A core in reset (R376). -/
def Core.reset : Core := ⟨false, [], 0, []⟩

/-- A port before training. -/
def Port.reset : Port := ⟨0, false, 0, 0, [], 0, [], 0, 0⟩

/-- No plate geometry. -/
def Geo.none : Geo := ⟨0, 0, 0, 0, 0, 0, 0⟩

/-- An unset chase (R253, R376). -/
def Chase.reset : Chase := ⟨.unset, 0, Geo.none, [], [], [], [], [], []⟩

/-- Expected unset (R254). -/
def Expect.reset : Expect := ⟨false, 0, Geo.none, []⟩

/-- An empty report (R327). -/
def Report.empty : Report := ⟨Vector.replicate 8 0, [], none, 0⟩

/-- An absent context entry. -/
def Ctx.absent : Ctx := ⟨false, false, 0, 0, 0, 0, 0, 0, 0, 0, 0, 0, 0⟩

/-- A context before its first load (R321). -/
def Root.reset : Root := ⟨0, 0, none, false, [], [], [], 0, none⟩

/-- The machine right after reset: powered, before bring-up, nothing listed. -/
def State.reset : State where
  mem := []
  poison := []
  hist := []
  clk := 0
  podBase := 0
  podPhase := 0
  tiles := []
  dies := []
  pkgs := []
  roots := []
  net := []
  answers := []
  transit := []
  actives := []
  agenda := []
  late := []
  timers := []
  cur := .tile 0 0
  ev := {}
  data := []
  fresh := 0
  free := 0

end Sys2Proof.Machine
end

