-- ==== Sys2Proof/Machine/Tables.lean ====
section
/-! DEFINITION. Tables and memory: lists of (key, value) pairs in one canonical form (keys strictly rising,
no entry equal to the default), and the read and write of bytes (R7, little-endian). -/
namespace Sys2Proof

/-- The value listed for a key. -/
def Table.find {α : Type} (t : Table α) (k : Nat) : Option α :=
  match t with
  | [] => none
  | (j, v) :: r => if j = k then some v else Table.find r k

/-- The value at a key, the default where none is listed. -/
def Table.get {α : Type} (t : Table α) (d : α) (k : Nat) : α := (t.find k).getD d

/-- List a value for a key, in key order. -/
def Table.ins {α : Type} (t : Table α) (k : Nat) (v : α) : Table α :=
  match t with
  | [] => [(k, v)]
  | (j, w) :: r =>
    if k < j then (k, v) :: (j, w) :: r
    else if j = k then (k, v) :: r
    else (j, w) :: Table.ins r k v

/-- List nothing for a key. -/
def Table.del {α : Type} (t : Table α) (k : Nat) : Table α := t.filter (fun e => e.1 != k)

/-- Set the value at a key; the default is not listed. -/
def Table.put {α : Type} [DecidableEq α] (t : Table α) (d : α) (k : Nat) (v : α) : Table α :=
  if v = d then t.del k else t.ins k v

/-- Keys strictly rising, all above a bound. -/
def Table.risingFrom {α : Type} (lo : Nat) (t : Table α) : Bool :=
  match t with
  | [] => true
  | (k, _) :: r => decide (lo ≤ k) && Table.risingFrom (k + 1) r

/-- The canonical form: keys strictly rising and no default listed. -/
def Table.wf {α : Type} [DecidableEq α] (d : α) (t : Table α) : Bool :=
  Table.risingFrom 0 t && t.all (fun e => e.2 != d)

namespace Machine

/-- The canonical form of memory: an unlisted byte reads 0 (R376; host memory DESIGN CHOICE, log entry 4). -/
def Memory.wf (m : List Host.Cell) : Bool := Table.wf (0 : Byte) m

/-- One byte of memory. -/
def Memory.read (m : List Host.Cell) (k : Nat) : Byte := Table.get m 0 k

/-- Write one byte of memory. -/
def Memory.write (m : List Host.Cell) (k : Nat) (b : Byte) : List Host.Cell := Table.put m 0 k b

/-- n consecutive bytes. -/
def Memory.readN (m : List Host.Cell) (k n : Nat) : List Byte :=
  (List.range n).map (fun i => Memory.read m (k + i))

/-- Write consecutive bytes. -/
def Memory.writeN (m : List Host.Cell) (k : Nat) (bs : List Byte) : List Host.Cell :=
  match bs with
  | [] => m
  | b :: r => Memory.writeN (Memory.write m k b) (k + 1) r

/-- Zero n consecutive bytes. -/
def Memory.clear (m : List Host.Cell) (k n : Nat) : List Host.Cell :=
  m.filter (fun e => e.1 < k || k + n ≤ e.1)

/-- Copy n bytes; the ranges do not overlap. -/
def Memory.copy (m : List Host.Cell) (src dst n : Nat) : List Host.Cell :=
  let part := m.filter (fun e => src ≤ e.1 && e.1 < src + n)
  part.foldl (fun m e => Memory.write m (e.1 - src + dst) e.2) (Memory.clear m dst n)

/-- The number that bytes spell, lowest address first (R7). -/
def leNat (bs : List Byte) : Nat :=
  match bs with
  | [] => 0
  | b :: r => b.toNat + 256 * leNat r

/-- n bytes of a number, lowest first (R7). -/
def leBytes (n v : Nat) : List Byte :=
  match n with
  | 0 => []
  | n + 1 => BitVec.ofNat 8 v :: leBytes n (v / 256)

/-- A doubleword of memory. -/
def Memory.dword (m : List Host.Cell) (k : Nat) : W64 := BitVec.ofNat 64 (leNat (Memory.readN m k 8))

/-- The place of a byte in `State.mem`. -/
def Loc.key : Loc → Nat
  | .dev pa => pa
  | .spad t off => 0xE000000000000000 + t * 2 ^ 21 + off
  | .host bus => 2 ^ 64 + bus

/-- Bits [hi:lo] of a number. -/
def field (v hi lo : Nat) : Nat := v / 2 ^ lo % 2 ^ (hi + 1 - lo)

end Machine
end Sys2Proof
end

