-- ==== Sys2Proof/Machine/Float.lean ====
section
/-! DEFINITION. Number formats (R29 to R45) by exact arithmetic: a value is a fraction, rounded once to
nearest, ties to even. Flags are returned as the bits of sys.aflags (R46). -/
namespace Sys2Proof.Machine

abbrev flSat : W64 := 0x1
abbrev flOvf : W64 := 0x2
abbrev flInv : W64 := 0x4
abbrev flUnf : W64 := 0x8

/-- A datum: NaN, an infinity, or (−1)^neg · num / den with den > 0; a zero keeps its sign. -/
inductive FVal where
  | nan (neg : Bool)
  | inf (neg : Bool)
  | fin (neg : Bool) (num den : Nat)
  deriving DecidableEq, Repr

/-- Nearest integer of a / b, ties to even. -/
def rneDiv (a b : Nat) : Nat :=
  let q := a / b
  let r := a % b
  if 2 * r < b then q else if b < 2 * r then q + 1 else if q % 2 = 0 then q else q + 1

/-- floor(log2(num / den)) for num, den > 0. -/
def floorLog (num den : Nat) : Int :=
  let k : Int := (num.log2 : Int) - (den.log2 : Int)
  let ok := if 0 ≤ k then den * 2 ^ k.toNat ≤ num else den ≤ num * 2 ^ (-k).toNat
  if ok then k else k - 1

/-- num / den as a fraction over 2^q. -/
def scaleFrac (num den : Nat) (q : Int) : Nat × Nat :=
  if 0 ≤ q then (num, den * 2 ^ q.toNat) else (num * 2 ^ (-q).toNat, den)

/-- Magnitude bits of a binary format with mb fraction bits and an 8-bit exponent: rounded, overflowing to
the infinity pattern 255 · 2^mb. -/
def roundMag (mb num den : Nat) : Nat :=
  if num = 0 then 0
  else
    let e := max (floorLog num den) (-126)
    let f := scaleFrac num den (e - mb)
    Nat.min ((e + 126).toNat * 2 ^ mb + rneDiv f.1 f.2) (255 * 2 ^ mb)

/-- The value of magnitude bits. -/
def magVal (neg : Bool) (mb bits : Nat) : FVal :=
  let e := bits / 2 ^ mb
  let m := bits % 2 ^ mb
  if e = 255 then (if m = 0 then .inf neg else .nan neg)
  else if e = 0 then .fin neg m (2 ^ (126 + mb))
  else
    let n := m + 2 ^ mb
    if 127 + mb ≤ e then .fin neg (n * 2 ^ (e - (127 + mb))) 1 else .fin neg n (2 ^ (127 + mb - e))

/-- Read an F32 (R43). -/
def FVal.ofF32 (w : W32) : FVal := magVal (w.getLsbD 31) 23 (w.toNat % 2 ^ 31)
/-- Read a BF16 (R43). -/
def FVal.ofBf (w : BitVec 16) : FVal := magVal (w.getLsbD 15) 7 (w.toNat % 2 ^ 15)

/-- A subnormal read under flush-to-zero (R43). -/
def flushIn (mb : Nat) (w : Nat) : Nat :=
  let top := 2 ^ (mb + 8)
  if w % top < 2 ^ mb then w / top * top else w

/-- Bits with sign of a rounded value, with OVF, and UNF under flush-to-zero (R43). -/
def FVal.toBits (x : FVal) (mb : Nat) (z : Bool) : Nat × W64 :=
  let top := 2 ^ (mb + 8)
  match x with
  | .nan _ => (255 * 2 ^ mb + 2 ^ (mb - 1), 0)
  | .inf neg => ((if neg then top else 0) + 255 * 2 ^ mb, 0)
  | .fin neg num den =>
    let m := roundMag mb num den
    let s := if neg then top else 0
    if 255 * 2 ^ mb ≤ m then (s + m, flOvf)
    else if z ∧ m < 2 ^ mb then (s, if m = 0 then 0 else flUnf)
    else (s + m, 0)

/-- rne_f32 with flags (R11, R43). -/
def FVal.toF32 (x : FVal) (z : Bool := false) : W32 × W64 :=
  let r := x.toBits 23 z
  (BitVec.ofNat 32 r.1, r.2)
/-- rne_bf16 with flags. -/
def FVal.toBf (x : FVal) (z : Bool := false) : BitVec 16 × W64 :=
  let r := x.toBits 7 z
  (BitVec.ofNat 16 r.1, r.2)

/-- An exact integer (R45: 0 is +0). -/
def FVal.ofInt (i : Int) : FVal := .fin (decide (i < 0)) i.natAbs 1

def FVal.isNan : FVal → Bool
  | .nan _ => true
  | .inf _ => false
  | .fin _ _ _ => false

def FVal.neg : FVal → FVal
  | .nan s => .nan (!s)
  | .inf s => .inf (!s)
  | .fin s n d => .fin (!s) n d

def FVal.abs : FVal → FVal
  | .nan _ => .nan false
  | .inf _ => .inf false
  | .fin _ n d => .fin false n d

/-- Whether an operation created a NaN from operands that are none (R43: INV). -/
def invOf (ops : List FVal) (r : FVal) : W64 := if r.isNan && !ops.any (·.isNan) then flInv else 0

/-- Exact sum with the signs of zero of R44. -/
def FVal.add (a b : FVal) : FVal :=
  match a, b with
  | .nan s, _ => .nan s
  | _, .nan s => .nan s
  | .inf s, .inf t => if s = t then .inf s else .nan false
  | .inf s, .fin _ _ _ => .inf s
  | .fin _ _ _, .inf s => .inf s
  | .fin s n d, .fin t m e =>
    if s = t then .fin s (n * e + m * d) (d * e)
    else
      let x := n * e
      let y := m * d
      if x = y then .fin false 0 1
      else if y < x then .fin s (x - y) (d * e) else .fin t (y - x) (d * e)

/-- Exact product; ∞ × 0 is a NaN. -/
def FVal.mul (a b : FVal) : FVal :=
  match a, b with
  | .nan s, _ => .nan s
  | _, .nan s => .nan s
  | .inf s, .inf t => .inf (s != t)
  | .inf s, .fin t n _ => if n = 0 then .nan false else .inf (s != t)
  | .fin s n _, .inf t => if n = 0 then .nan false else .inf (s != t)
  | .fin s n d, .fin t m e => .fin (s != t) (n * m) (d * e)

/-- Exact quotient of finite values with a nonzero divisor. -/
def FVal.divFin (a b : FVal) : FVal :=
  match a, b with
  | .fin s n d, .fin t m e => if m = 0 then .nan false else .fin (s != t) (n * e) (d * m)
  | _, _ => .nan false

/-- Total order of values with −0 below +0, NaN excluded: a < b. -/
def FVal.lt (a b : FVal) : Bool :=
  match a, b with
  | .inf s, .inf t => s && !t
  | .inf s, .fin _ _ _ => s
  | .fin _ _ _, .inf t => !t
  | .fin s n d, .fin t m e =>
    if s && !t then true
    else if !s && t then false
    else if s then decide (m * d < n * e) else decide (n * e < m * d)
  | _, _ => false

/-- Numeric comparison a < b with −0 = +0; false with a NaN (R219). -/
def FVal.ltNum (a b : FVal) : Bool :=
  match a, b with
  | .fin _ 0 _, .fin _ 0 _ => false
  | a, b => FVal.lt a b

/-- Numeric equality with −0 = +0; false with a NaN. -/
def FVal.eqNum (a b : FVal) : Bool :=
  match a, b with
  | .inf s, .inf t => s == t
  | .fin s n d, .fin t m e => (n == 0 && m == 0) || (s == t && n * e == m * d)
  | _, _ => false

/-- Nearest integer, ties to even, of a finite value. -/
def FVal.toIntRne (x : FVal) : Int :=
  match x with
  | .fin s n d => if s then -(rneDiv n d : Int) else rneDiv n d
  | .inf _ => 0
  | .nan _ => 0

/-- Clamp with the saturation flag (R11, R216, R223). -/
def satInt (lo hi x : Int) : Int × W64 :=
  if x < lo then (lo, flSat) else if hi < x then (hi, flSat) else (x, 0)

/-- Conversion to an integer with a named clamp (R45). -/
def FVal.toSat (x : FVal) (lo hi : Int) : Int × W64 :=
  match x with
  | .nan _ => (0, flInv)
  | .inf s => (if s then lo else hi, flSat)
  | .fin _ _ _ => satInt lo hi x.toIntRne

/-! ## F8N (R40 to R42) -/

/-- Read an F8N byte. -/
def FVal.ofF8 (b : Byte) : FVal :=
  let s := b.getLsbD 7
  let e := field b.toNat 6 3
  let m := field b.toNat 2 0
  if e = 15 ∧ m = 7 then .nan s
  else if b = 0 then .fin false 0 1
  else if 10 ≤ e then .fin s ((8 + m) * 2 ^ (e - 10)) 1 else .fin s (8 + m) (2 ^ (10 - e))

/-- Conversion to F8N, saturating or not (R41). -/
def FVal.toF8 (x : FVal) (sat : Bool) : Byte × W64 :=
  let sgn (s : Bool) (v : Byte) : Byte := if s then v ||| 0x80 else v
  match x with
  | .nan s => (sgn s 0x7F, 0)
  | .inf s => (sgn s (if sat then 0x7E else 0x7F), flOvf)
  | .fin s n d =>
    if n = 0 then (0, 0)
    else if 464 * d < n then (sgn s (if sat then 0x7E else 0x7F), flOvf)
    else if n * 128 < d then
      -- below 2^-7: nearest of 0 and the smallest magnitude of this sign, ties to 0
      if s then (if d < n * 256 then (0x80, 0) else (0, flUnf))
      else if 9 * d < n * 2048 then (0x01, 0) else (0, flUnf)
    else
      let e := floorLog n d
      let f := scaleFrac n d (e - 3)
      let code := ((e + 6) * 8 + rneDiv f.1 f.2).toNat
      if s then (BitVec.ofNat 8 (code + 0x80), 0)
      else if code = 0 then (0x01, 0) else (BitVec.ofNat 8 code, 0)

/-! ## MXINT8 (R36 to R39) -/

/-- An element of a block (R38): exact; a block of scale 0xFF reads 0. -/
def mxVal (p e : Byte) : FVal :=
  if e = 0xFF then .fin false 0 1
  else
    let i := p.toInt
    if i = 0 then .fin false 0 1
    else if 133 ≤ e.toNat then .fin (decide (i < 0)) (i.natAbs * 2 ^ (e.toNat - 133)) 1
    else .fin (decide (i < 0)) i.natAbs (2 ^ (133 - e.toNat))

/-- The greater magnitude of a list of finite values. -/
def maxAbs (l : List FVal) : FVal :=
  l.foldl (fun a x => if FVal.lt a x.abs then x.abs else a) (.fin false 0 1)

/-- Quantise a block: `none` is padding (R39). Elements, scale code, flags. -/
def mxQuant (l : List (Option FVal)) : List Byte × Byte × W64 :=
  let act := l.filterMap id
  let bad := act.any (fun x => match x with
    | .fin _ _ _ => false
    | .inf _ => true
    | .nan _ => true)
  if bad then (l.map (fun _ => 0), 0xFF, flInv)
  else
    match maxAbs act with
    | .fin _ n d =>
      if n = 0 then (l.map (fun _ => 0), 0, 0)
      else
        let e := min (max (floorLog n d + 127) 0) 254
        let q (x : Option FVal) : Byte :=
          match x with
          | some (.fin s n d) =>
            let f := scaleFrac n d (e - 133)
            let m := Nat.min (rneDiv f.1 f.2) 127
            if s then BitVec.ofInt 8 (-(m : Int)) else BitVec.ofNat 8 m
          | _ => 0
        (l.map q, BitVec.ofNat 8 e.toNat, 0)
    | _ => (l.map (fun _ => 0), 0, 0)

/-! ## Trits (R29) -/

/-- A trit's digit as −1, 0, +1. -/
def tritOf (digit : Nat) : Int :=
  match digit with
  | 1 => 1
  | 2 => -1
  | _ => 0

/-- The five trits of a T5 byte, position 0 first; none for codes above 242 (R30). -/
def t5Trits (b : Byte) : Option (List Int) :=
  let v := b.toNat
  if 242 < v then none else some ((List.range 5).map (fun i => tritOf (v / 3 ^ i % 3)))

/-- The T5 byte of up to five trits; missing ones are 0. -/
def t5Byte (l : List Int) : Byte :=
  BitVec.ofNat 8 ((List.range 5).foldl (fun a i =>
    let t := l.getD i 0
    a + (if t = 0 then 0 else if 0 < t then 1 else 2) * 3 ^ i) 0)

/-! ## Transcendentals (R230) -/

/-- Integer square root by bisection on bits. -/
def isqrt (fuel n lo : Nat) : Nat :=
  match fuel with
  | 0 => lo
  | fuel + 1 =>
    let c := lo + 2 ^ fuel
    isqrt fuel n (if c * c ≤ n then c else lo)

/-- 1 / √(num/den), close enough to round once: 60 fraction bits below the result's leading bit and a
sticky bit when inexact. No result lies half-way between two neighbours unless it is exact. -/
def rsqrtFin (num den : Nat) : FVal :=
  -- den/num · 4^k, its square root to an integer of at least 60 bits
  let k := 90 + num.log2
  let v := den * 4 ^ k
  let r := isqrt (v.log2 / 2 + 2) (v / num) 0
  let exact := r * r * num = v
  .fin false (2 * r + (if exact then 0 else 1)) (2 ^ (k + 1))

/-- ⌊2^p · 2^(f / 2^b)⌋ bounds by the series of exp(f ln 2 / 2^b), with p working bits; fuel terms. -/
def expTerms (fuel : Nat) (p x k term acc : Nat) : Nat :=
  match fuel with
  | 0 => acc
  | fuel + 1 =>
    let term := term * x / (k * 2 ^ p)
    expTerms fuel p x (k + 1) term (acc + term)

/-- ⌊ln 2 · 2^p⌋ within p, from Σ 1 / (k 2^k). -/
def ln2Bits (p : Nat) : Nat := (List.range p).foldl (fun a i => a + 2 ^ p / ((i + 1) * 2 ^ (i + 1))) 0

/-- 2^x of a finite value: exact for an integer x, else a fraction within 2^-160 relatively, marked inexact
by its low bit. -/
def exp2Fin (neg : Bool) (num den : Nat) : FVal :=
  -- x = i + f / den with 0 ≤ f < den
  let q := num / den
  let r := num % den
  let i : Int := if neg then (if r = 0 then -(q : Int) else -(q : Int) - 1) else q
  let f := if neg then (if r = 0 then 0 else den - r) else r
  let i := min (max i (-400)) 400
  let p := 256
  let m := if f = 0 then 2 ^ p else expTerms 80 p (ln2Bits p * f / den) 1 (2 ^ p) (2 ^ p)
  let m := if f = 0 then 2 * m else 2 * m + 1
  if 0 ≤ i then .fin false (m * 2 ^ i.toNat) (2 ^ (p + 1)) else .fin false m (2 ^ (p + 1) * 2 ^ (-i).toNat)

/-- VEXP2 (R230). -/
def FVal.exp2 : FVal → FVal
  | .nan s => .nan s
  | .inf true => .fin false 0 1
  | .inf false => .inf false
  | .fin s n d => exp2Fin s n d

/-- VRCP (R230). -/
def FVal.rcp : FVal → FVal
  | .nan s => .nan s
  | .inf s => .fin s 0 1
  | .fin s n d => if n = 0 then .inf s else .fin s d n

/-- VRSQ (R230). -/
def FVal.rsq : FVal → FVal
  | .nan s => .nan s
  | .inf true => .nan false
  | .inf false => .fin false 0 1
  | .fin s n d => if n = 0 then .inf s else if s then .nan false else rsqrtFin n d

end Sys2Proof.Machine
end

