-- ==== Sys2Proof/Config.lean ====
section
/-! DEFINITION. What the spec leaves to the part, the host or chance: constants without a body, so that no
proof and no run can see a value of them. `n` is the draw, taken from the counter `State.free`. -/
namespace Sys2Proof.Config

/-- Whether a cache still holds a copy that differs from its home (R77, R78, R86; DESIGN CHOICE, log entry 5). -/
opaque copyHeld : Nat → Bool
/-- Which of the lines that a cache may give up it gives up (R5; DESIGN CHOICE, log entry 50). -/
opaque victim : Nat → Nat
/-- Which value since the edition's start the read-only path returns (R92; DESIGN CHOICE, log entry 6). -/
opaque readOnlyAge : Nat → Nat
/-- The random draw of the command nonce (R372; DESIGN CHOICE, log entry 7). -/
opaque nonce : Nat → BitVec 128
/-- The Ed448 public keys that the part is made with: 0 that of signed commands, installed at provisioning, 1 the Darwald
firmware key (R372, R375; DESIGN CHOICE, log entry 8). -/
opaque fixedKey : Nat → List Byte
/-- Deque entries that a spill area of so many KiB holds (R62, R302; DESIGN CHOICE, log entry 9). -/
opaque spillEntries : Nat → Nat
/-- Save records of a context's save area beside its first (R334; DESIGN CHOICE, log entry 15). -/
opaque saveRecords : Nat → Nat
/-- Fused minimum version of a core's image (R375; DESIGN CHOICE, log entry 8). -/
opaque minVersion : Nat → Nat

/-- The fields of an event entry that R370 and R371 give no value: tag in [47:32], status in [31:24], detail in
[23:0] (DESIGN CHOICE, log entry 21). -/
opaque eventWord : Nat → BitVec 48
/-- Doublewords 0x10 and 0x18 of an event whose report the spec does not lay out (DESIGN CHOICE, log entry 21). -/
opaque eventBody : Nat → Nat × Nat
/-- How the attestation report is laid out, from the host nonce, the command nonce, the image digests,
sys.secstate and the provenance public key, and its signature over them (R372; DESIGN CHOICE, log entry 22). -/
opaque attestReport : List Byte → BitVec 128 → List (List Byte) → BitVec 64 → Option (List Byte) → List Byte
/-- Core, version, body length and place of the signature in an image header (R375; DESIGN CHOICE, log entry 8). -/
opaque imageHeader : List Byte → Nat × Nat × Nat × Nat
/-- LP6 channel of a 4 KiB frame of a die (R378; DESIGN CHOICE, log entry 23). -/
opaque channelOf : Nat → Nat
/-- clk that a take-over, and a die's reset, take (DESIGN CHOICE, log entry 24). -/
opaque takeoverClk : Nat → Nat
opaque resetClk : Nat → Nat
/-- Package at the other end of port 144 * package + port (R377; DESIGN CHOICE, log entry 24). -/
opaque peerOf : Nat → Nat
/-- The port there (R377; DESIGN CHOICE, log entry 24). -/
opaque peerPort : Nat → Nat

end Sys2Proof.Config
end

