-- ==== Sys2Proof/Machine/Ops.lean ====
section
/-! DEFINITION. The shared operations: parts of the machine, agenda and timers, strands and teams,
completing, holding and faulting (R304: the part's exception entry, `State.trap`), resuming (R309), tokens,
acquire and release (R80, R81). -/
namespace Sys2Proof

/-- Bit [0] of the order field (R82). -/
def Order.isAcq (o : Order) : Bool := o == .acquire || o == .acqRel
/-- Bit [1] of the order field. -/
def Order.isRel (o : Order) : Bool := o == .release || o == .acqRel

end Sys2Proof
namespace Sys2Proof.Machine

/-! ## Parts -/

/-- A tile by its address (R3). -/
def State.tile (s : State) (t : Nat) : Tile := s.tiles.get Tile.reset t
def State.setTile (s : State) (t : Nat) (x : Tile) : State :=
  { s with tiles := s.tiles.put Tile.reset t x }
def State.modTile (s : State) (t : Nat) (f : Tile → Tile) : State := s.setTile t (f (s.tile t))

/-- A die by 4 * package + die. -/
def State.die (s : State) (d : Nat) : Die := s.dies.get Die.reset d
def State.setDie (s : State) (d : Nat) (x : Die) : State := { s with dies := s.dies.put Die.reset d x }
def State.modDie (s : State) (d : Nat) (f : Die → Die) : State := s.setDie d (f (s.die d))

def State.pkg (s : State) (p : Nat) : Package := s.pkgs.get Package.reset p
def State.setPkg (s : State) (p : Nat) (x : Package) : State :=
  { s with pkgs := s.pkgs.put Package.reset p x }
def State.modPkg (s : State) (p : Nat) (f : Package → Package) : State := s.setPkg p (f (s.pkg p))

/-- The root imposer's data of a context. -/
def State.root (s : State) (a : Nat) : Root := s.roots.get Root.reset a
def State.setRoot (s : State) (a : Nat) (x : Root) : State := { s with roots := s.roots.put Root.reset a x }
def State.modRoot (s : State) (a : Nat) (f : Root → Root) : State := s.setRoot a (f (s.root a))

/-- A tile is powered off or under reset: gated (P2), on a die in P3 or P4, or on a die under reset (R315). -/
def State.off (s : State) (t : Nat) : Bool :=
  let d := s.die (t / 256)
  (s.tile t).gated || d.resetting || decide (3 ≤ d.pstate.toNat)

/-- The context entry a die has loaded (R301). -/
def State.ctx (s : State) (d a : Nat) : Ctx := (s.die d).ctxs.get Ctx.absent a

/-- The strand in a slot. -/
def State.strand (s : State) (r : Ref) : Option Strand :=
  match r with
  | .tile t k => (s.tile t).strands.find k
  | .sup d k => (s.die d).sups.find k

def State.setStrand (s : State) (r : Ref) (x : Strand) : State :=
  match r with
  | .tile t k => s.modTile t (fun w => { w with strands := w.strands.ins k x })
  | .sup d k => s.modDie d (fun w => { w with sups := w.sups.ins k x })

/-- Empty a slot. -/
def State.freeSlot (s : State) (r : Ref) : State :=
  match r with
  | .tile t k => s.modTile t (fun w => { w with strands := w.strands.del k })
  | .sup d k => s.modDie d (fun w => { w with sups := w.sups.del k })

def State.modStrand (s : State) (r : Ref) (f : Strand → Strand) : State :=
  match s.strand r with
  | some st => s.setStrand r (f st)
  | none => s

/-- The die of an issuing strand. -/
def Ref.die : Ref → Nat
  | .tile t _ => t / 256
  | .sup d _ => d

/-- The issue slot number (R54). -/
def Ref.slot : Ref → Nat
  | .tile _ k => k
  | .sup _ k => k

/-- Run a meaning on the strand that issues. -/
def State.withCur (s : State) (f : Strand → State) : Host.Outcome State Fault Refusal :=
  match s.strand s.cur with
  | none => .fault .noStrand
  | some st => .next (f st)

/-! ## Registers of a strand -/

/-- Read a general register; none is hard-wired (R101). -/
def Strand.rd (st : Strand) (i : GReg) : W64 := st.g[i.toNat]'i.isLt
/-- Write a general register. -/
def Strand.wr (st : Strand) (i : GReg) (v : W64) : Strand := { st with g := st.g.set i.toNat v i.isLt }

/-- The PC after the instruction last issued. -/
def Strand.after (st : Strand) : W64 := st.fetch.own + 4

/-! ## Time, agenda, timers -/

/-- The pod time at the start of this clk: 8 clk are 5 ticks (R4). All packages have one clk count and one phase
(DESIGN CHOICE, log entry 11). -/
def State.podTime (s : State) : W64 := BitVec.ofNat 64 (s.podBase + (5 * s.clk + s.podPhase) / 8)

/-- The pod time of another clk. -/
def State.podTimeAt (s : State) (clk : Nat) : W64 := BitVec.ofNat 64 (s.podBase + (5 * clk + s.podPhase) / 8)

/-- Let an agent's step follow. -/
def State.post (s : State) (e : Instr) (x : EvArg) : State := { s with agenda := s.agenda ++ [.happen e x] }

/-- Let an agent's step follow at the end of this clk. -/
def State.atEnd (s : State) (e : Instr) (x : EvArg) : State := { s with late := s.late ++ [.happen e x] }

/-- Let an agent's step follow in a later clk. -/
def State.later (s : State) (n : Nat) (e : Instr) (x : EvArg) : State :=
  { s with timers := s.timers ++ [⟨s.clk + n, e, x⟩] }

/-- Let an agent's step follow after some clk, or at once. -/
def State.afterClk (s : State) (n : Nat) (e : Instr) (x : EvArg) : State :=
  if n = 0 then s.post e x else s.later n e x

/-- Mesh hops between two tiles of a die (R285): |Δx| + |Δy|. -/
def hops (t u : Nat) : Nat :=
  (t % 16 - u % 16) + (u % 16 - t % 16) + (t / 16 % 16 - u / 16 % 16) + (u / 16 % 16 - t / 16 % 16)

/-- clk from the issue of an access until it reaches another tile's scratchpad (R285); beyond the die it is not
fixed (R393), and 40 here (DESIGN CHOICE, log entry 11). -/
def meshDelay (t u : Nat) : Nat := if t / 256 = u / 256 then 8 + hops t u else 40

/-! ## Completing and holding -/

/-- clk that the issue of the last instruction takes: an IMX pair takes two (R68). -/
def Fetch.clks (f : Fetch) : Nat := if f.start = f.own then 1 else 2

/-- A retired instruction: the PC moves on and a stepped strand halts again (R309 action 7). -/
def Strand.retired (st : Strand) (pc : W64) : Strand :=
  { st with
    pc := pc
    hold := none
    run := if st.stepping then .halted else st.run
    stepping := false
    passed := none
    ready := Nat.max st.ready (st.lastIssue + st.fetch.clks) }

/-- The instruction of `r` retires with the strand as given: the PC moves on. -/
def State.complete (s : State) (r : Ref) (st : Strand) : State := s.setStrand r (st.retired st.after)

/-- The issuing strand's instruction retires. -/
def State.retire (s : State) (st : Strand) : State := s.complete s.cur st

/-- The issuing strand's instruction retires and execution goes on at `pc`. -/
def State.jump (s : State) (st : Strand) (pc : W64) : State :=
  s.setStrand s.cur (st.retired pc)

/-- The instruction holds without visible effect (R141); `since` orders waiters (R67). -/
def State.holdAt (s : State) (r : Ref) (st : Strand) (h : Hold) : State :=
  { s.setStrand r { st with hold := some h, since := s.fresh } with fresh := s.fresh + 1 }

def State.holdCur (s : State) (st : Strand) (h : Hold) : State := s.holdAt s.cur st h

/-- A strand whose hold has ended: its instruction issues again, a WAIT in the next clk (R285). -/
def Strand.woken (st : Strand) (h : Hold) (clk : Nat) : Strand :=
  match h with
  | .wait _ => { st with hold := none, ready := clk + 1 }
  | _ => { st with hold := none }

/-- The next issue of a strand is not before a clk. -/
def Strand.notBefore (st : Strand) (clk : Nat) : Strand := { st with ready := Nat.max st.ready clk }

/-- Let the held strands of a tile that meet a condition issue their instruction again. -/
def State.wake (s : State) (t : Nat) (p : Strand → Hold → Bool) : State :=
  let clk := s.clk
  s.modTile t (fun w => { w with strands := w.strands.map (fun e =>
    match e.2.hold with
    | some h => if p e.2 h then (e.1, e.2.woken h clk) else e
    | none => e) })

/-- The same on every tile. -/
def State.wakeAll (s : State) (p : Nat → Strand → Hold → Bool) : State :=
  s.tiles.foldl (fun s e => s.wake e.1 (p e.1)) s

/-- Room in a context's spill area lets its held FORKs issue again (R63). -/
def State.wakeSpill (s : State) (a : Nat) : State :=
  s.wakeAll (fun _ st h => st.asid == a && h == .spillFull)

/-! ## Trace (R311, R312) -/

/-- An entry goes into the buffer at wp, which advances. -/
def Trace.push (x : Trace) (slot kind payload : Nat) (time : W64) : Trace :=
  let c := x.ctl.toNat
  let wp := field c 11 0
  let e := time.toNat + 2 ^ 64 * (kind * 2 ^ 61 + slot % 16 * 2 ^ 57 + payload % 2 ^ 57)
  { x with
    buf := x.buf.put 0 wp (BitVec.ofNat 128 e)
    ctl := BitVec.ofNat 64 (c - wp + (wp + 1) % 4096) }

/-- After the last entry that follows a trigger, frozen is set (R312). -/
def Trace.countDown (x : Trace) : Trace :=
  match x.left with
  | none => x
  | some n => if n ≤ 1 then { x with left := none, ctl := x.ctl ||| (1#64 <<< 63) } else { x with left := some (n - 1) }

/-- A trace entry of a tile is recorded, unless tracing is off or frozen for it. -/
def Trace.add (x : Trace) (slot kind payload : Nat) (time : W64) : Trace :=
  let c := x.ctl.toNat
  let slotOn := if slot < 8 then (field c 23 16).testBit slot else (field c 23 16).testBit 7
  if field c 63 63 = 1 ∨ (field c 55 48).testBit kind = false ∨ slotOn = false then x
  else (x.push slot kind payload time).countDown

/-- Whether tracing is on, not frozen, its trigger of the given kind, and no trigger is in progress. -/
def Trace.trigs (x : Trace) (kind : Nat) : Bool :=
  let c := x.ctl.toNat
  field c 63 63 == 0 && field c 55 48 != 0 && field c 27 24 == kind && x.left.isNone

/-- Record an entry for a tile strand; a supervisor has no trace. A matching trigger follows as a step. -/
def State.trace (s : State) (r : Ref) (kind payload : Nat) : State :=
  match r with
  | .sup _ _ => s
  | .tile t k =>
    let x := (s.tile t).trace
    let hit := (3 ≤ kind && kind ≤ 5 && x.trigs 2 && decide (x.a.toNat ≤ payload && payload ≤ x.b.toNat))
      || (kind == 6 && x.trigs 3)
    let s := s.modTile t (fun w => { w with trace := x.add k kind payload s.podTime })
    if hit then s.post .traceTrigger { tile := t, slot := k, value := BitVec.ofNat 64 payload } else s

/-! ## Status word (R54) -/

/-- R54 kind code. -/
def Kind.code : Kind → Nat
  | .anchored => 0
  | .forked => 1
  | .impression => 2
  | .handler => 3
  | .supervisor => 0

def Kind.isAnchored (k : Kind) : Bool := k == .anchored
def Kind.isLight (k : Kind) : Bool := k == .forked || k == .impression || k == .handler

/-- Class inherited at a BART (R70): of the strands that wait at it, by one that has not arrived, and by one that arrived
after them; after the release it lasts to the end of that clk. -/
def Tile.inherited (w : Tile) (clk slot : Nat) (st : Strand) : Nat :=
  match w.team with
  | some m =>
    if st.kind.isAnchored then
      let before := m.bart.takeWhile (· != slot)
      let old := if m.lentAt = clk then m.lent.get 0 slot else 0
      w.strands.foldl (fun a e => if before.contains e.1 then Nat.max a e.2.cls.toNat else a) old
    else 0
  | none => 0

/-- Effective class (R70). -/
def Tile.eclass (w : Tile) (clk slot : Nat) (st : Strand) : Nat :=
  Nat.max st.cls.toNat (w.inherited clk slot st)

/-- Bit n set where token n has the property. -/
def tokBits (v : Vector Tok 8) (p : Tok → Bool) : Nat :=
  v.toList.foldr (fun t a => 2 * a + (if p t then 1 else 0)) 0

/-- The tokens a strand's instructions reach: the team's, or its own (R21). -/
def State.toks (s : State) (r : Ref) (st : Strand) : Vector Tok 8 :=
  match r with
  | .tile t _ =>
    if st.kind.isAnchored then ((s.tile t).team.map (·.toks)).getD st.toks else st.toks
  | .sup _ _ => st.toks

/-- Replace the tokens a strand reaches; `st` is the strand to store for a light one. -/
def State.setToks (s : State) (r : Ref) (st : Strand) (v : Vector Tok 8) : State :=
  match r with
  | .tile t _ =>
    if st.kind.isAnchored then s.modTile t (fun w => { w with team := w.team.map (fun m => { m with toks := v }) })
    else s.setStrand r { st with toks := v }
  | .sup _ _ => s.setStrand r { st with toks := v }

/-- The fields of sys.status (R54), of a strand in a slot with the given tokens, effective class and away bit. -/
def statusWord (v : Vector Tok 8) (ecl away slot : Nat) (st : Strand) : W64 :=
  BitVec.ofNat 64 (tokBits v (·.failed) * 2 ^ 24 + tokBits v (·.pending) * 2 ^ 16 + ecl * 2 ^ 14
    + st.cls.toNat * 2 ^ 12 + st.kind.code * 2 ^ 10 + away * 2 ^ 9 + slot)

/-- sys.status (R54). -/
def State.status (s : State) (r : Ref) (st : Strand) : W64 :=
  let v := s.toks r st
  let (slot, away, ecl) := match r with
    | .tile t k => (k, if st.kind.isLight && st.started && st.origin != t then 1 else 0, (s.tile t).eclass s.clk k st)
    | .sup _ k => (k, 0, st.cls.toNat)
  statusWord v ecl away slot st

/-! ## Taking a fault (R304, R305) and going on (R309) -/

/-- Fault codes (R306). -/
abbrev fcUndefined : Byte := 0x01
abbrev fcPrivilege : Byte := 0x02
abbrev fcNotAnchored : Byte := 0x03
abbrev fcStrandKind : Byte := 0x04
abbrev fcInstrAlign : Byte := 0x05
abbrev fcInstrAccess : Byte := 0x06
abbrev fcTokenReuse : Byte := 0x07
abbrev fcAddress : Byte := 0x10
abbrev fcContext : Byte := 0x11
abbrev fcBounds : Byte := 0x12
abbrev fcMisalign : Byte := 0x13
abbrev fcDescriptor : Byte := 0x14
abbrev fcWatch : Byte := 0x15
abbrev fcYieldDecl : Byte := 0x16
abbrev fcVecParam : Byte := 0x17
abbrev fcExchange : Byte := 0x18
abbrev fcEngParam : Byte := 0x19
abbrev fcHandle : Byte := 0x1A
abbrev fcPlate : Byte := 0x1B
abbrev fcPage : Byte := 0x20
abbrev fcHostAccess : Byte := 0x21
abbrev fcAtomic : Byte := 0x22
abbrev fcPoison : Byte := 0x30
abbrev fcToken : Byte := 0x31
abbrev fcSoftware : Byte := 0x40
abbrev fcBreak : Byte := 0x50
abbrev fcAsleep : Byte := 0x60
abbrev fcEscalation : Byte := 0x70

/-- What a trap reports beside its code (R305). -/
structure TrapInfo where
  cause : Byte
  addr : W64
  tokens : Byte
  errs : Vector W64 8
  deriving DecidableEq, Repr

/-- No token reported. -/
def TrapInfo.at (cause : Byte) (addr : W64) : TrapInfo := ⟨cause, addr, 0, Vector.replicate 8 0⟩

/-- The fault packet of a tile strand (R305). -/
def State.packetOf (s : State) (t k : Nat) (st : Strand) (code : Byte) (i : TrapInfo) : FaultPkt where
  code := code
  slot := k
  kind := BitVec.ofNat 2 st.kind.code
  tokens := i.tokens
  cause := i.cause
  gen := (s.tile t).gens.get 0 k
  tile := t
  pc := st.fetch.start
  word := st.fetch.word
  word2 := st.fetch.word2
  addr := i.addr
  asid := st.asid
  block := st.block
  edition := st.edition
  time := s.podTime
  errs := i.errs

/-- A strand takes a precise fault: it freezes with its PC at the instruction or its IMX, and its packet
goes to the die supervisor (R304), or, for a supervisor strand, an escalation to core 3 (R298). -/
def State.trap (s : State) (r : Ref) (st : Strand) (code : Byte) (i : TrapInfo) : State :=
  let frozen := { st with run := .frozen, hold := none, pc := st.fetch.start, passed := none }
  match r with
  | .tile t k =>
    let p := s.packetOf t k st code i
    let s := (s.setStrand r { frozen with pkt := some p }).modDie (t / 256) (fun d => { d with faults := d.faults ++ [p] })
    (s.trace r 6 code.toNat).post .faultPacketWrite { die := t / 256 }
  | .sup d k => (s.setStrand r frozen).post .supervisorEscalation { die := d, slot := k }

/-- A fault with an address and no cause, of the issuing strand. -/
def State.raise (s : State) (st : Strand) (code : Byte) (addr : W64) : State :=
  s.trap s.cur st code (TrapInfo.at 0 addr)

/-- The return from a fault (R309 action 1): the strand continues at the PC in its window. -/
def Strand.resumed (st : Strand) : Strand := { st with run := .running, hold := none }

/-! ## Partial results -/

/-- An instruction on its way: it goes on with a value, or it has ended (held, trapped or retired). -/
inductive Got (α : Type) where
  | go (s : State) (a : α)
  | stop (s : State)

/-- Go on with the value. -/
def Got.andThen {α β : Type} (x : Got α) (f : State → α → Got β) : Got β :=
  match x with
  | .go s a => f s a
  | .stop s => .stop s

/-- End with a state. -/
def Got.finish {α : Type} (x : Got α) (f : State → α → State) : State :=
  match x with
  | .go s a => f s a
  | .stop s => s

/-! ## Ordering (R80, R81) -/

/-- The tile of a strand, for its store buffer and side log. -/
def Ref.tile? : Ref → Option Nat
  | .tile t _ => some t
  | .sup _ _ => none

/-- Prior stores are registered and none is in the side log (R80, R97). A supervisor's stores perform at
once (DESIGN CHOICE, log entry 12). -/
def State.drained (s : State) (r : Ref) (st : Strand) : Bool :=
  match r with
  | .tile t _ => (s.tile t).sb.all (fun e => e.uid != st.uid) && (s.tile t).side.all (fun e => e.uid != st.uid)
  | .sup _ _ => true

/-- A release action (R80): the instruction holds until prior stores are registered. -/
def State.release (s : State) (st : Strand) : Got Unit :=
  if s.drained s.cur st then .go s () else .stop (s.holdCur st .release)

/-- The part of an acquire action in the tile: unowned L1 words lose their valid bit (R81). -/
def State.dropUnowned (s : State) (r : Ref) : State :=
  match r with
  | .tile t _ => s.modTile t (fun w => { w with l1 := w.l1.filter (fun e => e.2.owned) })
  | .sup _ _ => s

/-- An acquire action of the strand in `r` (R81); the strand is stored with its new acquire time. -/
def State.acquire (s : State) (r : Ref) (st : Strand) : State :=
  (s.dropUnowned r).setStrand r { st with acq := s.podTime, mustAcquire := false }

/-- Retire with an acquire action. -/
def State.retireAcq (s : State) (r : Ref) (st : Strand) : State :=
  (s.dropUnowned r).complete r { st with acq := s.podTime }


/-- Retire, with an acquire action when the order field asks for one. -/
def State.retireOrd (s : State) (r : Ref) (st : Strand) (o : Order) : State :=
  if o.isAcq then s.retireAcq r st else s.complete r st

/-! ## Teams -/

/-- A strand that may issue (R68): running, not held, its time has come, its tile powered, its team in place. -/
def Tile.ready (w : Tile) (clk : Nat) (st : Strand) : Bool :=
  st.run == .running && st.hold.isNone && decide (st.ready ≤ clk) && !w.gated &&
    (!st.kind.isAnchored || (w.team.map (fun m => !m.stopping && decide (m.start ≤ clk))).getD false)

/-- A supervisor strand that may issue. -/
def Strand.supReady (st : Strand) (clk : Nat) : Bool :=
  st.run == .running && st.hold.isNone && decide (st.ready ≤ clk)

/-- The slot that issues on a tile (R68): highest effective class, round robin after the last chosen; before any choice of a
class the search starts at slot 0 (DESIGN CHOICE, log entry 2). -/
def Tile.choose (w : Tile) (clk : Nat) : Option Nat :=
  if clk < w.nextIssue then none
  else
    let l := w.strands.filter (fun e => w.ready clk e.2)
    match l with
    | [] => none
    | _ =>
      let c := l.foldl (fun a e => Nat.max a (w.eclass clk e.1 e.2)) 0
      let last := w.lastPick.get 15 c
      (((List.range 16).map (fun i => (last + 1 + i) % 16)).find? (fun k =>
        l.any (fun e => e.1 == k && w.eclass clk e.1 e.2 == c)))

/-- The team of an anchored strand. -/
def State.team (s : State) (t : Nat) : Option Team := (s.tile t).team
def State.modTeam (s : State) (t : Nat) (f : Team → Team) : State :=
  s.modTile t (fun w => { w with team := w.team.map f })

/-- Occupied anchored slots (R57: non-exited strands). -/
def Tile.anchored (w : Tile) : Table Strand := w.strands.filter (fun e => decide (e.1 < 8))

/-- Team instructions: a light strand takes the not-anchored fault (R20), a supervisor the strand-kind
fault (R298). -/
def State.withTeam (s : State) (st : Strand) (f : Nat → Team → State) : State :=
  match s.cur with
  | .sup _ _ => s.raise st fcStrandKind 0
  | .tile t _ =>
    match st.kind, s.team t with
    | .anchored, some m => f t m
    | _, _ => s.raise st fcNotAnchored 0

/-- The fault of a user-only coordination instruction in a supervisor strand (R298). -/
def State.userOnly (s : State) (st : Strand) (f : Nat → State) : State :=
  match s.cur with
  | .sup _ _ => s.raise st fcStrandKind 0
  | .tile t _ => f t

/-! ## Tokens (R110, R184, R249) -/

/-- The masked tokens, as (number, token). -/
def masked (v : Vector Tok 8) (mask : Byte) : List (Nat × Tok) :=
  (v.toList.zipIdx.map (fun e => (e.2, e.1))).filter (fun e => mask.getLsbD e.1)

/-- Observe failed masked tokens: the trap that lists them, their failed bits clear; the strand will not wait or trap
again there (R110). -/
def State.observeFailed (s : State) (st : Strand) (mask : Byte) : State :=
  let v := s.toks s.cur st
  let bad := (masked v mask).filter (fun e => e.2.failed)
  let errs := bad.foldl (fun (a : Vector W64 8) e => a.setIfInBounds e.1 e.2.err) (Vector.replicate 8 0)
  let bits := bad.foldl (fun (a : Nat) e => a + 2 ^ e.1) 0
  let v' := bad.foldl (fun (a : Vector Tok 8) e => a.setIfInBounds e.1 Tok.idle) v
  let s := s.setToks s.cur st v'
  match s.strand s.cur with
  | none => s
  | some st => (s.trap s.cur st fcToken ⟨0, 0, BitVec.ofNat 8 bits, errs⟩).modStrand s.cur
      (fun x => { x with passed := some st.fetch.start })

/-- The team's tokens are not yet exchanged: its instructions that name one hold (R332 step 3). -/
def State.tokensAway (s : State) (st : Strand) : Bool :=
  match s.cur with
  | .tile t _ => st.kind.isAnchored && ((s.tile t).team.map (·.noExchange)).getD false
  | .sup _ _ => false

/-- WAIT, and the wait mask of an engine instruction (R110, R246 step 1): hold while a masked token is
pending, trap on failed ones, else go on; once over, it is over for the instruction. -/
def State.waitMask (s : State) (st : Strand) (mask : Byte) (h : Hold) : Got Unit :=
  let m := masked (s.toks s.cur st) mask
  if st.passed = some st.fetch.start then .go s ()
  else if s.tokensAway st && !m.isEmpty then .stop (s.holdCur st .exchange)
  else if m.any (fun e => e.2.pending) then .stop (s.holdCur st h)
  else if m.any (fun e => e.2.failed) then .stop (s.observeFailed st mask)
  else .go s ()

/-- Hold while tk is pending; a failed unobserved tk is the token-reuse fault (R184, R246 step 2). -/
def State.tokenFree (s : State) (st : Strand) (t : TokReg) : Got Unit :=
  let k := (s.toks s.cur st)[t.toNat]'t.isLt
  if s.tokensAway st then .stop (s.holdCur st .exchange)
  else if k.pending then .stop (s.holdCur st (.token (1#8 <<< t.toNat)))
  else if k.failed then .stop (s.raise st fcTokenReuse 0)
  else .go s ()

/-- The strand waits for a LAUNCH of its own among the masked tokens: its WAIT acquires (R84). -/
def State.joinsLaunch (s : State) (st : Strand) (mask : Byte) : Bool :=
  (masked (s.toks s.cur st) mask).any (fun e => e.2.launch == some st.uid)

/-- tk becomes pending; the strand as stored afterwards. -/
def State.tokenPend (s : State) (st : Strand) (t : TokReg) (launch : Option Nat) : State × Strand :=
  let v := (s.toks s.cur st).set t.toNat ⟨true, false, 0, launch⟩ t.isLt
  if st.kind.isAnchored then (s.setToks s.cur st v, st) else (s, { st with toks := v })

/-- Completion of a token: cleared, or failed with its error word (R249). -/
def Tok.done (k : Tok) (err : Option W64) : Tok :=
  match err with
  | none => { k with pending := false, failed := false, err := 0 }
  | some e => { k with pending := false, failed := true, err := e }

/-- The tokens of a team or strand with one completed. -/
def tokSetDone (v : Vector Tok 8) (k : TokReg) (err : Option W64) : Vector Tok 8 :=
  v.set k.toNat ((v[k.toNat]'k.isLt).done err) k.isLt

/-- A hold on tokens of a mask ends: none of them is pending (R110). -/
def Hold.tokensOver (v : Vector Tok 8) : Hold → Bool
  | .token m => (masked v m).all (fun e => !e.2.pending)
  | .wait m => (masked v m).all (fun e => !e.2.pending)
  | .drain => true
  | _ => false

/-- Complete a token of the team on a tile, waking the strands whose wait it ends. -/
def State.teamTokenDone (s : State) (t : Nat) (k : TokReg) (err : Option W64) : State :=
  let s := s.modTeam t (fun m => { m with toks := tokSetDone m.toks k err })
  let v := ((s.tile t).team.map (·.toks)).getD (Vector.replicate 8 Tok.idle)
  s.wake t (fun st h => st.kind.isAnchored && h.tokensOver v)

/-- Apply to every tile strand, wherever it is: in a slot, waiting, on a deque, saved or in transit. -/
def State.everywhere (s : State) (f : Strand → Strand) : State :=
  let g (e : Nat × Strand) : Nat × Strand := (e.1, f e.2)
  { s with
    tiles := s.tiles.map (fun (e : Nat × Tile) => (e.1, { e.2 with
      strands := e.2.strands.map g
      waiting := e.2.waiting.map f
      deque := e.2.deque.map f
      swapped := e.2.swapped.map (fun x => { x with strands := x.strands.map g }) }))
    transit := s.transit.map (fun x => { x with strand := f x.strand })
    actives := s.actives.map (fun x => { x with strand := f x.strand }) }

/-- Complete a private token of the strand with the given identity (R21). -/
def State.privTokenDone (s : State) (uid : Nat) (k : TokReg) (err : Option W64) : State :=
  let s := s.everywhere (fun st =>
    if st.uid = uid then { st with toks := tokSetDone st.toks k err } else st)
  s.wakeAll (fun _ st h => st.uid == uid && h.tokensOver st.toks)

/-- A team of a context, edition and block. -/
def Team.is (m : Team) (a i b : Nat) : Bool := m.asid == a && m.ident == i && m.block == b

/-- The owner of the tokens a strand reaches (R21, R184). -/
def State.owner (s : State) (r : Ref) (st : Strand) : TokOwner :=
  match r with
  | .tile t _ =>
    match st.kind, s.team t with
    | .anchored, some m => .team m.asid m.ident m.block
    | _, _ => .strand st.uid
  | .sup _ _ => .strand st.uid

/-- Complete a token of an asynchronous instruction issued on tile `t` (R184, R249). The tokens of a
swapped-out team are in its save. -/
def State.tokenDone (s : State) (t : Nat) (o : TokOwner) (k : TokReg) (err : Option W64) : State :=
  match o with
  | .strand uid => s.privTokenDone uid k err
  | .team a i b =>
    if ((s.team t).map (fun m => m.is a i b)).getD false then s.teamTokenDone t k err
    else
      s.modTile t (fun w => { w with swapped := w.swapped.map (fun x =>
        if x.team.is a i b then
          { x with team := { x.team with toks := tokSetDone x.team.toks k err } }
        else x) })

/-- Accesses of a strand before a point are still to perform on a tile (R79, R93). -/
def Tile.openBefore (w : Tile) (p : Point) : Bool :=
  w.sb.any (fun e => e.uid == p.uid && !e.registered && decide (e.n < p.n)) ||
    w.side.any (fun e => e.uid == p.uid && decide (e.n < p.n))

/-! ## Address space (R13, R24, R25) -/

/-- The range of R24 an address lies in. -/
inductive Space where
  | virt
  | localOff (off : Nat)
  | tile (t off : Nat)
  | none
  deriving DecidableEq, Repr

/-- Scratchpad bytes of a tile (R5). -/
abbrev spadSize : Nat := 0x180000

/-- R24. -/
def Space.of (a : W64) : Space :=
  let n := a.toNat
  if n < 2 ^ 56 then .virt
  else if 0xD000000000000000 ≤ n ∧ n < 0xD000000000000000 + spadSize then .localOff (n - 0xD000000000000000)
  else if 0xE000000000000000 ≤ n ∧ n < 0xE000010000000000 then
    let o := n - 0xE000000000000000
    .tile (o / 2 ^ 21) (o % 2 ^ 21)
  else .none

/-- The tile-space address of a scratchpad byte (R13). -/
def tileSpace (t off : Nat) : W64 := BitVec.ofNat 64 (0xE000000000000000 + t * 2 ^ 21 + off)

/-- A tile in the partition of a context (R303): package in its mask as the issuing die has it loaded, and
grant bit set on the tile's die. -/
def State.inPartition (s : State) (d a t : Nat) : Bool :=
  (s.ctx d a).valid && (s.ctx d a).pkgmask.getLsbD (t / 1024) &&
    ((s.die (t / 256)).grants.get 0 a).getLsbD (t % 256)

/-- The grant of a context on a tile (R25): of its resident team, or else of the first one swapped out from it
(DESIGN CHOICE, log entry 57). -/
def Tile.grantOf (w : Tile) (a : Nat) : Option Nat :=
  match w.team with
  | some m => if m.asid = a then some m.grant
    else (w.swapped.find? (fun x => x.team.asid == a)).map (fun x => x.team.grant)
  | none => (w.swapped.find? (fun x => x.team.asid == a)).map (fun x => x.team.grant)

/-- What an access aims at, once the checks at issue have passed (R24, R25, R152; R299 for supervisors). -/
inductive Target where
  | virt
  | own (off : Nat)
  | away (t off : Nat)
  | phys (pa : Nat)
  | window (t off : Nat)
  deriving DecidableEq, Repr

/-- Scratchpad range check against the grant (R25). -/
def Tile.checkGrant (w : Tile) (a off n : Nat) : Except Byte Unit :=
  match w.grantOf a with
  | none => .error fcContext
  | some g => if off + n ≤ g then .ok () else .error fcBounds

/-- Checks 1 and 2 of R152 for n bytes at ea, by a strand of context a on tile t. An access that starts in a hole of tile space
and ends in the next tile's scratchpad is out of bounds (DESIGN CHOICE, log entry 62). -/
def State.checkAccess (s : State) (t a : Nat) (ea : W64) (n : Nat) : Except Byte Target :=
  match Space.of ea with
  | .none => .error fcAddress
  | .virt => if ea.toNat + n ≤ 2 ^ 56 then .ok .virt else .error fcAddress
  | .localOff off =>
    if off + n ≤ spadSize then
      match (s.tile t).checkGrant a off n with
      | .error c => .error c
      | .ok _ => .ok (.own off)
    else .error fcAddress
  | .tile u off =>
    if 0xE000010000000000 < ea.toNat + n then .error fcAddress
    else if spadSize ≤ off then .error fcBounds
    else if s.inPartition (t / 256) a u = false then .error fcContext
    else if u = t then
      match (s.tile t).checkGrant a off n with
      | .error c => .error c
      | .ok _ => .ok (.own off)
    else if off + n ≤ spadSize then .ok (.away u off)
    else .error fcBounds

/-- R299, for n bytes at ea by a supervisor strand of die d: device memory is 128 GiB of each die (R1, R5), and what lies
beyond it in the die's 2^39 is none: an address fault (DESIGN CHOICE, log entry 49). -/
def State.checkSup (s : State) (d : Nat) (ea : W64) (n : Nat) : Except Byte Target :=
  let a := ea.toNat
  if a < 2 ^ 56 then
    if a + n ≤ 2 ^ 56 ∧ (s.die d).svasid ≠ 0 then .ok .virt else .error fcAddress
  else if 0xC000000000000000 ≤ a ∧ a + n ≤ 0xC000000000000000 + 2 ^ 50 ∧
      (a - 0xC000000000000000) % 2 ^ 39 + n ≤ 2 ^ 37 then .ok (.phys (a - 0xC000000000000000))
  else if 0xF000000000000000 ≤ a ∧ a + n ≤ 0xF000000000000000 + 2 ^ 32 then
    .ok (.window (d * 256 + (a - 0xF000000000000000) / 2 ^ 24) (a % 2 ^ 24))
  else .error fcAddress

/-- The context of a strand's device virtual addresses (R299). -/
def State.asidOf (s : State) (r : Ref) (st : Strand) : Nat :=
  match r with
  | .tile _ _ => st.asid
  | .sup d _ => (s.die d).svasid.toNat

/-- The home tile of a place (R64). -/
def Loc.home : Loc → Option Nat
  | .spad t _ => some t
  | .dev pa => some (pa / 2 ^ 39 % 2048 * 256 + pa / 64 % 256)
  | .host _ => none

/-- The die at which a place is performed (R75). -/
def Loc.die : Loc → Option Nat
  | .spad t _ => some (t / 256)
  | .dev pa => some (pa / 2 ^ 39)
  | .host _ => none

/-- A place some bytes further on. -/
def Loc.plus (l : Loc) (n : Nat) : Loc :=
  match l with
  | .spad t off => .spad t (off + n)
  | .dev pa => .dev (pa + n)
  | .host bus => .host (bus + n)

/-- The keys of the bytes of some runs, in order. -/
def segKeys (segs : List (Loc × Nat)) : List Nat :=
  segs.flatMap (fun e => (List.range e.2).map (fun i => (e.1.plus i).key))

end Sys2Proof.Machine
end

