-- ==== Sys2Proof/Machine/Mem.lean ====
section
/-! DEFINITION. The memory system: page tables and TLBs (R339 to R346), editions' reports and notices
(R351, R355), writes at the home with ownership, poison and watches (R79, R196 to R198, R361, R362), the
values loads return (R77, R78, R86, R92). -/
namespace Sys2Proof.Machine

/-! ## Page-table entries (R340) -/

abbrev pteValid (e : W64) : Bool := e.getLsbD 63
/-- size field; 7 is a pointer -/
def pteSize (e : W64) : Nat := field e.toNat 62 60
def pteTag (e : W64) : BitVec 2 := e.extractLsb' 58 2
abbrev pteR (e : W64) : Bool := e.getLsbD 57
abbrev pteW (e : W64) : Bool := e.getLsbD 56
abbrev pteX (e : W64) : Bool := e.getLsbD 55
abbrev pteD (e : W64) : Bool := e.getLsbD 54
abbrev pteHost (e : W64) : Bool := e.getLsbD 53
def ptePa (e : W64) : Nat := field e.toNat 49 12 * 4096

/-- Bytes of a page of a size code (R340). -/
def pageBytes (code : Nat) : Nat :=
  match code with
  | 0 => 2 ^ 12
  | 1 => 2 ^ 16
  | 2 => 2 ^ 21
  | 3 => 2 ^ 25
  | 4 => 2 ^ 29
  | 5 => 2 ^ 33
  | _ => 2 ^ 37

/-- Low VA bit and index width of a level (R339). -/
def levelBits (lvl : Nat) : Nat × Nat :=
  match lvl with
  | 0 => (46, 10)
  | 1 => (37, 9)
  | 2 => (29, 8)
  | 3 => (21, 8)
  | _ => (12, 9)

/-- Leaf sizes allowed at a level: plain, grouped (R339). -/
def levelSizes (lvl : Nat) : List Nat :=
  match lvl with
  | 0 => []
  | 1 => [6]
  | 2 => [4, 5]
  | 3 => [2, 3]
  | _ => [0, 1]

/-- 64 KiB, 32 MiB and 8 GiB leaves are grouped (R341). -/
def sizeGrouped (code : Nat) : Bool := code == 1 || code == 3 || code == 5

/-- Reserved bits of an entry are nonzero. -/
def pteReserved (e : W64) : Bool := field e.toNat 52 50 != 0 || field e.toNat 11 0 != 0

/-- A well-formed pointer: tag, r, w, x, d and host zero, not at level 4 (R341). -/
def ptePointerOk (lvl : Nat) (e : W64) : Bool :=
  !pteReserved e && lvl < 4 && field e.toNat 59 53 == 0

/-- A well-formed leaf of a level (R341). -/
def pteLeafOk (lvl : Nat) (e : W64) : Bool :=
  !pteReserved e && (levelSizes lvl).contains (pteSize e) && ptePa e % pageBytes (pteSize e) == 0 &&
    !(pteHost e && pteTag e != 0) && !(pteTag e == 3 && pteW e)

/-- A leaf found by a walk, with the PA of its entry. -/
structure Leaf where
  pte : W64
  key : Nat
  deriving DecidableEq, Repr

/-- The walk from a level down (R341); none: not present (v = 0 or malformed). -/
def walkFrom (m : List Host.Cell) (va : Nat) (fuel lvl table : Nat) : Option Leaf :=
  match fuel with
  | 0 => none
  | fuel + 1 =>
    let (lo, w) := levelBits lvl
    let idx := va / 2 ^ lo % 2 ^ w
    let k0 := table + 8 * idx
    let e0 := Memory.dword m k0
    if pteValid e0 = false then none
    else if pteSize e0 = 7 then
      if ptePointerOk lvl e0 then walkFrom m va fuel (lvl + 1) (ptePa e0) else none
    else if sizeGrouped (pteSize e0) then
      let k := table + 8 * (idx / 16 * 16)
      let e := Memory.dword m k
      if pteValid e && pteSize e == pteSize e0 && pteLeafOk lvl e then some ⟨e, k⟩ else none
    else if pteLeafOk lvl e0 then some ⟨e0, k0⟩ else none

/-- The walk of a context's tables, as the given die has it loaded (R341). -/
def State.walk (s : State) (d a : Nat) (va : Nat) : Option Leaf :=
  if (s.ctx d a).valid = false ∨ 2 ^ 56 ≤ va then none else walkFrom s.mem va 5 0 (s.ctx d a).ptroot

/-- The walk ends at an entry with v = 0: nothing is mapped there, and no entry on the way is malformed (R341). -/
def walkVacant (m : List Host.Cell) (va : Nat) (fuel lvl table : Nat) : Bool :=
  match fuel with
  | 0 => false
  | fuel + 1 =>
    let (lo, w) := levelBits lvl
    let idx := va / 2 ^ lo % 2 ^ w
    let e0 := Memory.dword m (table + 8 * idx)
    if pteValid e0 = false then true
    else if pteSize e0 = 7 then ptePointerOk lvl e0 && walkVacant m va fuel (lvl + 1) (ptePa e0)
    else if sizeGrouped (pteSize e0) then
      let e := Memory.dword m (table + 8 * (idx / 16 * 16))
      pteSize e == pteSize e0 && !pteValid e
    else false

/-- The place of a virtual address under a leaf (R341). -/
def leafLoc (e : W64) (va : Nat) : Loc :=
  let x := ptePa e + va % pageBytes (pteSize e)
  if pteHost e then .host x else .dev x

/-! ## TLBs (R342) -/

/-- The entry covering an address. -/
def tlbFind (l : List TlbEnt) (a va : Nat) : Option TlbEnt :=
  l.find? (fun e => e.asid == a && decide (e.va ≤ va) && decide (va < e.va + e.size))

/-- Install an entry, dropping the oldest beyond the capacity. -/
def tlbAdd (cap : Nat) (l : List TlbEnt) (e : TlbEnt) : List TlbEnt :=
  (l ++ [e]).drop (l.length + 1 - cap)

/-- Translate for a tile strand: first-level TLB, then the die's (R342); none is a miss. -/
def State.xlate (s : State) (t a va : Nat) : Option (State × TlbEnt) :=
  match tlbFind (s.tile t).tlb a va with
  | some e => some (s, e)
  | none =>
    match tlbFind (s.die (t / 256)).tlb a va with
    | some e => some (s.modTile t (fun w => { w with tlb := tlbAdd 64 w.tlb { e with logged := false } }), e)
    | none => none

/-- The runs of n bytes at va, page by page, with the entries that a lookup finds; else the address that misses. -/
def xlateRun (look : State → Nat → Option (State × TlbEnt)) (s : State) (va n : Nat) :
    Except Nat (State × List (Loc × Nat) × List TlbEnt) :=
  match look s va with
  | none => .error va
  | some (s, e) =>
    let room := e.va + e.size - va
    if n ≤ room then .ok (s, [(leafLoc e.leaf va, n)], [e])
    else
      match look s (va + room) with
      | none => .error (va + room)
      | some (s, f) => .ok (s, [(leafLoc e.leaf va, room), (leafLoc f.leaf (va + room), n - room)], [e, f])

/-- The same for a tile strand. -/
def State.xlateRange (s : State) (t a va n : Nat) : Except Nat (State × List (Loc × Nat) × List TlbEnt) :=
  xlateRun (fun s => s.xlate t a) s va n

/-- The translation that a die's TLB holds, for its supervisor strands (R299, R342). -/
def State.xlateDie (s : State) (d a va : Nat) : Option (State × TlbEnt) :=
  (tlbFind (s.die d).tlb a va).map (fun e => (s, e))

/-- A miss: the strand holds and the die's walker is asked (R341, R342). -/
def State.missHold (s : State) (r : Ref) (st : Strand) (va : Nat) (h : Hold) : State :=
  (s.holdAt r st h).post .pageWalk { die := r.die, asid := st.asid, value := BitVec.ofNat 64 va }

/-! ## Editions, reports and notices -/

/-- A live edition of a context (R319). -/
def State.edition (s : State) (a ident : Nat) : Option Edition :=
  (s.root a).editions.find? (fun e => e.ident == ident)

def State.modEdition (s : State) (a ident : Nat) (f : Edition → Edition) : State :=
  s.modRoot a (fun x => { x with editions := x.editions.map (fun e => if e.ident = ident then f e else e) })

/-- Change a package's report of an edition (R327). -/
def State.modReport (s : State) (a ident p : Nat) (f : Report → Report) : State :=
  s.modEdition a ident (fun e => { e with reports := e.reports.put Report.empty p (f (e.reports.get Report.empty p)) })

/-- Add, stopping at 2^32 − 1 (R327). -/
def satAdd (a b : Nat) : Nat := Nat.min (a + b) (2 ^ 32 - 1)

/-- By pod time, package and tile, a fault is no later than another (R327). -/
def FirstFault.early (e f : FirstFault) : Bool :=
  decide (e.time.toNat < f.time.toNat) || (e.time == f.time && (decide (e.pkg < f.pkg) ||
    (e.pkg == f.pkg && decide (e.tile ≤ f.tile))))

/-- Keep the first 8 distinct blocks of a class, each at its earliest fault, earliest first (R327). -/
def addFirst (l : List FirstFault) (f : FirstFault) : List FirstFault :=
  let same (e : FirstFault) : Bool := e.cls == f.cls && e.idx == f.idx
  if l.any (fun e => same e && e.early f) then l
  else
    let l := l.filter (fun e => !same e)
    let cls := l.filter (fun e => e.cls == f.cls)
    let rest := l.filter (fun e => e.cls != f.cls)
    rest ++ (cls.filter (·.early f) ++ f :: cls.filter (fun e => !e.early f)).take 8

/-- The earlier packet by pod time, then package (R327). -/
def earlierPacket (a b : Option (Nat × FaultPkt)) : Option (Nat × FaultPkt) :=
  match a, b with
  | none, y => y
  | x, none => x
  | some x, some y =>
    if y.2.time.toNat < x.2.time.toNat ∨ (y.2.time = x.2.time ∧ y.1 < x.1) then some y else some x

/-- Count a fault of a class in a package's report, with its block and its packet (R192, R327). -/
def Report.fault (x : Report) (cls : Nat) (first : Option FirstFault) (pkt : Option (Nat × FaultPkt)) : Report :=
  { x with
    counts := x.counts.setIfInBounds cls (satAdd (x.counts.getD cls 0) 1)
    firsts := (first.map (addFirst x.firsts)).getD x.firsts
    packet := earlierPacket x.packet pkt }

/-! ## Writes at a home -/

/-- On whose behalf a write is made (R94, R196). -/
inductive Writer where
  | strand (tile : Nat)
  | atomic (tile : Nat)
  | engine (tile : Nat)
  | supervisor
  | external
  | firmware
  deriving DecidableEq, Repr

/-- A store, atomic, RADD or engine writes, so that the read-only path may keep older values (R92). -/
def Writer.ages : Writer → Bool
  | .strand _ => true
  | .atomic _ => true
  | .engine _ => true
  | .supervisor => true
  | .external => false
  | .firmware => false

/-- A new light strand (R55): everything else is 0 or empty. -/
def Strand.fresh (uid asid : Nat) (kind : Kind) (pc : W64) (cls : BitVec 2) : Strand where
  uid := uid
  asid := asid
  kind := kind
  origin := 0
  rank := 0
  g := Vector.replicate 16 0
  pc := pc
  cls := cls
  run := .running
  stepping := false
  hold := none
  since := 0
  fetch := ⟨pc, pc, 0, 0⟩
  toks := Vector.replicate 8 Tok.idle
  children := 0
  parent := none
  block := none
  edition := none
  steal := 0
  imp := none
  acq := 0
  born := 0
  lastIssue := 0
  ready := 0
  regAt := []
  arrival := 0
  started := false
  mustAcquire := true
  passed := none
  pkt := none

/-- A class clamped to the context's ceiling (R69). -/
def clampClass (c : Ctx) (v : Nat) : BitVec 2 := BitVec.ofNat 2 (Nat.min v c.ceiling.toNat)

/-- Free light slots of a tile (R23). -/
def Tile.freeLight (w : Tile) : List Nat :=
  (List.range' 8 8).filter (fun k => (w.strands.find k).isNone)

/-- The tile of a die with the most free light slots, lowest address first (R196). -/
def State.leastLoaded (s : State) (d : Nat) : Nat :=
  ((List.range 256).foldl (fun (b : Nat × Nat) i =>
    let n := (s.tile (d * 256 + i)).freeLight.length
    if b.2 < n then (d * 256 + i, n) else b) (d * 256, (s.tile (d * 256)).freeLight.length)).1

/-- An impression of the entry that a WATCH installed, and of the word if one is given, created and not started (R197). -/
def Strand.isWaitingImp (st : Strand) (inst : Nat) (word : Option W64) : Bool :=
  !st.started && (match st.imp with
    | some i => i.inst == inst && (word.map (i.word == ·)).getD true
    | none => false)

/-- Impressions of an entry and word waiting on any tile; one that issues its first instruction in this clk has
started (R381). -/
def State.waitingImps (s : State) (p : Strand → Bool) : List Strand :=
  s.tiles.flatMap (fun (e : Nat × Tile) => e.2.waiting.filter p ++
    ((e.2.strands.filter (fun x => p x.2 && e.2.choose s.clk != some x.1)).map (·.2)))

/-- Apply to the strands of every tile that meet a condition. -/
def State.mapStrands (s : State) (p : Strand → Bool) (f : Strand → Strand) : State :=
  let g (x : Strand) : Strand := if p x then f x else x
  { s with tiles := s.tiles.map (fun e =>
      (e.1, { e.2 with waiting := e.2.waiting.map g, strands := e.2.strands.map (fun x => (x.1, g x.2)) })) }

/-- A 32-byte notice: kind, then its fields (R356). -/
def noticeBytes (kind f4 f8 f10 f18 : Nat) : List Byte :=
  leBytes 4 kind ++ leBytes 4 f4 ++ leBytes 8 f8 ++ leBytes 8 f10 ++ leBytes 8 f18

/-- A trigger merges into the last waiting impression: its latest value and count (R197). -/
def Strand.mergeImp (st : Strand) (x : W64) : Strand :=
  let g4 := st.rd 4 + 1
  let st := (st.wr 3 x).wr 4 g4
  { st with imp := st.imp.map (fun i => { i with vals := (i.vals.set 2 x).set 3 g4 }) }

/-- The impression strand of a trigger (R55, R197). -/
def impStrand (e : Watch) (c : Ctx) (uid asid d idx clk : Nat) (word o x : W64) : Strand :=
  let st := Strand.fresh uid asid .impression e.pc (clampClass c e.cls.toNat)
  let i := BitVec.ofNat 64 idx
  let st := (((((st.wr 1 word).wr 2 o).wr 3 x).wr 4 1).wr 5 e.arg).wr 6 i
  { st with imp := some ⟨#v[word, o, x, 1, e.arg, i], d, idx, word, e.inst⟩, born := clk }

/-- Create an impression on its target tile: its creation is a wake event there (R174), and it issues its first
instruction 16 + h clk later, if a slot is free (R381); it arrives at the tile, for the order of R23, when it gets there. -/
def State.createImp (s : State) (e : Watch) (asid d idx : Nat) (l : Loc) (word o x : W64) : State :=
  let target := match e.target.toNat with
    | 0 => l.home.getD e.tile
    | 1 => e.tile
    | _ => s.leastLoaded d
  let n := 16 + hops (l.home.getD target) target
  let st := { impStrand e (s.ctx d asid) s.fresh asid d idx s.clk word o x with arrival := s.fresh, ready := s.clk + n }
  let s := s.modTile target (fun w => { w with waiting := w.waiting ++ [st] })
  let s := { s with fresh := s.fresh + 1 }
  (s.atEnd .wakeEvent { tile := target, k := 2 }).later n .impressionStart { tile := target, n := st.uid }

/-- Notices are posted through the home of the page; see `State.notice`. What a trigger leaves: the state,
and an overprint record to post (context, bytes). -/
abbrev Triggered := State × List (Nat × List Byte)

/-- A trigger of entry `key` on a word whose value goes from o to x (R197, R198). -/
def State.trigger (s : State) (d key : Nat) (e : Watch) (l : Loc) (word o x : W64) : Triggered :=
  let asid := key / 256
  let idx := key % 256
  if e.armed = false then
    if e.overprint then
      (s.modDie d (fun w => { w with frisket := w.frisket.ins key { e with dropped := satAdd e.dropped 1 } }), [])
    else (s, [])
  else
    let p (st : Strand) : Bool := st.isWaitingImp e.inst (some word)
    let waiting := s.waitingImps p
    let last := waiting.foldl (fun a st => Nat.max a st.uid) 0
    if (e.queue = false ∧ waiting ≠ []) ∨ (e.queue = true ∧ 4 ≤ waiting.length) then
      (s.mapStrands (fun st => p st && st.uid == last) (·.mergeImp x), [])
    else if e.budget ≠ 0 ∧ e.budget ≤ e.created then
      (s.modDie d (fun w => { w with frisket := w.frisket.ins key { e with armed := false, overprint := true } }),
        [(asid, noticeBytes 1 (d % 2 ^ 16 + idx * 2 ^ 16) e.winPod.toNat s.podTime.toNat word.toNat)])
    else
      let s := s.modDie d (fun w => { w with frisket := w.frisket.ins key { e with created := e.created + 1 } })
      (s.createImp e asid d idx l word o x, [])

/-- Predicate of an entry on old and new word values, unsigned (R196). -/
def Watch.holds (e : Watch) (o x : Nat) : Bool :=
  let v := if e.wide then e.value.toNat else e.value.toNat % 2 ^ 32
  match e.pred.toNat with
  | 0 => x != o
  | 1 => x == v && x != o
  | 2 => decide (o < v) && decide (v ≤ x)
  | 3 => decide (v ≤ o) && decide (x < v)
  | _ => false

/-- A byte of the old contents around a write of bytes at a key. -/
def oldByte (m : List Host.Cell) (key : Nat) (old : List Byte) (k : Nat) : Byte :=
  if key ≤ k ∧ k < key + old.length then old.getD (k - key) 0 else Memory.read m k

/-- One word of one entry after a write of consecutive bytes: whole-word compare and predicate (R95, R196).
The old value of a word of a line poisoned before the write, one of `bad`, is unknown: only predicate any triggers, with
old value 0 (R362). -/
def watchWord (d key addr wa : Nat) (l : Loc) (old : List Byte) (bad : List Nat) (acc : Triggered) : Triggered :=
  match (acc.1.die d).frisket.find key with
  | none => acc
  | some e =>
    let size := if e.wide then 8 else 4
    if wa < e.base.toNat ∨ e.base.toNat + e.len < wa + size then acc
    else
      let k := l.key + wa - addr
      let x := leNat (Memory.readN acc.1.mem k size)
      let o := leNat ((List.range size).map (fun j => oldByte acc.1.mem l.key old (k + j)))
      let wl := if addr ≤ wa then l.plus (wa - addr) else l
      let lost := bad.contains (k / 64)
      if (lost && e.pred == 0) || (!lost && e.holds o x) then
        let r := acc.1.trigger d key e wl (BitVec.ofNat 64 wa) (BitVec.ofNat 64 (if lost then 0 else o))
          (BitVec.ofNat 64 x)
        (r.1, acc.2 ++ r.2)
      else acc

/-- The words of one entry that a write covers, unless its flags leave the writer out (R196). -/
def watchEntry (w : Writer) (d addr : Nat) (l : Loc) (old : List Byte) (bad : List Nat) (acc : Triggered)
    (key : Nat) : Triggered :=
  match (acc.1.die d).frisket.find key with
  | none => acc
  | some e =>
    let skip := match w with
      | .engine _ => !e.eng
      | .external => !e.ext
      | .strand _ => false
      | .atomic _ => false
      | .supervisor => false
      | .firmware => false
    if skip || old.isEmpty then acc
    else
      let size := if e.wide then 8 else 4
      let first := addr / size
      (List.range ((addr + old.length - 1) / size + 1 - first)).foldl
        (fun acc i => watchWord d key addr ((first + i) * size) l old bad acc) acc

/-- All entries of a context on the home die (R194, R196). -/
def State.watchAll (s : State) (w : Writer) (asid addr : Nat) (l : Loc) (old : List Byte) (bad : List Nat) :
    Triggered :=
  match l.die with
  | none => (s, [])
  | some d => (((s.die d).frisket.map (·.1)).filter (fun k => k / 256 == asid)).foldl
      (watchEntry w d addr l old bad) (s, [])

/-- The word of device memory at its home. -/
def State.homeWord (s : State) (k : Nat) : W32 := BitVec.ofNat 32 (leNat (Memory.readN s.mem (4 * k) 4))

/-- Words that n bytes at pa touch. -/
def wordsOf (pa n : Nat) : List Nat := List.range' (pa / 4) ((pa + n - 1) / 4 + 1 - pa / 4)

/-- The newest store to a byte among the buffered ones that a condition picks and that are not registered. -/
def fwdFrom (sb : List StoreEnt) (p : StoreEnt → Bool) (key : Nat) : Option Byte :=
  sb.foldl (fun a e =>
    if p e && !e.registered && e.kind == .store then
      match ((segKeys e.segs).zip e.data).find? (fun x => x.1 == key) with
      | some x => some x.2
      | none => a
    else a) none

/-- Lines of an L1 or RDC. -/
def linesIn {α : Type} (l : Table α) : List Nat := (l.map (fun e => e.1 / 16)).dedup

/-- A tile gives a line of its L1 up: owned words of it return to their home, which has their bytes (R79). -/
def State.evictL1 (s : State) (t line : Nat) : State :=
  let mine := (s.tile t).l1.filter (fun e => e.1 / 16 == line && e.2.owned)
  let s := mine.foldl (fun (s : State) e => s.modDie (4 * e.1 / 2 ^ 39) (fun x =>
    if x.owner.find e.1 = some t then { x with owner := x.owner.del e.1 } else x)) s
  s.modTile t (fun w => { w with l1 := w.l1.filter (fun e => e.1 / 16 != line) })

/-- A word into the L1: 64 KiB in 256 sets of 4 lines (R5); a full set gives a line up, which one is a free value
(DESIGN CHOICE, log entry 50). -/
def State.putL1 (s : State) (t k : Nat) (x : L1Word) : State :=
  let lines := (linesIn (s.tile t).l1).filter (fun i => i % 256 == k / 16 % 256)
  let s := if lines.contains (k / 16) ∨ lines.length < 4 then s
    else { s.evictL1 t (lines.getD (Config.victim s.free % lines.length) 0) with free := s.free + 1 }
  s.modTile t (fun w => { w with l1 := w.l1.ins k x })

/-- A word into a die's RDC: 32 MiB (R1); a full one gives a line up (DESIGN CHOICE, log entry 50). -/
def State.putRdc (s : State) (d k : Nat) (x : RdcWord) : State :=
  let lines := linesIn (s.die d).rdc
  let s := if lines.length < 2 ^ 19 ∨ lines.contains (k / 16) then s
    else
      let line := lines.getD (Config.victim s.free % lines.length) 0
      { s.modDie d (fun y => { y with rdc := y.rdc.filter (fun e => e.1 / 16 != line) }) with free := s.free + 1 }
  s.modDie d (fun y => { y with rdc := y.rdc.ins k x })

/-- The word as a tile that has just registered in it sees it: the home's bytes, and its own stores still on their way. -/
def State.mergedWord (s : State) (t k : Nat) : W32 :=
  BitVec.ofNat 32 (leNat ((List.range 4).map (fun i =>
    (fwdFrom (s.tile t).sb (fun _ => true) (4 * k + i)).getD (Memory.read s.mem (4 * k + i)))))

/-- Registration of a word at the home L2: ownership moves to a storing strand's tile, whose copy is the merged word; other
writers leave it unowned; every other tile's copy becomes unowned; a copy on the side of an atomic or engine goes
(R77, R79, R162). -/
def State.ownWord (s : State) (w : Writer) (fill k : Nat) : State :=
  let d := 4 * k / 2 ^ 39
  let keep : Option Nat := match w with
    | .strand t => some t
    | _ => none
  let s := { s with tiles := s.tiles.map (fun (e : Nat × Tile) =>
    if keep = some e.1 then e
    else (e.1, { e.2 with l1 := e.2.l1.map (fun x => if x.1 = k then (x.1, { x.2 with owned := false }) else x) })) }
  let free (s : State) : State := s.modDie d (fun x => { x with owner := x.owner.del k })
  let dropRdc (s : State) (t : Nat) : State := s.modDie (t / 256) (fun x => { x with rdc := x.rdc.del k })
  let dropL1 (s : State) (t : Nat) : State := s.modTile t (fun x => { x with l1 := x.l1.del k })
  match w with
  | .strand t =>
    (dropRdc (s.modDie d (fun x => { x with owner := x.owner.ins k t })) t).putL1 t k ⟨s.mergedWord t k, true, fill, s.podTime⟩
  | .atomic t => dropRdc (dropL1 (free s) t) t
  | .engine t => dropRdc (dropL1 (free s) t) t
  | .supervisor => free s
  | .external => free s
  | .firmware => free s

/-- The words of n bytes at pa, as of one fill (R87). -/
def State.ownWords (s : State) (w : Writer) (pa n : Nat) : State :=
  (wordsOf pa n).foldl (fun (s : State) k => s.ownWord w (s.free + 1) k) { s with free := s.free + 1 }

/-- The bytes, the history of the read-only path, of a write that it may lag behind, and the poison of the lines (R92, R361,
R362). -/
def State.putBytesBy (s : State) (ages : Bool) (l : Loc) (bs : List Byte) : State :=
  let k := l.key
  let old := Memory.readN s.mem k bs.length
  let full (line : Nat) : Bool := decide (k ≤ line * 64) && decide (line * 64 + 64 ≤ k + bs.length)
  { s with
    mem := Memory.writeN s.mem k bs
    poison := s.poison.filter (fun x => !full x)
    hist := match l with
      | .dev _ => if ages then s.hist ++ [⟨k, s.clk, old⟩] else s.hist
      | .spad _ _ => s.hist
      | .host _ => s.hist }

/-- Bytes that firmware or the marker writes. -/
def State.putBytes (s : State) (l : Loc) (bs : List Byte) : State := s.putBytesBy false l bs

/-- Whether any byte lies on a poisoned line (R362). -/
def State.poisoned (s : State) (k n : Nat) : Bool :=
  s.poison.any (fun x => decide (x * 64 < k + n) && decide (k < x * 64 + 64))

/-- A change wakes the WAITVs on it (R173). -/
def State.wakeWaiters (s : State) (k n : Nat) : State :=
  s.tiles.foldl (fun s e => e.2.strands.foldl (fun s x =>
    match x.2.hold with
    | some (.waitv l m _) =>
      if l.key < k + n ∧ k < l.key + m then s.post .waitvWake { tile := e.1, slot := x.1 } else s
    | _ => s) s) s

/-- A write to a line already copied by a migration is applied at the source and marks it dirty (R353). -/
def State.dirtyMigration (s : State) (pa n : Nat) : State :=
  s.modDie (pa / 2 ^ 39) (fun d => { d with migrations := d.migrations.map (fun m =>
    if m.src ≤ pa ∧ pa < m.src + m.size then
      let line := (pa - m.src) / 64
      let last := (pa + n - 1 - m.src) / 64
      let more := (List.range' line (last + 1 - line)).filter
        (fun i => decide (i < m.copied) && !m.dirty.contains i)
      { m with dirty := m.dirty ++ more }
    else m) })

/-- A write to perform, or a notice to post (R355). -/
inductive Job where
  | write (w : Writer) (views : List (Nat × Nat)) (l : Loc) (bs : List Byte)
  | notice (d asid : Nat) (bs : List Byte)
  deriving DecidableEq, Repr

/-- The addresses at which contexts with watches on a die map a byte of device memory (R355). -/
def State.viewsOf (s : State) (d pa : Nat) : List (Nat × Nat) :=
  ((s.die d).frisket.filterMap (fun x =>
    let a := x.1 / 256
    let page := x.2.base.toNat / 4096 * 4096
    let vas := (List.range (x.2.len / 4096 + 2)).map (fun i => page + 4096 * i)
    (vas.find? (fun va => (s.walk d a va).map (fun f => leafLoc f.pte va) == some (.dev (pa / 4096 * 4096)))).map
      (fun va => (a, va + pa % 4096)))).dedup

/-- Some context's notice page holds an address. -/
def State.noticePage (s : State) (pa : Nat) : Bool :=
  s.dies.any (fun d => d.2.ctxs.any (fun c => c.2.valid && decide (c.2.notice ≤ pa) && decide (pa < c.2.notice + 4096)))

/-- Who writes, and the addresses at which contexts see it: a write of a notice page counts for every context that maps
it, and is never external (R355). -/
def State.seenBy (s : State) (w : Writer) (views : List (Nat × Nat)) (l : Loc) : Writer × List (Nat × Nat) :=
  match l with
  | .dev pa =>
    if s.noticePage pa then
      (if w = .external then .firmware else w, (views ++ s.viewsOf (pa / 2 ^ 39) pa).dedup)
    else (w, views)
  | .spad _ _ => (w, views)
  | .host _ => (w, views)

/-- One write of consecutive bytes at its home, seen by contexts at the addresses `views` (R79, R196). -/
def State.writeAt (s : State) (w : Writer) (views : List (Nat × Nat)) (l : Loc) (bs : List Byte) : Triggered :=
  let (w, views) := s.seenBy w views l
  let old := Memory.readN s.mem l.key bs.length
  let bad := s.poison.filter (fun x => decide (x * 64 < l.key + bs.length) && decide (l.key < x * 64 + 64))
  let s := s.putBytesBy w.ages l bs
  let s := match l with
    | .dev pa => (s.ownWords w pa bs.length).dirtyMigration pa bs.length
    | .spad _ _ => s
    | .host _ => s
  let s := if old = bs then s else s.wakeWaiters l.key bs.length
  views.foldl (fun acc v =>
    let r := acc.1.watchAll w v.1 v.2 l old bad
    (r.1, acc.2 ++ r.2)) (s, [])

/-- Perform writes and post notices, each with the notices it causes (R198, R355). -/
def State.runJobs (fuel : Nat) (jobs : List Job) (s : State) : State :=
  match fuel, jobs with
  | 0, _ => s
  | _, [] => s
  | fuel + 1, .write w views l bs :: rest =>
    let r := s.writeAt w views l bs
    State.runJobs fuel (rest ++ r.2.map (fun x => .notice ((l.die).getD 0) x.1 x.2)) r.1
  | fuel + 1, .notice d a bs :: rest =>
    let c := s.ctx d a
    if c.valid = false then State.runJobs fuel rest s
    else
      let pa := c.notice
      let head := (Memory.dword s.mem pa).toNat
      let tail := (Memory.dword s.mem (pa + 8)).toNat
      let put (off : Nat) (bs : List Byte) : Job :=
        .write .firmware [] (.dev (pa + off)) bs
      if 126 ≤ (head + 2 ^ 64 - tail) % 2 ^ 64 then
        State.runJobs fuel (put 16 (leBytes 8 ((Memory.dword s.mem (pa + 16)).toNat + 1)) :: rest) s
      else
        State.runJobs fuel (put (0x40 + 32 * (head % 126)) bs :: put 0 (leBytes 8 (head + 1)) :: rest) s

/-- Steps enough for the jobs: each notice makes two writes, each overprint disarms an entry. -/
def State.jobFuel (s : State) (jobs : List Job) : Nat :=
  3 * jobs.length + 3 * s.dies.foldl (fun a e => a + e.2.frisket.length) 0 + 1

def State.doJobs (s : State) (jobs : List Job) : State := State.runJobs (s.jobFuel jobs) jobs s

/-- Write runs of bytes issued at consecutive addresses by a context. -/
def State.writeSegs (s : State) (w : Writer) (asid : Nat) (addr : Nat) (segs : List (Loc × Nat))
    (bs : List Byte) : State :=
  match segs with
  | [] => s
  | (l, n) :: rest =>
    State.writeSegs (s.doJobs [.write w [(asid, addr)] l (bs.take n)]) w asid (addr + n) rest (bs.drop n)

/-- Post a notice to a context (R355), as the given die has it loaded. -/
def State.notice (s : State) (d asid : Nat) (bs : List Byte) : State := s.doJobs [.notice d asid bs]

/-- Reasons of the lost-store notice (R356). -/
inductive LostReason where
  | refused | reset | undeclared | unreplayable | host
  deriving DecidableEq, Repr

def LostReason.code : LostReason → Nat
  | .refused => 1
  | .reset => 2
  | .undeclared => 3
  | .unreplayable => 4
  | .host => 5

/-- A store that is not performed (R351): counted in its edition's report and posted as a notice. -/
def State.lostStore (s : State) (tile asid : Nat) (ed : Option Nat) (addr : W64) (why : LostReason) : State :=
  let s := match ed with
    | some i => s.modReport asid i (tile / 1024) (fun x => { x with lost := satAdd x.lost 1 })
    | none => s
  s.notice (tile / 256) asid (noticeBytes 8 why.code addr.toNat (tile * 2 ^ 24 + ed.getD 0xFFFFFF)
    s.podTime.toNat)

/-! ## Scratchpads of teams that are away (R354) -/

/-- Where the bytes of a scratchpad offset of a context's grant are now. -/
inductive Place where
  | bank
  | image (pa : Nat)
  | undeclared
  | reset
  | noGrant
  deriving DecidableEq, Repr

/-- Declared scratchpad ranges of a compact save: (offset, length) (R176). -/
def declRanges (decl : List W64) : List (Nat × Nat) :=
  let n := field (decl.getD 1 0).toNat 19 16
  (decl.drop 2 |>.take n).map (fun w => (field w.toNat 20 0, field w.toNat 41 21))

/-- R354: where a byte of the grant of a swapped-out team is. -/
def Saved.place (x : Saved) (off : Nat) : Place :=
  if x.team.grant ≤ off then .noGrant
  else
    match x.path with
    | .forced => .image (x.pa + 0x10000 + off)
    | .compact =>
      if (declRanges x.decl).any (fun r => decide (r.1 ≤ off) && decide (off < r.1 + r.2)) then
        .image (x.pa + 0x10000 + off)
      else .undeclared

/-- R354 rows, for one byte of the context's grant (`Tile.grantOf`, log entry 57). -/
def State.place (s : State) (t asid off : Nat) : Place :=
  let w := s.tile t
  if (s.die (t / 256)).resetting then .reset
  else
    match w.team.filter (fun m => m.asid == asid), w.swapped.find? (fun x => x.team.asid == asid) with
    | some m, _ => if off < m.grant then .bank else .noGrant
    | none, none => .noGrant
    | none, some x => x.place off

/-- A byte of a scratchpad, by its place; an undeclared byte reads 0. -/
def State.readPlace (s : State) (t off : Nat) (p : Place) : Byte :=
  match p with
  | .bank => Memory.read s.mem (Loc.spad t off).key
  | .image pa => Memory.read s.mem pa
  | .undeclared => 0
  | .reset => 0
  | .noGrant => 0

/-- A byte of the place is in a poisoned line. -/
def State.placePoisoned (s : State) (t off : Nat) (p : Place) : Bool :=
  match p with
  | .bank => s.poisoned (Loc.spad t off).key 1
  | .image pa => s.poisoned pa 1
  | .undeclared => false
  | .reset => false
  | .noGrant => false

/-- Some byte of a scratchpad run is in a poisoned line, where the run's bytes are now (R354, R362). -/
def State.spadPoisoned (s : State) (t asid off n : Nat) : Bool :=
  (List.range n).any (fun i => s.placePoisoned t (off + i) (s.place t asid (off + i)))

/-- The bytes of a scratchpad run, with redirection. -/
def State.readSpad (s : State) (t asid off n : Nat) : List Byte :=
  (List.range n).map (fun i => s.readPlace t (off + i) (s.place t asid (off + i)))

/-- Bytes of runs at their homes on behalf of a context. -/
def State.readSegs (s : State) (asid : Nat) (segs : List (Loc × Nat)) : List Byte :=
  segs.flatMap (fun e => match e.1 with
    | .spad t off => s.readSpad t asid off e.2
    | .dev pa => Memory.readN s.mem pa e.2
    | .host bus => Memory.readN s.mem (2 ^ 64 + bus) e.2)

/-- Whether runs touch a poisoned line. -/
def State.segsPoisoned (s : State) (segs : List (Loc × Nat)) : Bool :=
  segs.any (fun e => s.poisoned e.1.key e.2)

/-- The next byte continues a run of its place. -/
def Place.joins (a b : Place) : Bool :=
  match a, b with
  | .image x, .image y => y == x + 1
  | .image _, _ => false
  | a, b => a == b

/-- Bytes from an offset on, in runs of one place. -/
def placeRuns (off : Nat) (l : List (Place × Byte)) : List (Place × Nat × List Byte) :=
  match l with
  | [] => []
  | (p, b) :: r =>
    match placeRuns (off + 1) r with
    | [] => [(p, off, [b])]
    | (q, o, bs) :: more => if p.joins q then (p, off, b :: bs) :: more else (p, off, [b]) :: (q, o, bs) :: more

/-- One run of a store to scratchpad: in the bank, in the save image, or not at all. -/
def State.storeRun (s : State) (w : Writer) (t asid : Nat) (r : Place × Nat × List Byte) : State :=
  let a := (tileSpace t r.2.1).toNat
  let n := r.2.2.length
  match r.1 with
  | .bank => s.writeSegs w asid a [(.spad t r.2.1, n)] r.2.2
  | .image pa => (s.writeSegs w asid a [(.dev pa, n)] r.2.2).wakeWaiters (Loc.spad t r.2.1).key n
  | .undeclared => s
  | .reset => s
  | .noGrant => s

/-- Bytes stored to scratchpad whose places are `ps`: refused when a byte has no grant, else each byte written, redirected
or dropped (R25, R354). -/
def State.storePlaced (s : State) (w : Writer) (tile asid : Nat) (ed : Option Nat) (addr : W64) (t off : Nat)
    (ps : List Place) (bs : List Byte) : State :=
  if ps.contains .noGrant then s.lostStore tile asid ed addr .refused
  else if ps.contains .reset then s.lostStore tile asid ed addr .reset
  else
    let s := (placeRuns off (ps.zip bs)).foldl (fun (s : State) r => s.storeRun w t asid r) s
    if ps.contains .undeclared then s.lostStore tile asid ed addr .undeclared else s

/-- A store or RADD value at a place (R25, R354). -/
def State.storeAt (s : State) (w : Writer) (tile asid : Nat) (ed : Option Nat) (addr : W64) (l : Loc)
    (bs : List Byte) : State :=
  match l with
  | .spad t off =>
    s.storePlaced w tile asid ed addr t off ((List.range bs.length).map (fun i => s.place t asid (off + i))) bs
  | .dev _ => s.writeSegs w asid addr.toNat [(l, bs.length)] bs
  | .host _ => s.writeSegs w asid addr.toNat [(l, bs.length)] bs

/-! ## Remote-access counters (R352) -/

/-- Count an access to device memory from another die, in a cache of 4096 counters that gives a free one of them up; at
the threshold a notice is queued, ignored or lost. -/
def State.countRemote (s : State) (pa fromDie : Nat) : State :=
  let d := pa / 2 ^ 39
  let x := s.die d
  if d = fromDie ∨ x.migThreshold = 0 then s
  else
    let region := pa / 2 ^ 16
    let key := region * 2048 + fromDie
    let n := x.migCount.get 0 key + 1
    if n < x.migThreshold then
      if x.migCount.length < 4096 ∨ (x.migCount.find key).isSome then
        s.setDie d { x with migCount := x.migCount.put 0 key n }
      else
        let out := ((x.migCount.map (·.1)).getD (Config.victim s.free % x.migCount.length) 0)
        { s.setDie d { x with migCount := (x.migCount.del out).put 0 key n } with free := s.free + 1 }
    else
      let x := { x with migCount := x.migCount.del key }
      if x.migQueue.any (fun e => e.pa == region * 2 ^ 16) then s.setDie d x
      else if x.migQueue.length < 256 then
        s.setDie d { x with migQueue := x.migQueue ++ [⟨region * 2 ^ 16, fromDie, s.podTime⟩] }
      else
        s.setDie d { x with
          migOver := if x.migOver.contains region then x.migOver else x.migOver ++ [region]
          migMissed := satAdd x.migMissed 1 }

/-- Count the runs of an access from a die (R352). -/
def State.countRuns (s : State) (d : Nat) (segs : List (Loc × Nat)) : State :=
  segs.foldl (fun (s : State) e => match e.1 with
    | .dev pa => s.countRemote pa d
    | .spad _ _ => s
    | .host _ => s) s

/-- A page whose migration has switched and not released: accesses are held (R353). -/
def State.migrating (s : State) (segs : List (Loc × Nat)) : Bool :=
  segs.any (fun e => match e.1 with
    | .dev pa => (s.die (pa / 2 ^ 39)).migrations.any (fun m =>
        m.phase == .switch && decide (m.src ≤ pa) && decide (pa < m.src + m.size))
    | .spad _ _ => false
    | .host _ => false)

/-! ## Values of loads (R77, R78, R86) -/

/-- A word that a load sees, with the fill that brought it: words of one fill were at their homes at one instant. -/
structure Seen where
  val : W32
  fill : Nat
  stamp : W64
  deriving DecidableEq, Repr

/-- The word at its home now. -/
def State.seenNow (s : State) (k : Nat) : Seen := ⟨s.homeWord k, s.free + 1, s.podTime⟩

/-- The RDC of the tile's die may serve a word to a strand of an acquire time (R78). -/
def State.rdcServes (s : State) (t : Nat) (time : W64) (k : Nat) : Bool :=
  match (s.die (t / 256)).rdc.find k with
  | some c => (s.die (k * 4 / 2 ^ 39)).owner.find k == some t || decide (time.toNat < c.stamp.toNat)
  | none => false

/-- What the RDC of the tile's die may serve for a word (R78); otherwise the home. -/
def State.rdcWord (s : State) (t : Nat) (acq : W64) (k : Nat) : Seen :=
  if k * 4 / 2 ^ 39 = t / 256 then s.seenNow k
  else
    match (s.die (t / 256)).rdc.find k with
    | none => s.seenNow k
    | some c =>
      if s.rdcServes t acq k && c.val != s.homeWord k && Config.copyHeld (s.free + 1) then
        ⟨c.val, c.fill, c.stamp⟩
      else s.seenNow k

/-- A store or RADD of the tile to the word is on its way. -/
def pendingWord (sb : List StoreEnt) (k : Nat) : Bool :=
  sb.any (fun e => !e.registered && (segKeys e.segs).any (fun x => x / 4 == k))

/-- The word a relaxed load sees: an owned word as it is at its home, an unowned copy if the L1 still holds it (a free
value where it differs from the home's), else the RDC's or the home's (DESIGN CHOICE, log entry 5). A copy of a time before the
strand's last acquire action serves no load of it (R86 item 2). -/
def State.seenWord (s : State) (t : Nat) (acq : W64) (k : Nat) : Seen :=
  if pendingWord (s.tile t).sb k then s.seenNow k
  else
    match (s.tile t).l1.find k with
    | some c =>
      if c.owned then s.seenNow k
      else
        let other := s.rdcWord t acq k
        if c.val != other.val && decide (acq.toNat < c.stamp.toNat) && Config.copyHeld s.free then
          ⟨c.val, c.fill, c.stamp⟩
        else other
    | none => s.rdcWord t acq k

/-- The words of a load of n bytes: those of an aligned one are of one instant, or are all read at their homes (R87). -/
def State.seenWords (s : State) (t : Nat) (acq : W64) (pa n : Nat) : List (Nat × Seen) :=
  let l := (wordsOf pa n).map (fun k => (k, s.seenWord t acq k))
  if pa % n = 0 ∧ l.any (fun x => l.any (fun y => x.2.fill != y.2.fill)) then l.map (fun x => (x.1, s.seenNow x.1)) else l

/-- Copies made by a relaxed load: the L1 and, for memory homed on another die, the RDC (R75, R78). -/
def State.fillCopies (s : State) (t : Nat) (acq : W64) (pa n : Nat) : State :=
  let now := s.free + 1
  let s := (s.seenWords t acq pa n).foldl (fun (s : State) x =>
    let k := x.1
    let s := if k * 4 / 2 ^ 39 = t / 256 ∨ x.2.fill ≠ now then s
      else s.putRdc (t / 256) k ⟨x.2.val, s.podTime, now⟩
    match (s.tile t).l1.find k with
    | some c => if c.owned ∨ c.fill = x.2.fill then s else s.putL1 t k ⟨x.2.val, false, x.2.fill, x.2.stamp⟩
    | none => s.putL1 t k ⟨x.2.val, false, x.2.fill, x.2.stamp⟩) s
  { s with free := s.free + 2 }

/-- Bytes of device memory for a relaxed load of a tile strand. -/
def State.seenBytes (s : State) (t : Nat) (acq : W64) (pa n : Nat) : List Byte :=
  let l := s.seenWords t acq pa n
  (List.range n).map (fun i =>
    let k := (pa + i) / 4
    let w := ((l.find? (fun x => x.1 == k)).map (·.2.val)).getD 0
    BitVec.ofNat 8 (w.toNat / 256 ^ ((pa + i) % 4)))

/-- The newest unregistered store to a byte that a load of the strand sees: its own (R86 item 3, R154), and, in device
memory, any of its tile, which stands in the L1 that they share (R77, R79). -/
def fwdByte (sb : List StoreEnt) (uid : Nat) (shared : Bool) (key : Nat) : Option Byte :=
  fwdFrom sb (fun e => shared || e.uid == uid) key

/-- An unregistered entry that a load must wait for: a RADD of the strand, or, for an acquire load, another
strand's store of the tile, on one of its bytes (R81, R86, R87). -/
def blockingStore (sb : List StoreEnt) (uid : Nat) (acq : Bool) (keys : List Nat) : Option Nat :=
  (sb.find? (fun e => !e.registered && (segKeys e.segs).any (keys.contains ·) &&
    ((e.uid == uid && e.kind != .store) || (e.uid != uid && acq)))).map (·.n)

/-- The bytes of one run that a load of the strand returns. -/
def State.loadRun (s : State) (t : Nat) (st : Strand) (acq : Bool) (e : Loc × Nat) : List Byte :=
  let sb := (s.tile t).sb
  let fwd (shared : Bool) (bs : List Byte) : List Byte :=
    ((segKeys [e]).zip bs).map (fun x => (fwdByte sb st.uid shared x.1).getD x.2)
  match e.1 with
  | .dev pa => fwd (!acq) (if acq then Memory.readN s.mem pa e.2 else s.seenBytes t st.acq pa e.2)
  | .spad u off => fwd false (s.readSpad u st.asid off e.2)
  | .host bus => Memory.readN s.mem (2 ^ 64 + bus) e.2

/-- Whether a load of a run reads it at its home: an acquire load a word that the tile does not own, a relaxed one a word
that no copy may serve (R75, R78, R81, R86). -/
def State.readsHome (s : State) (t : Nat) (time : W64) (acq : Bool) (e : Loc × Nat) : Bool :=
  match e.1 with
  | .dev pa => (wordsOf pa e.2).any (fun k => match (s.tile t).l1.find k with
    | some c => !c.owned && (acq || !(decide (time.toNat < c.stamp.toNat) || s.rdcServes t time k))
    | none => acq || !s.rdcServes t time k)
  | _ => false

/-- What a load of one run leaves: copies, and a count at the home that it reached from another die (R352). -/
def State.afterRun (s : State) (t : Nat) (st : Strand) (acq : Bool) (e : Loc × Nat) : State :=
  match e.1 with
  | .dev pa =>
    let far := s.readsHome t st.acq acq e
    let s := if acq then s else s.fillCopies t st.acq pa e.2
    if far then s.countRemote pa (t / 256) else s
  | .spad _ _ => s
  | .host _ => s

/-- The bytes a load of the strand returns, run by run, with what it leaves. -/
def State.loadBytes (s : State) (t : Nat) (st : Strand) (acq : Bool) (segs : List (Loc × Nat)) :
    State × List Byte :=
  segs.foldl (fun (x : State × List Byte) e => (x.1.afterRun t st acq e, x.2 ++ x.1.loadRun t st acq e)) (s, [])

/-- The read-only path (R92): the current bytes, or an earlier value since the edition began, a free value
when a write since then changed one of them. -/
def State.readOnly (s : State) (since pa n : Nat) : State × List Byte :=
  let now := Memory.readN s.mem pa n
  let hits := s.hist.filter (fun h => decide (since ≤ h.clk) && decide (h.key < pa + n) &&
    decide (pa < h.key + h.old.length))
  if hits = [] then (s, now)
  else
    let age := Config.readOnlyAge s.free % (hits.length + 1)
    let back := (hits.reverse.take age).foldl (fun (bs : List Byte) h =>
      (List.range n).map (fun i => if h.key ≤ pa + i ∧ pa + i < h.key + h.old.length
        then h.old.getD (pa + i - h.key) 0 else bs.getD i 0)) now
    ({ s with free := s.free + 1 }, back)

/-- When the strand's edition began, for the read-only path; a strand without one counts from its creation
(DESIGN CHOICE, log entry 6). -/
def State.editionBegan (s : State) (st : Strand) : Nat :=
  match st.edition with
  | some i => ((s.edition st.asid i).map (·.begun)).getD st.born
  | none => st.born

end Sys2Proof.Machine
end

