-- ==== Sys2Proof/Machine/Window.lean ====
section
/-! DEFINITION. The debug window (R307, R308): what its offsets show, and what a write to them changes.
Places inside the token and queue areas, which R307 does not lay out, are DESIGN CHOICE, log entry 13. -/
namespace Sys2Proof.Machine

/-- A frame context's grant, or frame-class memory: bytes that leave only through the marker (R316). -/
def State.frameTile (s : State) (t : Nat) : Bool :=
  let w := s.tile t
  let isFrame (a : Nat) : Bool := (s.ctx (t / 256) a).valid && (s.ctx (t / 256) a).frame
  (w.team.map (fun m => isFrame m.asid)).getD false || w.swapped.any (fun x => isFrame x.team.asid)

/-- A frame-class frame of device memory (R316, R346). -/
def State.frameFrame (s : State) (pa : Nat) : Bool :=
  match (s.die (pa / 2 ^ 39)).frames.find (pa / 4096) with
  | some f => f.tag == 1
  | none => false

/-- Frame-class bytes of runs (R316). -/
def State.frameClass (s : State) (segs : List (Loc × Nat)) : Bool :=
  segs.any (fun e => match e.1 with
    | .spad t _ => s.frameTile t
    | .dev pa => s.frameFrame pa || s.frameFrame (pa + e.2 - 1)
    | .host _ => false)

/-- R308 state code of a slot. -/
def runCode (st : Option Strand) : Nat :=
  match st with
  | none => 0
  | some x => match x.run with
    | .running => 1
    | .frozen => 2
    | .halted => 3
    | .parked => 4

/-- Control word (R308). -/
def Tile.control (w : Tile) (k : Nat) : W64 :=
  BitVec.ofNat 64 (runCode (w.strands.find k) * 2 ^ 61 + (w.gens.get 0 k).toNat * 2 ^ 16
    + (if w.errs.contains k then 1 else 0) * 2 ^ 8)

/-- Token states: failed in [15:8], pending in [7:0] (DESIGN CHOICE, log entry 13). -/
def tokWord (v : Vector Tok 8) : W64 := BitVec.ofNat 64 (tokBits v (·.failed) * 2 ^ 8 + tokBits v (·.pending))

/-- Entry counts of q0 to q3, 4 bits each (R334). -/
def queueCounts (q : Vector (List W64) 4) : W64 :=
  BitVec.ofNat 64 (q.toList.foldr (fun l a => 16 * a + l.length % 16) 0)

/-- Writable-by-clearing bits of sys.aflags (R46). -/
abbrev aflagsMask : W64 := 0xFF0F

/-- SWR of sys.aflags: each 1 clears its bit (R8, R46), but for a bit set in the same clk (R47). -/
def Team.clearFlags (m : Team) (v : W64) : Team :=
  { m with aflags := (m.aflags &&& ~~~(v &&& aflagsMask)) ||| m.raised }

/-- The doubleword at an offset of 0x80_0000 and above (R307). -/
def State.windowReg (s : State) (t off : Nat) : W64 :=
  let w := s.tile t
  if w.gated then 0
  else if 0x800000 ≤ off ∧ off < 0x801000 then
    let k := (off - 0x800000) / 0x100
    let o := off % 0x100
    match w.strands.find k with
    | none => if o / 8 = 18 then w.control k else 0
    | some st =>
      if h : o / 8 < 16 then st.g[o / 8]'h
      else if o / 8 = 16 then st.pc
      else if o / 8 = 17 then s.status (.tile t k) st
      else if o / 8 = 18 then w.control k
      else if o / 8 = 19 then tokWord st.toks
      else 0
  else
    match w.team with
    | none =>
      if 0xA00000 ≤ off ∧ off < 0xA10000 then
        (w.trace.buf.get 0 ((off - 0xA00000) / 16)).extractLsb' (64 * (off / 8 % 2)) 64
      else if off / 8 * 8 = 0xA10000 then w.trace.ctl
      else if off / 8 * 8 = 0xA10008 then w.trace.a
      else if off / 8 * 8 = 0xA10010 then w.trace.b
      else 0
    | some m =>
      if 0x900000 ≤ off ∧ off < 0x901000 then
        ((m.v.toList.getD ((off - 0x900000) / 128) 0).extractLsb' (64 * (off / 8 % 16)) 64)
      else if 0x910000 ≤ off ∧ off < 0x910080 then
        ((m.p.toList.getD ((off - 0x910000) / 16) 0).extractLsb' (64 * (off / 8 % 2)) 64)
      else if 0x920000 ≤ off ∧ off < 0x924000 then
        (m.ac.get 0 ((off - 0x920000) / 8 * 2 + 1)) ++ (m.ac.get 0 ((off - 0x920000) / 8 * 2))
      else if off / 8 * 8 = 0x930000 then tokWord m.toks
      else if off / 8 * 8 = 0x930008 then queueCounts m.q
      else if off / 8 * 8 = 0x930010 then BitVec.ofNat 64 (m.barts * 2 ^ 32 + m.vxch % 2 ^ 32)
      else if off / 8 * 8 = 0x930100 then m.aflags
      else if 0x930200 ≤ off ∧ off < 0x930300 then
        ((m.q.toList.getD ((off - 0x930200) / 64) []).getD (off / 8 % 8) 0)
      else if 0xA00000 ≤ off ∧ off < 0xA10000 then
        (w.trace.buf.get 0 ((off - 0xA00000) / 16)).extractLsb' (64 * (off / 8 % 2)) 64
      else if off / 8 * 8 = 0xA10000 then w.trace.ctl
      else if off / 8 * 8 = 0xA10008 then w.trace.a
      else if off / 8 * 8 = 0xA10010 then w.trace.b
      else 0

/-- One byte of a tile's window (R307); frame-class bytes read 0 (R316). -/
def State.windowByte (s : State) (t off : Nat) : Byte :=
  if off < spadSize then
    if s.frameTile t then 0 else Memory.read s.mem (Loc.spad t off).key
  else (s.windowReg t off).extractLsb' (8 * (off % 8)) 8

/-- n bytes of a die's windows, from an offset of a tile's on: past its 16 MiB stands the next tile's window (R299). -/
def State.windowBytes (s : State) (t off n : Nat) : List Byte :=
  (List.range n).map (fun i => s.windowByte (t + (off + i) / 2 ^ 24) ((off + i) % 2 ^ 24))

/-- Some of those bytes are of a poisoned line of a scratchpad (R362). -/
def State.windowPoisoned (s : State) (t off n : Nat) : Bool :=
  (List.range n).any (fun i =>
    let o := (off + i) % 2 ^ 24
    decide (o < spadSize) && s.poisoned (Loc.spad (t + (off + i) / 2 ^ 24) o).key 1)

/-- Set err of a slot's control word (R308). -/
def State.setErr (s : State) (t k : Nat) : State :=
  s.modTile t (fun w => { w with errs := if w.errs.contains k then w.errs else w.errs ++ [k] })

/-- A slot's registers may be written (R309). -/
def Run.stopped (r : Run) : Bool := r != .running

/-- Every non-exited strand of the team is frozen, halted or parked (R309). -/
def Tile.teamStopped (w : Tile) : Bool := w.anchored.all (fun e => e.2.run.stopped)

/-- Write a doubleword of a slot's registers (R307, R309); an offset that shows none is ignored. -/
def State.windowSlot (s : State) (t k o : Nat) (v : W64) : State :=
  if 0xA0 ≤ o then s
  else match (s.tile t).strands.find k with
  | none => s.setErr t k
  | some st =>
    if st.run.stopped = false then s.setErr t k
    else if h : o / 8 < 16 then s.setStrand (.tile t k) { st with g := st.g.set (o / 8) v h }
    else if o / 8 = 16 then s.setStrand (.tile t k) { st with pc := v }
    else if o / 8 = 19 then
      let f (i : Nat) (x : Tok) : Tok := { x with pending := v.getLsbD i, failed := v.getLsbD (8 + i) }
      s.setStrand (.tile t k) { st with toks := Vector.ofFn (fun i => f i.val st.toks[i]) }
    else s

/-- Replace bits of a wide register by a doubleword. -/
def putDword {w : Nat} (x : BitVec w) (i : Nat) (v : W64) : BitVec w :=
  (x &&& ~~~((BitVec.ofNat w (2 ^ 64 - 1)) <<< (64 * i))) ||| ((v.setWidth w) <<< (64 * i))

/-- Offsets of 0x90_0000 to 0x9F_FFFF that show team state (R307). -/
def teamListed (off : Nat) : Bool :=
  decide (off < 0x901000) || (decide (0x910000 ≤ off) && decide (off < 0x910080)) ||
    (decide (0x920000 ≤ off) && decide (off < 0x924000)) || (decide (0x930000 ≤ off) && decide (off < 0x930018)) ||
    off / 8 * 8 == 0x930100 || (decide (0x930200 ≤ off) && decide (off < 0x930300))

/-- Queues with the counts of a written doubleword: cut, or longer by entries of 0 (DESIGN CHOICE, log entry 13). -/
def setCounts (q : Vector (List W64) 4) (v : W64) : Vector (List W64) 4 :=
  Vector.ofFn (fun i => (q[i] ++ List.replicate 8 0).take (Nat.min 8 (field v.toNat (4 * i.val + 3) (4 * i.val))))

/-- Write a doubleword of team state (R307, R309): `v` with the bytes not written as they were, `ones` with them 0, for
what is cleared by writing 1 (R8). -/
def Team.windowWrite (m : Team) (off : Nat) (v ones : W64) : Team :=
  if 0x900000 ≤ off ∧ off < 0x901000 then
    let i := (off - 0x900000) / 128
    { m with v := m.v.setIfInBounds i (putDword (m.v.toList.getD i 0) (off / 8 % 16) v) }
  else if 0x910010 ≤ off ∧ off < 0x910080 then
    let i := (off - 0x910000) / 16
    { m with p := m.p.setIfInBounds i (putDword (m.p.toList.getD i 0) (off / 8 % 2) v) }
  else if 0x920000 ≤ off ∧ off < 0x924000 then
    let e := (off - 0x920000) / 8 * 2
    { m with ac := (m.ac.put 0 e (v.extractLsb' 0 32)).put 0 (e + 1) (v.extractLsb' 32 32) }
  else if off / 8 * 8 = 0x930000 then
    { m with toks := Vector.ofFn (fun i => { m.toks[i] with
      pending := v.getLsbD i.val
      failed := v.getLsbD (8 + i.val) }) }
  else if off / 8 * 8 = 0x930008 then { m with q := setCounts m.q v }
  else if off / 8 * 8 = 0x930010 then
    { m with barts := field v.toNat 63 32, vxch := field v.toNat 31 0 }
  else if off / 8 * 8 = 0x930100 then m.clearFlags ones
  else if 0x930200 ≤ off ∧ off < 0x930300 then
    let i := (off - 0x930200) / 64
    { m with q := m.q.setIfInBounds i ((m.q.toList.getD i []).set (off / 8 % 8) v) }
  else m

/-- A store of n bytes as the parts that lie in one doubleword each: offset, count, value. -/
def windowParts (off n : Nat) (v : W64) : List (Nat × Nat × W64) :=
  let room := 8 - off % 8
  if n ≤ room then [(off, n, v)] else [(off, room, v), (off + room, n - room, v >>> (8 * room))]

/-- The doubleword that a store of n bytes at an offset of it spells, beside the bytes of another. -/
def besides (old : W64) (o n : Nat) (v : W64) : W64 :=
  let keep := leBytes 8 old.toNat
  BitVec.ofNat 64 (leNat ((keep.take o ++ leBytes n v.toNat ++ keep.drop (o + n)).take 8))

/-- A write of n bytes within a doubleword of a window, other than an action and trace control, which have steps of their
own (R309, R312): performed, or refused with err. One into scratchpad by the host comes from PCIe (R363): it needs ext (R196), and
is a wake event (R174). -/
def State.windowWrite (s : State) (t off n : Nat) (v : W64) (host : Bool) : State :=
  if off < spadSize then
    if s.frameTile t then s
    else
      let asid := ((s.tile t).team.map (·.asid)).getD 0
      let s := s.writeSegs (if host then .external else .firmware) asid (tileSpace t off).toNat [(.spad t off, n)] (leBytes n v.toNat)
      if host then s.atEnd .wakeEvent { tile := t, k := 1 } else s
  else if (s.tile t).gated then s
  else
    let o := off / 8 * 8
    let ones := besides 0 (off % 8) n v
    let v := besides (s.windowReg t o) (off % 8) n v
    if 0x800000 ≤ off ∧ off < 0x801000 then
      let k := (o - 0x800000) / 0x100
      if o % 0x100 = 0x90 then
        let s := if ones.getLsbD 8 then s.modTile t (fun w => { w with errs := w.errs.filter (· != k) }) else s
        if ones.getLsbD 3 then s.setErr t k else s
      else s.windowSlot t k (o % 0x100) v
    else if 0x900000 ≤ off ∧ off < 0xA00000 then
      if teamListed o = false then s
      else if (s.tile t).team.isSome ∧ (s.tile t).teamStopped then s.modTeam t (fun m => m.windowWrite o v ones)
      else s.setErr t 0
    else if o = 0xA10008 then s.modTile t (fun w => { w with trace := { w.trace with a := v } })
    else if o = 0xA10010 then s.modTile t (fun w => { w with trace := { w.trace with b := v } })
    else s

/-- The step that a store of n bytes within a doubleword of a window causes, by the host debugger or the supervisor (R309);
trace control takes effect in the next clk (R312). -/
def State.windowPart (s : State) (t off n : Nat) (v : W64) (host : Bool) : State :=
  let x : EvArg := { tile := t, k := off, n := n, value := v, lane := if host then 1 else 0 }
  if off / 8 * 8 = 0xA10000 then s.later 1 .traceControlWrite x
  else if 0x800000 ≤ off ∧ off < 0x801000 ∧ off / 8 * 8 % 0x100 = 0x90 then
    let slot := (off - 0x800000) / 0x100
    let ones := besides 0 (off % 8) n v
    let all := besides ((s.tile t).control slot) (off % 8) n v
    let y : EvArg := { tile := t, slot := slot, gen := all.extractLsb' 16 8, value := ones, flag := host }
    let s := if ones.getLsbD 8 ∧ ones.getLsbD 3 = false then
        s.post .debugWindowWrite { x with k := off / 8 * 8, n := 8, value := 0x100 }
      else s
    match field ones.toNat 3 0 with
    | 0 => s
    | 1 => s.post .dbgResume y
    | 2 => s.post .dbgKillBlock y
    | 3 => s.post .dbgKillEdition y
    | 4 => s.post .dbgPark y
    | 5 => s.post .dbgHalt y
    | 6 => s.post .dbgEscalate y
    | 7 => s.post .dbgStep y
    | _ => s.post .debugWindowWrite x
  else s.post .debugWindowWrite x

/-- A store of n bytes to a window: one step for its scratchpad bytes, or one for each doubleword it touches. -/
def State.windowStoreBy (s : State) (t off n : Nat) (v : W64) (host : Bool) : State :=
  if off + n ≤ spadSize then s.windowPart t off n v host
  else (windowParts off n v).foldl (fun (s : State) x =>
    s.windowPart (t + x.1 / 2 ^ 24) (x.1 % 2 ^ 24) x.2.1 x.2.2 host) s

/-- The same, by the supervisor. -/
def State.windowStore (s : State) (t off n : Nat) (v : W64) : State := s.windowStoreBy t off n v false

end Sys2Proof.Machine
end

