-- ==== Sys2Proof/Machine/Operands.lean ====
section
/-! DEFINITION. Memory operands of scalar instructions: the checks at issue (R152, R153, R24, R25, R299),
translation and what a miss does (R156), loads (R154), stores (R155), the read-only path (R158), atomics
(R159 to R164), for tile strands and supervisor strands. -/
namespace Sys2Proof.Machine

/-- Range, grant and alignment checks at issue, faults in the order of R127. -/
def State.checked (s : State) (st : Strand) (ea : W64) (n align : Nat) : Got Target :=
  let r := match s.cur with
    | .tile t _ => s.checkAccess t st.asid ea n
    | .sup d _ => s.checkSup d ea n
  match r with
  | .error c => .stop (s.raise st c ea)
  | .ok a => if ea.toNat % align = 0 then .go s a else .stop (s.raise st fcMisalign ea)

/-- The release action of an order field with bit [1] set (R82). -/
def State.releaseIf (s : State) (st : Strand) (o : Order) : Got Unit :=
  if o.isRel then s.release st else .go s ()

/-- Trace payload of an address (R311): tile-space form for scratchpad. -/
def tracePayload (ea : W64) (a : Target) (tile : Nat) : Nat :=
  match a with
  | .virt => ea.toNat % 2 ^ 56
  | .own off => 2 ^ 56 + tile * 2 ^ 21 + off
  | .away t off => 2 ^ 56 + t * 2 ^ 21 + off
  | .phys pa => pa
  | .window _ off => off

/-- The tile of the issuing strand; a supervisor has none. -/
def Ref.tileNo : Ref → Nat
  | .tile t _ => t
  | .sup _ _ => 0

/-- Runs of a device virtual range with the leaves that permit it. -/
def State.translate (s : State) (st : Strand) (va n : Nat) : Except Nat (State × List (Loc × Nat) × List TlbEnt) :=
  match s.cur with
  | .tile t _ => s.xlateRange t st.asid va n
  | .sup d _ => xlateRun (fun s => s.xlateDie d (s.die d).svasid.toNat) s va n

/-- A miss of the issuing strand's data access: it holds (R156). -/
def State.dataMiss (s : State) (st : Strand) (va : Nat) : State :=
  (s.holdCur st (.xlate (BitVec.ofNat 64 va))).post .pageWalk
    { die := s.cur.die, asid := s.asidOf s.cur st, value := BitVec.ofNat 64 va }

/-- A word that a side-log entry of the strand writes: the load holds until replay (R97). -/
def sideCovers (side : List SideEnt) (uid : Nat) (ea : W64) (n : Nat) : Bool :=
  side.any (fun e => e.uid == uid && decide (e.addr.toNat / 4 * 4 < ea.toNat + n) &&
    decide (ea.toNat / 4 * 4 < e.addr.toNat + e.data.length))

/-- The places of a logged entry's bytes, as the tables stand now; those of a page that is not mapped are left out. -/
def State.sidePlaces (s : State) (t : Nat) (e : SideEnt) : List (Loc × Nat) :=
  match Space.of e.addr with
  | .tile u off => [(.spad u off, e.data.length)]
  | .localOff off => [(.spad t off, e.data.length)]
  | .virt =>
    let va := e.addr.toNat
    let room := 4096 - va % 4096
    let piece (x : Nat × Nat) : Option (Loc × Nat) := (s.walk (t / 256) e.asid x.1).map (fun f => (leafLoc f.pte x.1, x.2))
    (if e.data.length ≤ room then [(va, e.data.length)] else [(va, room), (va + room, e.data.length - room)]).filterMap piece
  | .none => []

/-- A word of some runs that a side-log entry of the strand writes, by whatever address (R97, R154). -/
def State.sideWrites (s : State) (t uid : Nat) (segs : List (Loc × Nat)) : Bool :=
  (s.tile t).side.any (fun e => e.uid == uid && (segKeys (s.sidePlaces t e)).any (fun x =>
    (segKeys segs).any (fun y => x / 4 == y / 4)))

/-- A store of the strand to some byte of the runs is not registered. -/
def State.storeOpen (s : State) (t uid : Nat) (segs : List (Loc × Nat)) : Bool :=
  (s.tile t).sb.any (fun e => e.uid == uid && !e.registered && (segKeys e.segs).any ((segKeys segs).contains ·))

/-- The places of a run, line by line: a host access to two lines is two requests (R157). -/
def linePieces (segs : List (Loc × Nat)) : List (Loc × Nat) :=
  segs.flatMap (fun e =>
    let room := 64 - e.1.key % 64
    if e.2 ≤ room then [e] else [(e.1, room), (e.1.plus room, e.2 - room)])

def Loc.isHost : Loc → Bool
  | .host _ => true
  | .dev _ => false
  | .spad _ _ => false

/-- The data that an earlier hold of this instruction brought back (WAITV, LAUNCH, WATCH). -/
def State.takeData (s : State) (uid : Nat) : Option (State × List Byte) :=
  match s.data.find? (fun e => e.1 == uid) with
  | some e => some ({ s with data := s.data.filter (fun e => e.1 != uid) }, e.2)
  | none => none

/-- The trace kind of an access that goes away (R311). -/
def Access.traceKind : Access → Option Nat
  | .load _ _ _ => some 3
  | .atomic _ _ _ _ _ _ => some 5
  | .again _ => none

/-- Send an access to another tile or the host, recorded in the trace as it issues (R311); the strand holds until its
answer (R25, R156). The host completes each of its requests (R157) in the next clk, unless a HOST_COMPLETION with another
status comes first (DESIGN CHOICE, log entry 20). -/
def State.sendAccess (s : State) (st : Strand) (ea : W64) (segs : List (Loc × Nat)) (acc : Access) (o : Order)
    (toHost : Bool) : State :=
  let payload := match segs with
    | (.spad t off, _) :: _ => 2 ^ 56 + t * 2 ^ 21 + off
    | _ => ea.toNat % 2 ^ 56
  let s := match acc.traceKind with
    | some k => s.trace s.cur k payload
    | none => s
  let n := s.fresh
  let p : Packet := ⟨n, s.cur, st.uid, s.asidOf s.cur st, ea, segs, acc, o, none, none, []⟩
  let s := { s with fresh := s.fresh + 1, net := s.net ++ [p] }
  if toHost then
    (List.range (linePieces segs).length).foldl (fun (s : State) i => s.later 1 .hostCompletion { n := n, k := i })
      (s.holdCur st (.host n))
  else
    let away := match segs with
      | (.spad u _, _) :: _ => meshDelay s.cur.tileNo u
      | _ => 0
    (s.holdCur st (.remote n)).afterClk away .remoteAccessArrival { n := n }

/-- How a read meets a page that translates to host memory. -/
inductive HostRule where
  | allowed
  | addressFault
  deriving DecidableEq, Repr

/-- The bytes that a read of the issuing strand returns, past the checks at issue; `acc` says how a remote
answer is used. -/
def State.readData (s : State) (st : Strand) (ea : W64) (n : Nat) (o : Order) (a : Target) (acc : Access)
    (host : HostRule) : Got (List Byte) :=
  match s.cur, a with
  | .tile t _, .own off =>
    if sideCovers (s.tile t).side st.uid (tileSpace t off) n then .stop (s.holdCur st .sideWord)
    else if (blockingStore (s.tile t).sb st.uid o.isAcq (segKeys [(.spad t off, n)])).isSome then
      .stop (s.holdCur st .sideWord)
    else if s.spadPoisoned t st.asid off n then .stop (s.raise st fcPoison ea)
    else
      let r := s.loadBytes t st o.isAcq [(.spad t off, n)]
      .go r.1 r.2
  | .tile t _, .away u off =>
    if sideCovers (s.tile t).side st.uid ea n then .stop (s.holdCur st .sideWord)
    else if (blockingStore (s.tile t).sb st.uid false (segKeys [(.spad u off, n)])).isSome then
      .stop (s.holdCur st .sideWord)
    else .stop (s.sendAccess st ea [(.spad u off, n)] acc o false)
  | .tile t _, .virt =>
    if sideCovers (s.tile t).side st.uid ea n then .stop (s.holdCur st .sideWord)
    else
      match s.translate st ea.toNat n with
      | .error va => .stop (s.dataMiss st va)
      | .ok (s, segs, ents) =>
        if ents.any (fun e => !pteR e.leaf) then .stop (s.raise st fcPage ea)
        else if s.sideWrites t st.uid segs then .stop (s.holdCur st .sideWord)
        else if segs.any (fun e => e.1.isHost) then
          match host with
          | .addressFault => .stop (s.raise st fcAddress ea)
          | .allowed =>
            if s.storeOpen t st.uid segs then .stop (s.holdCur st .sideWord)
            else .stop (s.sendAccess st ea segs acc o true)
        else if s.migrating segs then .stop (s.holdCur st (.xlate ea))
        else if (blockingStore (s.tile t).sb st.uid o.isAcq (segKeys segs)).isSome then
          .stop (s.holdCur st .sideWord)
        else if s.segsPoisoned segs then .stop (s.raise st fcPoison ea)
        else
          let r := s.loadBytes t st o.isAcq segs
          .go r.1 r.2
  | .sup _ _, .virt =>
    match s.translate st ea.toNat n with
    | .error va => .stop (s.dataMiss st va)
    | .ok (s, segs, ents) =>
      if ents.any (fun e => !pteR e.leaf) then .stop (s.raise st fcPage ea)
      else if segs.any (fun e => e.1.isHost) then
        match host with
        | .addressFault => .stop (s.raise st fcAddress ea)
        | .allowed => .stop (s.sendAccess st ea segs acc o true)
      else if s.migrating segs then .stop (s.holdCur st (.xlate ea))
      else if s.segsPoisoned segs then .stop (s.raise st fcPoison ea)
      else .go (s.countRuns s.cur.die segs) (s.readSegs st.asid segs)
  | _, .phys pa =>
    if s.poisoned pa n then .stop (s.raise st fcPoison ea)
    else .go (s.countRemote pa s.cur.die) (Memory.readN s.mem pa n)
  | _, .window t off =>
    if s.windowPoisoned t off n then .stop (s.raise st fcPoison ea) else .go s (s.windowBytes t off n)
  | .sup _ _, .own _ => .stop (s.raise st fcAddress ea)
  | .sup _ _, .away _ _ => .stop (s.raise st fcAddress ea)

/-- The value of n bytes in a register (R151). -/
def loadValue (bs : List Byte) (signed : Bool) : W64 :=
  let v := leNat bs
  if signed then (BitVec.ofNat (8 * bs.length) v).signExtend 64 else BitVec.ofNat 64 v

/-- A load (R154): checks, release, read, gd, acquire. -/
def State.doLoad (s : State) (st : Strand) (d : GReg) (ea : W64) (n : Nat) (signed : Bool) (o : Order) : State :=
  (s.checked st ea n (if o = .relaxed then 1 else n)).andThen (fun s a =>
    (s.releaseIf st o).andThen (fun s _ =>
      (s.readData st ea n o a (.load d n signed) .allowed).andThen (fun s bs => .go s (a, bs))))
  |>.finish (fun s x =>
    (s.trace s.cur 3 (tracePayload ea x.1 s.cur.tileNo)).retireOrd s.cur (st.wr d (loadValue x.2 signed)) o)

/-- LDC (R158): the read-only path; scratchpad reads the bank, the strand's stores on their way left out; host memory is an
address fault, after the page's own faults (DESIGN CHOICE, log entry 62). -/
def State.doLdc (s : State) (st : Strand) (d : GReg) (ea : W64) : State :=
  (s.checked st ea 8 8).andThen (fun s a =>
    match s.cur, a with
    | .tile _ _, .virt =>
      match s.translate st ea.toNat 8 with
      | .error va => .stop (s.dataMiss st va)
      | .ok (s, segs, ents) =>
        if ents.any (fun e => !pteR e.leaf) then .stop (s.raise st fcPage ea)
        else
          match segs with
          | [(.dev pa, _)] =>
            if s.migrating segs then .stop (s.holdCur st (.xlate ea))
            else if s.poisoned pa 8 then .stop (s.raise st fcPoison ea)
            else
              let r := (s.countRemote pa s.cur.die).readOnly (s.editionBegan st) pa 8
              .go r.1 (a, r.2)
          | _ => .stop (s.raise st fcAddress ea)
    | .tile t _, .own off =>
      if s.spadPoisoned t st.asid off 8 then .stop (s.raise st fcPoison ea)
      else .go s (a, s.readSpad t st.asid off 8)
    | .tile _ _, .away u off => .stop (s.sendAccess st ea [(.spad u off, 8)] (.load d 8 false) .relaxed false)
    | _, _ => (s.readData st ea 8 .relaxed a (.load d 8 false) .addressFault).andThen (fun s bs => .go s (a, bs)))
  |>.finish (fun s x =>
    (s.trace s.cur 3 (tracePayload ea x.1 s.cur.tileNo)).retire (st.wr d (loadValue x.2 false)))

/-! ## Local operands (R190, R211, R245) -/

/-- The offset of n bytes that must lie in the tile's own scratchpad, within the grant and aligned: alias or
a tile-space address that names the tile. -/
def State.ownSpad (s : State) (t asid : Nat) (ea : W64) (n align : Nat) : Except Byte Nat :=
  let here := match Space.of ea with
    | .localOff _ => true
    | .tile u _ => u == t
    | .virt => false
    | .none => false
  if here = false then .error fcAddress
  else
    match s.checkAccess t asid ea n with
    | .error c => .error c
    | .ok (.own off) => if ea.toNat % align = 0 then .ok off else .error fcMisalign
    | .ok _ => .error fcAddress

/-- A relaxed read of checked bytes of the tile's own scratchpad. -/
def State.readOwn (s : State) (st : Strand) (ea : W64) (off n : Nat) : Got (List Byte) :=
  s.readData st ea n .relaxed (.own off) (.again n) .addressFault

/-! ## Stores -/

/-- The store's bytes in the tile's L1, valid and owned, beside those of the word as the tile owns it or as its home has
it (R79, R86). -/
def State.storeL1 (s : State) (t : Nat) (segs : List (Loc × Nat)) (bs : List Byte) : State :=
  match segs with
  | [] => s
  | (.dev pa, n) :: rest =>
    let s := (wordsOf pa n).foldl (fun s k =>
      let base := match (s.tile t).l1.find k with
        | some c => if c.owned then c.val else s.homeWord k
        | none => s.homeWord k
      let v := (List.range 4).map (fun i =>
        if pa ≤ 4 * k + i ∧ 4 * k + i < pa + n then bs.getD (4 * k + i - pa) 0
        else base.extractLsb' (8 * i) 8)
      s.putL1 t k ⟨BitVec.ofNat 32 (leNat v), true, 0, s.podTime⟩) s
    State.storeL1 s t rest (bs.drop n)
  | (_, n) :: rest => State.storeL1 s t rest (bs.drop n)

/-- The bytes that a RADD leaves at its word. -/
def supBytes (kind : StoreKind) (old bs : List Byte) : List Byte :=
  match kind with
  | .store => bs
  | .radd _ => leBytes bs.length (leNat old + leNat bs)

/-- The bytes that a store or RADD writes into the L1 (R79). -/
def State.l1Bytes (s : State) (kind : StoreKind) (segs : List (Loc × Nat)) (bs : List Byte) : List Byte :=
  supBytes kind ((segKeys segs).map (Memory.read s.mem)) bs

/-- Log a write through leaves whose d is 0 (R347); none when the log is full (R348). -/
def State.logDirty (s : State) (t : Nat) (ents : List TlbEnt) : Option State :=
  match ents with
  | [] => some s
  | e :: rest =>
    let cur := tlbFind (s.tile t).tlb e.asid e.va
    if pteD e.leaf ∨ (cur.map (·.logged)).getD false then State.logDirty s t rest
    else if 512 ≤ (s.tile t).dirty.length then none
    else
      let mark (x : TlbEnt) : TlbEnt := if x.asid = e.asid ∧ x.va = e.va then { x with logged := true } else x
      let s := s.modTile t (fun w => { w with dirty := w.dirty ++ [⟨e.asid, e.va, e.size⟩], tlb := w.tlb.map mark })
      let s := if (s.tile t).dirty.length = 256 then s.post .dirtyLogMerge { tile := t } else s
      State.logDirty s t rest

/-- An entry added to a tile's side log (R97, R156, R350). -/
def State.sidePush (s : State) (t : Nat) (st : Strand) (ea : W64) (bs : List Byte) (kind : StoreKind)
    (o : Order) (faulted : Bool) : State × Nat :=
  let n := s.fresh
  let e : SideEnt := ⟨n, st.uid, s.cur.slot, (s.tile t).gens.get 0 s.cur.slot, st.asid, st.edition, ea, bs,
    kind, o, faulted, false, false⟩
  let s := { s.modTile t (fun w => { w with side := w.side ++ [e] }) with fresh := s.fresh + 1 }
  (if faulted then s.post .pageWalk { die := t / 256, asid := st.asid, value := ea } else s, n)

/-- A store or RADD into the side log: a full log holds the strand (R97). -/
def State.sideLog (s : State) (t : Nat) (st : Strand) (ea : W64) (bs : List Byte) (kind : StoreKind)
    (o : Order) (faulted : Bool) : Got Nat :=
  if 64 ≤ (s.tile t).side.length then .stop (s.holdCur st .logFull)
  else
    let r := s.sidePush t st ea bs kind o faulted
    .go r.1 r.2

/-- A store or RADD into the store buffer (R79), whose registration follows as a step: 2 clk later in the own
scratchpad (R381), 8 + h clk later at another tile of the die (R285), and, by choice, as long after for a home L2 of the
die (R393; DESIGN CHOICE, log entry 11). -/
def State.buffer (s : State) (t : Nat) (st : Strand) (ea : W64) (segs : List (Loc × Nat)) (bs : List Byte)
    (kind : StoreKind) (o : Order) (away : Bool) : State × Nat :=
  let n := s.fresh
  let e : StoreEnt := ⟨n, st.uid, st.asid, st.edition, ea, segs, bs, kind, o, false⟩
  let s := { s.modTile t (fun w => { w with sb := w.sb ++ [e] }) with fresh := s.fresh + 1 }
  let s := s.storeL1 t segs (s.l1Bytes kind segs bs)
  if away then
    let p : Packet := ⟨s.fresh, s.cur, st.uid, st.asid, ea, segs, .again 0, o, some n, none, []⟩
    let far := match segs with
      | (.spad u _, _) :: _ => meshDelay t u
      | _ => 0
    ({ s with fresh := s.fresh + 1, net := s.net ++ [p] }.afterClk far .remoteAccessArrival { n := s.fresh }, n)
  else
    let own := match segs with
      | (.spad _ _, _) :: _ => 2
      | (.dev pa, _) :: _ => meshDelay t (((Loc.dev pa).home).getD t)
      | _ => 0
    (s.afterClk own .storeRegistration { tile := t, n := n }, n)

/-- The context of record of an access, by its place: addresses are kept as watches see them (R194). -/
def canonAddr (t : Nat) (ea : W64) (a : Target) : W64 :=
  match a with
  | .own off => tileSpace t off
  | .virt => ea
  | .away _ _ => ea
  | .phys _ => ea
  | .window _ _ => ea

/-- The places and path of a tile strand's store or RADD, or its side-log entry's number. -/
def State.storeGo (s : State) (t : Nat) (st : Strand) (ea : W64) (bs : List Byte) (kind : StoreKind)
    (o : Order) (a : Target) : Got Nat :=
  let n := bs.length
  if (s.tile t).side.any (fun e => e.uid == st.uid) then
    s.sideLog t st (canonAddr t ea a) bs kind o false
  else
    match a with
    | .own off =>
      let r := s.buffer t st (tileSpace t off) [(.spad t off, n)] bs kind o false
      .go r.1 r.2
    | .away u off =>
      let r := s.buffer t st ea [(.spad u off, n)] bs kind o true
      .go r.1 r.2
    | .virt =>
      match s.translate st ea.toNat n with
      | .error _ => s.sideLog t st ea bs kind o true
      | .ok (s, segs, ents) =>
        if ents.any (fun e => !pteW e.leaf) then s.sideLog t st ea bs kind o true
        else
          match s.logDirty t ents with
          | none => .stop (s.holdCur st .logFull)
          | some s =>
            let r := s.buffer t st ea segs bs kind o false
            .go r.1 r.2
    | .phys _ => .stop (s.raise st fcAddress ea)
    | .window _ _ => .stop (s.raise st fcAddress ea)

/-- Some frame of a range of device memory is sealed: it is read-only for every access (R346). -/
def State.sealedIn (s : State) (pa n : Nat) : Bool :=
  (List.range' (pa / 4096) ((pa + n + 4095) / 4096 - pa / 4096)).any (fun k =>
    ((s.die (k * 4096 / 2 ^ 39)).frames.find k).any (fun f => f.tag == 3))

/-- A request to the memory manager, once (R349). -/
def State.askManager (s : State) (d a va : Nat) : State :=
  let q : MMReq := ⟨a, BitVec.ofNat 64 va⟩
  s.modDie d (fun x => { x with mm := if x.mm.contains q then x.mm else x.mm ++ [q] })

/-- A supervisor's store or RADD performs at once; on a page that is absent or not writable it waits for the memory manager,
and is never trapped there (DESIGN CHOICE, log entry 12); into a sealed frame by its physical address it is lost (DESIGN CHOICE,
log entry 55). -/
def State.supStore (s : State) (d : Nat) (st : Strand) (ea : W64) (bs : List Byte) (kind : StoreKind) (a : Target) :
    Got Unit :=
  match a with
  | .phys pa =>
    if s.sealedIn pa bs.length then .go s ()
    else .go ((s.countRemote pa d).writeSegs .supervisor 0 ea.toNat [(.dev pa, bs.length)]
      (supBytes kind (Memory.readN s.mem pa bs.length) bs)) ()
  | .window t off =>
    .go (s.windowStore t off bs.length
      (BitVec.ofNat 64 (leNat (supBytes kind (s.windowBytes t off bs.length) bs)))) ()
  | .virt =>
    match s.translate st ea.toNat bs.length with
    | .error va => .stop ((s.holdCur st (.storeMiss ea bs.length)).post .pageWalk
        { die := d, asid := (s.die d).svasid.toNat, value := BitVec.ofNat 64 va })
    | .ok (s, segs, ents) =>
      match ents.find? (fun e => !pteW e.leaf) with
      | some e => .stop ((s.holdCur st (.storeMiss ea bs.length)).askManager d (s.die d).svasid.toNat (Nat.max e.va ea.toNat))
      | none =>
        if s.migrating segs then .stop (s.holdCur st (.storeMiss ea bs.length))
        else .go ((s.countRuns d segs).writeSegs .supervisor (s.die d).svasid.toNat ea.toNat segs
        (supBytes kind (s.readSegs (s.die d).svasid.toNat segs) bs)) ()
  | .own _ => .stop (s.raise st fcAddress ea)
  | .away _ _ => .stop (s.raise st fcAddress ea)

/-- A store (R155): checks, release, buffer or side log, acquire after registration. -/
def State.doStore (s : State) (st : Strand) (ea : W64) (bs : List Byte) (kind : StoreKind) (o : Order)
    (align traceKind : Nat) : State :=
  (s.checked st ea bs.length align).andThen (fun s a =>
    (s.releaseIf st o).andThen (fun s _ =>
      match s.cur with
      | .tile t _ => (s.storeGo t st ea bs kind o a).andThen (fun s n => .go s (a, some n))
      | .sup d _ => (s.supStore d st ea bs kind a).andThen (fun s _ => .go s (a, none))))
  |>.finish (fun s x =>
    let s := s.trace s.cur traceKind (tracePayload ea x.1 s.cur.tileNo)
    match x.2 with
    | some n => if o.isAcq then s.holdCur st (.storeAcq n) else s.retire st
    | none => s.retireOrd s.cur st o)

/-- The alignment a store needs: natural with an order, any when relaxed (R153). -/
def storeAlign (o : Order) (n : Nat) : Nat := if o = .relaxed then 1 else n

/-! ## Atomics -/

/-- New value of an integer atomic of w bits, or none when nothing is written (R159). -/
def atomInt (op : AtomOp) (w : Nat) (old v c : BitVec w) : Option (BitVec w) :=
  match op with
  | .add => some (old + v)
  | .and => some (old &&& v)
  | .or => some (old ||| v)
  | .xor => some (old ^^^ v)
  | .min => some (if old.toInt ≤ v.toInt then old else v)
  | .max => some (if old.toInt ≥ v.toInt then old else v)
  | .minu => some (if old.toNat ≤ v.toNat then old else v)
  | .maxu => some (if old.toNat ≥ v.toNat then old else v)
  | .swp => some v
  | .cas => if old = c then some v else none
  | .addf => none

end Sys2Proof.Machine
end

