-- ==== Sys2Proof/Machine/Flags.lean ====
section
/-! DEFINITION. The flag register sys.aflags (R46, R47), lanes of vector registers (R206, R207), and the
floating atomic (R160). -/
namespace Sys2Proof.Machine

/-- Set flags: they are sticky (R46). -/
def Team.flag (m : Team) (f : W64) : Team := { m with aflags := m.aflags ||| f, raised := m.raised ||| f }

/-- The acsat bit of an accumulator (R46). -/
def acsatBit (n : Nat) : W64 := 1#64 <<< (8 + n)

/-- Clearing the acsat bit of an accumulator, sat unchanged (R47). -/
def Team.clearAcsat (m : Team) (n : Nat) : Team :=
  { m with aflags := m.aflags &&& ~~~(acsatBit n), raised := m.raised &&& ~~~(acsatBit n) }

/-! ## Lanes (R206) -/

end Sys2Proof.Machine
namespace Sys2Proof

/-- Lane width in bits. -/
def LaneType.width : LaneType → Nat
  | .b => 8
  | .f8 => 8
  | .h => 16
  | .bf => 16
  | .bfz => 16
  | .w => 32
  | .f => 32
  | .fz => 32

/-- Lane count L. -/
def LaneType.lanes (t : LaneType) : Nat := 1024 / t.width
/-- Lane size s in bytes. -/
def LaneType.size (t : LaneType) : Nat := t.width / 8
/-- The flush-to-zero types. -/
def LaneType.flush : LaneType → Bool
  | .bfz => true
  | .fz => true
  | .b => false
  | .h => false
  | .w => false
  | .bf => false
  | .f => false
  | .f8 => false

end Sys2Proof
namespace Sys2Proof.Machine

/-- Lane j of w bits, as a number. -/
def lane (v : VWord) (w j : Nat) : Nat := (v >>> (w * j)).toNat % 2 ^ w

/-- A register from its lanes, lane 0 first. -/
def packLanes (w : Nat) (l : List Nat) : VWord :=
  BitVec.ofNat 1024 (l.foldr (fun x a => x % 2 ^ w + 2 ^ w * a) 0)

/-- Lane as two's complement. -/
def slane (v : VWord) (w j : Nat) : Int := (BitVec.ofNat w (lane v w j)).toInt

/-- The low w bits of an integer. -/
def intBits (w : Nat) (i : Int) : Nat := (BitVec.ofInt w i).toNat

/-- Read a predicate: p0 is all ones (R101). -/
def Team.pred (m : Team) (p : PReg) : PWord := if p = 0 then BitVec.allOnes 128 else m.p[p.toNat]'p.isLt

/-- Vector register read and write. -/
def Team.vr (m : Team) (i : VReg) : VWord := m.v[i.toNat]'i.isLt
def Team.setV (m : Team) (i : VReg) (x : VWord) : Team := { m with v := m.v.set i.toNat x i.isLt }

/-- Predicate write; p0 is never a destination (R101). -/
def Team.setP (m : Team) (i : PReg) (x : PWord) : Team :=
  if i = 0 then m else { m with p := m.p.set i.toNat x i.isLt }

/-- Replace the active lanes of a register by results (R207); flags of inactive lanes do not count. -/
def mergeLanes (w : Nat) (old : VWord) (p : PWord) (f : Nat → Nat × W64) : VWord × W64 :=
  let rs := (List.range (1024 / w)).map (fun j => if p.getLsbD j then f j else (lane old w j, 0))
  (packLanes w (rs.map (·.1)), rs.foldl (fun a x => a ||| x.2) 0)

/-- A floating lane read at its type (R206, R43). -/
def fpLane (t : LaneType) (x : Nat) : FVal :=
  match t with
  | .bf => FVal.ofBf (BitVec.ofNat 16 x)
  | .bfz => FVal.ofBf (BitVec.ofNat 16 (flushIn 7 x))
  | .f => FVal.ofF32 (BitVec.ofNat 32 x)
  | .fz => FVal.ofF32 (BitVec.ofNat 32 (flushIn 23 x))
  | .f8 => FVal.ofF8 (BitVec.ofNat 8 x)
  | .b => FVal.ofInt (BitVec.ofNat 8 x).toInt
  | .h => FVal.ofInt (BitVec.ofNat 16 x).toInt
  | .w => FVal.ofInt (BitVec.ofNat 32 x).toInt

/-- A result rounded at the lane type, with its flags (R43). -/
def fpRound (t : LaneType) (x : FVal) : Nat × W64 :=
  match t with
  | .bf => let r := x.toBf false; (r.1.toNat, r.2)
  | .bfz => let r := x.toBf true; (r.1.toNat, r.2)
  | .f => let r := x.toF32 false; (r.1.toNat, r.2)
  | .fz => let r := x.toF32 true; (r.1.toNat, r.2)
  | .f8 => let r := x.toF8 true; (r.1.toNat, r.2)
  | .b => (intBits 8 x.toIntRne, 0)
  | .h => (intBits 16 x.toIntRne, 0)
  | .w => (intBits 32 x.toIntRne, 0)

/-- A rounded operation with INV when it created a NaN (R43). -/
def fpResult (t : LaneType) (ops : List FVal) (x : FVal) : Nat × W64 :=
  let r := fpRound t x
  (r.1, r.2 ||| invOf ops x)

/-! ## Atomics at the home -/

/-- New value bits of an atomic of n bytes (R159, R160), or none when nothing is written. -/
def atomNew (op : AtomOp) (n : Nat) (old val cmp : Nat) : Option Nat :=
  match op with
  | .addf =>
    if n = 2 then
      some (FVal.add (FVal.ofBf (BitVec.ofNat 16 old)) (FVal.ofBf (BitVec.ofNat 16 val))).toBf.1.toNat
    else some (FVal.add (FVal.ofF32 (BitVec.ofNat 32 old)) (FVal.ofF32 (BitVec.ofNat 32 val))).toF32.1.toNat
  | op => (atomInt op (8 * n) (BitVec.ofNat _ old) (BitVec.ofNat _ val) (BitVec.ofNat _ cmp)).map (·.toNat)

/-- An atomic performed on the bytes of its home: the old bytes, and the machine after its write; no tile owns the words
afterwards, written or not (R162). -/
def State.atomicAt (s : State) (tile asid : Nat) (ed : Option Nat) (addr : W64) (l : Loc) (op : AtomOp) (n : Nat)
    (val cmp : W64) : State × List Byte :=
  let old := s.readSegs asid [(l, n)]
  match atomNew op n (leNat old) val.toNat cmp.toNat with
  | none => (match l with
    | .dev pa => s.ownWords (.atomic tile) pa n
    | .spad _ _ => s
    | .host _ => s, old)
  | some v => (s.storeAt (.atomic tile) tile asid ed addr l (leBytes n v), old)

/-- A registered RADD (R161): the add at the home. -/
def State.raddAt (s : State) (tile asid : Nat) (ed : Option Nat) (addr : W64) (l : Loc) (n : Nat) (bs : List Byte) :
    State :=
  (s.atomicAt tile asid ed addr l .add n (BitVec.ofNat 64 (leNat bs)) 0).1

/-- Whether an access may be an AtomicOp of the host (R164). -/
def hostAtomic (op : AtomOp) (n : Nat) : Bool :=
  (op == .add || op == .swp || op == .cas) && (n == 4 || n == 8)

/-- A side-log entry goes to a home tile, as far as is known (R88, R97). -/
def State.sideHome (s : State) (t : Nat) (e : SideEnt) (home : Option Nat) : Bool :=
  match Space.of e.addr with
  | .tile u _ => some u == home
  | .localOff _ => some t == home
  | .virt => match s.walk (t / 256) e.asid e.addr.toNat with
    | some f => (linePieces [(leafLoc f.pte e.addr.toNat, e.data.length)]).any (fun x => x.1.home == home)
    | none => true
  | .none => false

/-- A logged store of the strand with the same home tile: the atomic waits for it (R88, R97, R162). -/
def State.sameHomeLogged (s : State) (t uid : Nat) (l : Loc) : Bool :=
  (s.tile t).side.any (fun e => e.uid == uid && s.sideHome t e l.home)

/-- A store entry goes to a home tile. -/
def StoreEnt.goesTo (e : StoreEnt) (home : Option Nat) : Bool :=
  (linePieces e.segs).any (fun x => x.1.home == home)

/-- An unregistered store of the strand with the same home tile: the atomic waits for it (R88, R162). -/
def State.sameHomePending (s : State) (t uid : Nat) (l : Loc) : Bool :=
  (s.tile t).sb.any (fun e => e.uid == uid && !e.registered && e.goesTo l.home) || s.sameHomeLogged t uid l

/-- Bytes written lie in a page or scratchpad range that an armed watch of their context on the die overlaps (R94). -/
def State.watchedAt (s : State) (d asid : Nat) (addr : W64) (n : Nat) : Bool :=
  let size := match Space.of addr with
    | .virt => ((s.walk d asid addr.toNat).map (fun f => pageBytes (pteSize f.pte))).getD 4096
    | .localOff _ => 1
    | .tile _ _ => 1
    | .none => 1
  (s.die d).frisket.any (fun y => y.1 / 256 == asid && y.2.armed &&
    decide (addr.toNat / size * size < y.2.base.toNat + y.2.len) &&
    decide (y.2.base.toNat < (addr.toNat + n - 1) / size * size + size))

/-- The release action of an atomic: that of its order field (done before), or of a watch over its place (R94). -/
def State.releaseWatched (s : State) (st : Strand) (addr : W64) (l : Loc) (n : Nat) : Got Unit :=
  match l.die with
  | some d => if s.watchedAt d st.asid addr n then s.release st else .go s ()
  | none => .go s ()

/-- A returning atomic of a tile strand, past the checks at issue: on the own scratchpad. -/
def State.atomicOwn (s : State) (st : Strand) (op : AtomOp) (ea : W64) (t off n : Nat) (val cmp : W64) :
    Got (List Byte) :=
  let l : Loc := .spad t off
  if sideCovers (s.tile t).side st.uid (tileSpace t off) n ∨ s.sameHomePending t st.uid l then
    .stop (s.holdCur st .sideWord)
  else
    (s.releaseWatched st (tileSpace t off) l n).andThen (fun s _ =>
      if s.spadPoisoned t st.asid off n then .stop (s.raise st fcPoison ea)
      else
        let r := s.atomicAt t st.asid st.edition (tileSpace t off) l op n val cmp
        .go r.1 r.2)

/-- On another tile's scratchpad: it travels behind the strand's earlier stores (R88, R285). -/
def State.atomicAway (s : State) (st : Strand) (ea : W64) (t u off n : Nat) (acc : Access) (o : Order) :
    Got (List Byte) :=
  let l : Loc := .spad u off
  if sideCovers (s.tile t).side st.uid ea n ∨ s.sameHomeLogged t st.uid l then .stop (s.holdCur st .sideWord)
  else (s.releaseWatched st ea l n).andThen (fun s _ => .stop (s.sendAccess st ea [(l, n)] acc o false))

/-- On device virtual space; the fault of the page's permission comes before that of the target (DESIGN CHOICE, log entry 62). -/
def State.atomicVirt (s : State) (st : Strand) (op : AtomOp) (ea : W64) (t n : Nat) (val cmp : W64) (acc : Access)
    (o : Order) : Got (List Byte) :=
  if sideCovers (s.tile t).side st.uid ea n then .stop (s.holdCur st .sideWord)
  else
    match s.translate st ea.toNat n with
    | .error va => .stop (s.dataMiss st va)
    | .ok (s, segs, ents) =>
      if ents.any (fun e => !pteR e.leaf || !pteW e.leaf) then .stop (s.raise st fcPage ea)
      else if s.sideWrites t st.uid segs then .stop (s.holdCur st .sideWord)
      else
        match segs with
        | [(.dev pa, _)] =>
          if s.sameHomePending t st.uid (.dev pa) then .stop (s.holdCur st .sideWord)
          else
            (s.releaseWatched st ea (.dev pa) n).andThen (fun s _ =>
              if s.migrating segs then .stop (s.holdCur st (.xlate ea))
              else if s.poisoned pa n then .stop (s.raise st fcPoison ea)
              else
                match s.logDirty t ents with
                | none => .stop (s.holdCur st .logFull)
                | some s =>
                  let r := (s.countRemote pa (t / 256)).atomicAt t st.asid st.edition ea (.dev pa) op n val cmp
                  .go r.1 r.2)
        | _ =>
          if hostAtomic op n then
            match s.logDirty t ents with
            | none => .stop (s.holdCur st .logFull)
            | some s => .stop (s.sendAccess st ea segs acc o true)
          else .stop (s.raise st fcAtomic ea)

/-- Of a supervisor strand, which keeps no dirty log (R299; DESIGN CHOICE, log entry 12). -/
def State.atomicSup (s : State) (st : Strand) (op : AtomOp) (ea : W64) (d n : Nat) (val cmp : W64) (a : Target)
    (acc : Access) (o : Order) : Got (List Byte) :=
  match a with
  | .phys pa =>
    if s.sealedIn pa n then .stop (s.raise st fcPage ea)
    else if s.poisoned pa n then .stop (s.raise st fcPoison ea)
    else
      let r := (s.countRemote pa d).atomicAt 0 0 none ea (.dev pa) op n val cmp
      .go r.1 r.2
  | .window t off =>
    let old := s.windowBytes t off n
    if s.windowPoisoned t off n then .stop (s.raise st fcPoison ea)
    else
      match atomNew op n (leNat old) val.toNat cmp.toNat with
      | none => .go s old
      | some v => .go (s.windowStore t off n (BitVec.ofNat 64 v)) old
  | .virt =>
    match s.translate st ea.toNat n with
    | .error va => .stop (s.dataMiss st va)
    | .ok (s, segs, ents) =>
      if ents.any (fun e => !pteR e.leaf || !pteW e.leaf) then .stop (s.raise st fcPage ea)
      else
        match segs with
        | [(.dev pa, _)] =>
          if s.migrating segs then .stop (s.holdCur st (.xlate ea))
          else if s.poisoned pa n then .stop (s.raise st fcPoison ea)
          else
            let r := (s.countRemote pa d).atomicAt 0 (s.die d).svasid.toNat none ea (.dev pa) op n val cmp
            .go r.1 r.2
        | _ => if hostAtomic op n then .stop (s.sendAccess st ea segs acc o true) else .stop (s.raise st fcAtomic ea)
  | .own _ => .stop (s.raise st fcAddress ea)
  | .away _ _ => .stop (s.raise st fcAddress ea)

/-- A returning atomic (R159, R160, R162 to R164): checks, release, the atomic at its place, gd, acquire. -/
def State.doAtomic (s : State) (st : Strand) (op : AtomOp) (d : GReg) (ea : W64) (n : Nat) (signed : Bool)
    (val cmp : W64) (o : Order) : State :=
  (s.checked st ea n n).andThen (fun s a =>
    (s.releaseIf st o).andThen (fun s _ =>
      let acc := Access.atomic op d n signed val cmp
      (match s.cur, a with
        | .tile t _, .own off => s.atomicOwn st op ea t off n val cmp
        | .tile t _, .away u off => s.atomicAway st ea t u off n acc o
        | .tile t _, .virt => s.atomicVirt st op ea t n val cmp acc o
        | .tile _ _, .phys _ => .stop (s.raise st fcAddress ea)
        | .tile _ _, .window _ _ => .stop (s.raise st fcAddress ea)
        | .sup e _, a => s.atomicSup st op ea e n val cmp a acc o).andThen (fun s bs => .go s (a, bs))))
  |>.finish (fun s x =>
    (s.trace s.cur 5 (tracePayload ea x.1 s.cur.tileNo)).retireOrd s.cur (st.wr d (loadValue x.2 signed)) o)

end Sys2Proof.Machine
end

