-- ==== Sys2Proof/Machine/Issue.lean ====
section
/-! DEFINITION. Fetching (R126), choosing what issues (R68), and what an issue does before the instruction's
own effect (R55, R96, R109). -/
namespace Sys2Proof.Machine

/-- What fetching one word gives. -/
inductive WordGot where
  | word (s : State) (w : W32)
  | fault (f : FetchFault)
  | miss (va : Nat)
  deriving DecidableEq, Repr

/-- Fetch the word at a PC (R126, R299): device virtual memory through the read-only path. A PC that is misaligned and out of
device virtual space takes the alignment fault (R127; DESIGN CHOICE, log entry 51). -/
def State.fetchWord (s : State) (r : Ref) (st : Strand) (pc : W64) : WordGot :=
  if pc.toNat % 4 ≠ 0 then .fault .alignment
  else
    match r with
    | .tile t _ =>
      if 2 ^ 56 ≤ pc.toNat then .fault .access
      else
        match s.xlate t st.asid pc.toNat with
        | none => .miss pc.toNat
        | some (s, e) =>
          if pteX e.leaf = false ∨ pteHost e.leaf then .fault .access
          else
            let pa := ptePa e.leaf + (pc.toNat - e.va)
            if s.migrating [(.dev pa, 4)] then .miss pc.toNat
            else if s.poisoned pa 4 then .fault .poisoned
            else
              let x := (s.countRemote pa (t / 256)).readOnly (s.editionBegan st) pa 4
              .word x.1 (BitVec.ofNat 32 (leNat x.2))
    | .sup d _ =>
      match s.checkSup d pc 4 with
      | .ok .virt =>
        match s.xlateDie d (s.die d).svasid.toNat pc.toNat with
        | none => .miss pc.toNat
        | some (s, e) =>
          match leafLoc e.leaf pc.toNat with
          | .dev pa =>
            if pteX e.leaf = false then .fault .access
            else if s.migrating [(.dev pa, 4)] then .miss pc.toNat
            else if s.poisoned pa 4 then .fault .poisoned
            else .word (s.countRemote pa d) (BitVec.ofNat 32 (leNat (Memory.readN s.mem pa 4)))
          | _ => .fault .access
      | _ => .fault .access

/-- What the fetch of an instruction, or of an IMX pair, gives. -/
inductive Fetched where
  | instr (s : State) (i : Instr) (f : Fetch)
  | undefined (s : State) (c : UndefCause) (f : Fetch)
  | fault (s : State) (x : FetchFault) (addr : W64) (f : Fetch)
  | miss (s : State) (va : Nat) (f : Fetch)
  deriving DecidableEq, Repr

/-- Decode the word or pair fetched (R108, R123). -/
def decodeFetched (s : State) (w w2 : W32) (f : Fetch) : Fetched :=
  match decodeWords w w2 with
  | .ok i => .instr s i f
  | .error c => .undefined s c f

/-- Fetch at the strand's PC; an IMX brings its second word, whose fault is reported at the IMX (R109). -/
def State.fetchAt (s : State) (r : Ref) (st : Strand) : Fetched :=
  match s.fetchWord r st st.pc with
  | .miss va => .miss s va ⟨st.pc, st.pc, 0, 0⟩
  | .fault x => .fault s x st.pc ⟨st.pc, st.pc, 0, 0⟩
  | .word s w =>
    if isImx w then
      match s.fetchWord r st (st.pc + 4) with
      | .miss va => .miss s va ⟨st.pc, st.pc + 4, w, 0⟩
      | .fault x => .fault s x (st.pc + 4) ⟨st.pc, st.pc + 4, w, 0⟩
      | .word s w2 => decodeFetched s w w2 ⟨st.pc, st.pc + 4, w, w2⟩
    else decodeFetched s w 0 ⟨st.pc, st.pc, w, 0⟩

/-- A strand that may issue where it stands. -/
def State.canIssue (s : State) (r : Ref) (st : Strand) : Bool :=
  match r with
  | .tile t _ => (s.tile t).ready s.clk st
  | .sup _ _ => st.supReady s.clk

/-- The supervisor slot that issues (DESIGN CHOICE, log entry 12). -/
def Die.choose (d : Die) (clk : Nat) : Option Nat :=
  if clk < d.nextIssue then none
  else ((List.range 4).map (fun i => (d.pick + i) % 4)).find? (fun k =>
    match d.sups.find k with
    | some st => st.supReady clk
    | none => false)

/-- The next strand to issue in this clk: lowest tile first, then supervisors; each tile and each
supervisor issues at most once a clk. -/
def State.nextIssuer (s : State) : Option Ref :=
  match s.tiles.findSome? (fun e => (e.2.choose s.clk).map (fun k => Ref.tile e.1 k)) with
  | some r => some r
  | none => s.dies.findSome? (fun e => (e.2.choose s.clk).map (fun k => Ref.sup e.1 k))

/-- The strand as its instruction finds it: fetched, started, after a pending acquire. -/
def Strand.issued (st : Strand) (r : Ref) (f : Fetch) (now : W64) (clk : Nat) : Strand :=
  { st with
    fetch := f
    lastIssue := clk
    origin := if st.started then st.origin else r.tileNo
    started := true
    acq := if st.mustAcquire then now else st.acq
    mustAcquire := false }

/-- An impression starts: the next one of its entry and word may take a slot, on whichever tile it waits (R197). -/
def State.offerImps (s : State) (st : Strand) : State :=
  match st.imp with
  | none => s
  | some i => (s.tiles.filter (fun e => e.2.waiting.any (fun x => x.isWaitingImp i.inst (some i.word)))).foldl
      (fun s e => s.post .lightSlotTake { tile := e.1 }) s

/-- A gang team issues its first instruction of the slice: when every gang team of its package has done so, the package has
started (R336), once in a slice (DESIGN CHOICE, log entry 43). -/
def State.gangIssue (s : State) (t : Nat) : State :=
  match s.team t with
  | none => s
  | some m =>
    if m.gang && !m.begun then
      let s := s.modTeam t (fun m => { m with begun := true })
      match s.edition m.asid m.ident with
      | none => s
      | some e =>
        let p := t / 1024
        let mine := (e.gangTiles.filter (fun x => x.tile / 1024 == p)).map (fun x =>
          (s.team x.tile).any (fun y => y.is m.asid m.ident x.idx && y.begun))
        if e.gangOn ∧ !e.timed.contains p ∧ mine.all id then
          (s.modEdition m.asid m.ident (fun e => { e with timed := e.timed ++ [p] })).post .gangLateNotice
            { asid := m.asid, ident := m.ident, n := e.seq, pkg := p, value := s.podTime }
        else s
    else s

/-- The issue of `r` begins: the strand is the current one, its tile has issued in this clk. -/
def State.begin (s : State) (r : Ref) (st : Strand) (f : Fetch) : State :=
  let s := if st.mustAcquire then s.dropUnowned r else s
  let s := { s.setStrand r (st.issued r f s.podTime s.clk) with cur := r }
  match r with
  | .tile t k =>
    let w := s.tile t
    let c := w.eclass s.clk k st
    let s := s.setTile t { w with nextIssue := s.clk + f.clks, lastPick := w.lastPick.put 15 c k }
    let s := if st.started then s else s.offerImps st
    let s := if st.kind.isAnchored then s.gangIssue t else s
    if w.trace.trigs 1 && st.pc == w.trace.a then s.post .traceTrigger { tile := t, slot := k, value := st.pc } else s
  | .sup d k => let n := s.clk + f.clks
    s.modDie d (fun w => { w with nextIssue := n, pick := (k + 1) % 4 })

/-- A fetch that misses translation holds the strand (R126). -/
def State.fetchMiss (s : State) (r : Ref) (st : Strand) (va : Nat) (f : Fetch) : State :=
  (s.holdAt r { st with fetch := f } (.fetch (BitVec.ofNat 64 va))).post .pageWalk
    { die := r.die, asid := s.asidOf r st, value := BitVec.ofNat 64 va }

/-- Code of a fetch fault (R126, R306). -/
def fetchCode (x : FetchFault) : Byte :=
  match x with
  | .access => fcInstrAccess
  | .alignment => fcInstrAlign
  | .poisoned => fcPoison

/-- UNDEFINED_INSTRUCTION: the word does not retire; precise fault with its cause (R123, R124). -/
def execUndefinedInstruction (s : State) : Host.Outcome State Fault Refusal :=
  s.withCur (fun st => s.trap s.cur st fcUndefined (TrapInfo.at (BitVec.ofNat 8 (match s.ev.cause with
    | .zeroWord => 0
    | .unassigned => 1
    | .reservedField => 2
    | .badImx => 3
    | .operandType => 4)) 0))

/-- INSTRUCTION_FETCH_FAULT: access, alignment or poisoned data at the fetch, precise (R126, R362). -/
def execInstructionFetchFault (s : State) : Host.Outcome State Fault Refusal :=
  s.withCur (fun st => s.trap s.cur st (fetchCode s.ev.fetch) (TrapInfo.at 0 s.ev.value))

end Sys2Proof.Machine
end

