-- ==== Sys2Proof/Machine/Register.lean ====
section
/-! DEFINITION. The registration of buffered stores and RADDs at their homes (R79, R88, R94, R285). -/
namespace Sys2Proof.Machine

/-- A place that a page migration holds (R353). -/
def StoreEnt.migrating (s : State) (e : StoreEnt) : Bool := s.migrating e.segs

/-- A word that the store touches lies in a page or scratchpad range of an armed watch of its context, so that it
carries a release action (R94). -/
def State.watched (s : State) (e : StoreEnt) : Bool :=
  e.segs.any (fun x => match x.1.die with
    | none => false
    | some d => s.watchedAt d e.asid e.addr e.data.length)

/-- An earlier entry that must be registered first: of the strand, to the same home tile (R88), or any of the
strand when the store carries a release action (R94). -/
def State.firstEntry (s : State) (t : Nat) (e : StoreEnt) : StoreEnt :=
  let all := s.watched e
  let homes := (linePieces e.segs).map (fun y => y.1.home)
  ((s.tile t).sb.find? (fun x => x.uid == e.uid && !x.registered &&
    (all || x.n == e.n || homes.any x.goesTo))).getD e

/-- The team of a strand, swapped out of a tile. -/
def Tile.savedOf (w : Tile) (uid : Nat) : Option Saved := w.swapped.find? (fun x => x.strands.any (fun e => e.2.uid == uid))

/-- A strand's store or RADD to its own tile's scratchpad arrives there after its team has left: its bytes are where its team's
are (R25, R354). -/
def State.registerSaved (s : State) (t : Nat) (e : StoreEnt) (a : W64) (x : Saved) (off : Nat) (bs : List Byte) : State :=
  let ps := (List.range bs.length).map (fun i => x.place (off + i))
  match e.kind with
  | .store => s.storePlaced (.strand t) t e.asid e.edition a t off ps bs
  | .radd _ =>
    let old := leNat (ps.zipIdx.map (fun p => s.readPlace t (off + p.2) p.1))
    s.storePlaced (.atomic t) t e.asid e.edition a t off ps (leBytes bs.length (old + leNat bs))

/-- The writes of one entry at its homes. -/
def State.applyRuns (s : State) (t : Nat) (e : StoreEnt) (addr : Nat) (segs : List (Loc × Nat)) (bs : List Byte) :
    State :=
  match segs with
  | [] => s
  | (l, n) :: rest =>
    let s := match l with
      | .dev pa => s.countRemote pa (t / 256)
      | .spad _ _ => s
      | .host _ => s
    let a := BitVec.ofNat 64 addr
    let own := match l with
      | .spad u off => if u = t then ((s.tile t).savedOf e.uid).map (·, off) else none
      | .dev _ => none
      | .host _ => none
    let s := match own, e.kind with
      | some (x, off), _ => s.registerSaved t e a x off (bs.take n)
      | none, .store => s.storeAt (.strand t) t e.asid e.edition a l (bs.take n)
      | none, .radd _ => s.raddAt t e.asid e.edition a l n (bs.take n)
    State.applyRuns s t e (addr + n) rest (bs.drop n)

/-- clk from a store's registration to its acknowledgement (R285): 8 + h for another tile of the die. -/
def StoreEnt.ackDelay (e : StoreEnt) (t : Nat) : Nat :=
  match e.segs with
  | (.spad u _, _) :: _ => if u = t then 0 else meshDelay t u
  | (.dev pa, _) :: _ => meshDelay t (((Loc.dev pa).home).getD t)
  | _ => 0

/-- The store with the acquire bit has performed (R81, R155), or is lost: its strand acquires and goes on. -/
def State.storeAcqDone (s : State) (t n : Nat) : State :=
  match (s.tile t).strands.find? (fun (e : Nat × Strand) => e.2.hold == some (.storeAcq n)) with
  | some e => s.retireAcq (.tile t e.1) e.2
  | none => s

/-- An entry is registered: its acquire action takes place (R81), and what waited for its registration goes on (R86, R88);
its acknowledgement follows. -/
def State.registerEnt (s : State) (t : Nat) (e : StoreEnt) : State :=
  let s := s.applyRuns t e e.addr.toNat e.segs e.data
  let s := s.modTile t (fun w => { w with sb := w.sb.map (fun x => if x.n = e.n then { x with registered := true } else x) })
  let s := (s.storeAcqDone t e.n).wake t (fun _ h => h == .sideWord)
  s.afterClk (e.ackDelay t) .registrationAck { tile := t, n := e.n }

/-- Register entry n, once nothing must come before it and no migration holds its page (R88, R94, R353). -/
def State.registerNext (s : State) (t n : Nat) : State :=
  match (s.tile t).sb.find? (fun x => x.n == n && !x.registered) with
  | none => s
  | some e =>
    if e.migrating s ∨ (s.firstEntry t e).n ≠ n then s.later 1 .storeRegistration { tile := t, n := n }
    else s.registerEnt t e

/-- Entry n of a tile is not registered. -/
def State.unregistered (s : State) (t n : Nat) : Bool := (s.tile t).sb.any (fun x => x.n == n && !x.registered)

/-- Register entry n now, and before it what must come first; one that a migration holds stays, with what follows it. -/
def State.registerNow (s : State) (t n fuel : Nat) : State :=
  match fuel with
  | 0 => s
  | fuel + 1 =>
    match (s.tile t).sb.find? (fun x => x.n == n && !x.registered) with
    | none => s
    | some e =>
      let f := s.firstEntry t e
      if f.n = n then if e.migrating s then s else s.registerEnt t e
      else
        let s := State.registerNow s t f.n fuel
        if s.unregistered t f.n then s else State.registerNow s t n fuel

/-- Unregistered entries of a tile that a condition picks are registered, in order. -/
def State.registerWhere (s : State) (t : Nat) (p : StoreEnt → Bool) : State :=
  ((s.tile t).sb.filter (fun e => p e && !e.registered)).foldl (fun (s : State) e =>
    s.registerNow t e.n (2 * (s.tile t).sb.length)) s

/-- Every store of a context in a tile's store buffer (R90). -/
def State.registerAll (s : State) (t a : Nat) : State := s.registerWhere t (fun e => e.asid == a)

end Sys2Proof.Machine
end

