-- ==== Sys2Proof/Machine/Strands.lean ====
section
/-! DEFINITION. Strands and teams as shared parts of many steps: finding and placing strands (R22, R23, R308),
children (R63), barriers (R170 to R172), what counts as asleep (R73), the end of a strand and of a block
(R57, R181). -/
namespace Sys2Proof.Machine

/-- The slot of a tile strand, by identity. -/
def State.findUid (s : State) (uid : Nat) : Option Ref :=
  s.tiles.findSome? (fun e => (e.2.strands.find? (fun x => x.2.uid == uid)).map (fun x => Ref.tile e.1 x.1))

/-- Whether any tile strand, wherever it is, meets a condition. -/
def State.anyStrand (s : State) (p : Strand → Bool) : Bool :=
  s.tiles.any (fun e => e.2.strands.any (fun x => p x.2) || e.2.waiting.any p || e.2.deque.any p ||
    e.2.swapped.any (fun x => x.strands.any (fun y => p y.2))) ||
  s.transit.any (fun x => p x.strand) || s.actives.any (fun x => p x.strand)

/-- A strand is created in a slot, whose generation rises (R308). -/
def State.occupy (s : State) (t k : Nat) (st : Strand) : State :=
  s.modTile t (fun w => { w with strands := w.strands.ins k st, gens := w.gens.put 0 k (w.gens.get 0 k + 1) })

/-- A light slot of the tile has become free, or a strand waits for one (R23). -/
def State.offer (s : State) (t : Nat) : State := s.post .lightSlotTake { tile := t }

/-! ## Barriers -/

/-- The strands that have not exited have all arrived at the BART (R170). -/
def Tile.bartFull (w : Tile) : Bool :=
  match w.team with
  | some m => !m.bart.isEmpty && !w.anchored.isEmpty && w.anchored.all (fun e => m.bart.contains e.1)
  | none => false

/-- The BART of a tile releases in the next clk if its last participant has arrived (R170). -/
def State.bartCheck (s : State) (t : Nat) : State :=
  if (s.tile t).bartFull then s.later 1 .bartRelease { tile := t } else s

/-- The row or column of a tile that a scope selects (R171). -/
def lineOf (sc : BarScope) (t : Nat) : Nat :=
  match sc with
  | .row => t / 16 % 16
  | .col => t % 16
  | .die => 0

/-- L of a scope (R172). -/
def barwDelay : BarScope → Nat
  | .row => 4
  | .col => 4
  | .die => 8

/-- A tile of a wire instance (R171). -/
def inLine (d : Nat) (sc : BarScope) (line t : Nat) : Bool := t / 256 == d && lineOf sc t == line

/-- Members of an instance: tiles with a block of the edition dealt and not complete (R171). -/
def State.members (s : State) (d : Nat) (sc : BarScope) (line a i : Nat) : List Nat :=
  match s.edition a i with
  | some e => ((e.dealt ++ e.gangTiles).map (·.tile) |>.filter (inLine d sc line)).dedup
  | none => []

/-- A strand waiting in a BARW of the scope. -/
def Strand.inBarw (st : Strand) (sc : BarScope) : Bool :=
  match st.hold with
  | some (.barw _ c _) => c == sc
  | _ => false

/-- A strand that has arrived at a BARW: its release action is complete (R172). -/
def State.barwArrived (s : State) (t : Nat) (k : Nat) (st : Strand) (sc : BarScope) : Bool :=
  st.kind.isAnchored && st.inBarw sc && s.drained (.tile t k) st

/-- A tile's tap is raised: every strand of its resident team has arrived (R172). -/
def State.tap (s : State) (sc : BarScope) (a i t : Nat) : Bool :=
  let w := s.tile t
  (w.team.map (fun m => m.asid == a && m.ident == i)).getD false && !w.anchored.isEmpty &&
    w.anchored.all (fun e => s.barwArrived t e.1 e.2 sc)

/-- The arrived strands of an instance: tile, slot, strand. -/
def State.arrivals (s : State) (d : Nat) (sc : BarScope) (line : Nat) : List (Nat × Nat × Strand) :=
  (s.tiles.filter (fun e => inLine d sc line e.1)).flatMap (fun e =>
    (e.2.anchored.filter (fun x => s.barwArrived e.1 x.1 x.2 sc)).map (fun x => (e.1, x.1, x.2)))

/-- Whether a strand belongs to a claim's edition. -/
def Claim.holds (c : Claim) (s : State) (t : Nat) : Bool :=
  ((s.team t).map (fun m => m.asid == c.asid && m.ident == c.ident)).getD false

/-- A claim ends when none of its edition's strands waits; the next edition to have arrived claims (R171). -/
def State.barwClaim (s : State) (d : Nat) (sc : BarScope) (line : Nat) : State :=
  let x := s.die d
  let here (c : Claim) : Bool := c.scope == sc && c.line == line
  let l := s.arrivals d sc line
  match x.claims.find? here with
  | some c =>
    if l.any (fun e => c.holds s e.1) then s
    else s.setDie d { x with claims := x.claims.filter (fun c => !here c) }
  | none => s

/-- A free instance is claimed by the strand that arrived first. -/
def State.barwFirst (s : State) (d : Nat) (sc : BarScope) (line : Nat) : State :=
  let x := s.die d
  if x.claims.any (fun c => c.scope == sc && c.line == line) then s
  else
    let l := s.arrivals d sc line
    match l.find? (fun e => l.all (fun f => decide (e.2.2.since ≤ f.2.2.since))) with
    | none => s
    | some e =>
      match s.team e.1 with
      | none => s
      | some m => s.setDie d { x with claims := x.claims ++ [⟨sc, line, m.asid, m.ident, none⟩] }

/-- The clk of a team's tap in a scope. -/
def Team.tapOf (m : Team) (sc : BarScope) : Option Nat := (m.tapAt.filter (fun x => x.1 == sc)).map (·.2)

/-- The taps of the tiles of an instance: one rises in the clk after the last arrival of its team (R285), and falls with
an arrival that is withdrawn. -/
def State.setTaps (s : State) (sc : BarScope) (a i : Nat) (l : List Nat) : State :=
  l.foldl (fun s t =>
    let up := s.tap sc a i t
    s.modTeam t (fun m =>
      let now := m.tapOf sc
      if up then { m with tapAt := some (sc, now.getD (s.clk + 1)) }
      else if now.isSome then { m with tapAt := none }
      else m)) s

/-- The clk in which a tile's tap rises or rose, for the edition's barrier in a scope. -/
def State.tapClk (s : State) (sc : BarScope) (a i t : Nat) : Option Nat :=
  (s.team t).bind (fun m => if m.asid = a ∧ m.ident = i then m.tapOf sc else none)

/-- A tile's tap is raised in this clk. -/
def State.tapped (s : State) (sc : BarScope) (a i t : Nat) : Bool :=
  match s.tapClk sc a i t with
  | some n => decide (n ≤ s.clk)
  | none => false

/-- A strand's BARW ends by its limit by this clk. -/
def Strand.barwExpires (st : Strand) (sc : BarScope) (clk : Nat) : Bool :=
  match st.hold with
  | some (.barw _ c x) => c == sc && decide (x ≤ clk)
  | _ => false

/-- The strands that wait in an instance for the barrier of one edition. -/
def State.barwWaiters (s : State) (d : Nat) (sc : BarScope) (line a i : Nat) : List (Nat × Nat × Strand) :=
  (s.tiles.filter (fun (e : Nat × Tile) => inLine d sc line e.1 &&
    (e.2.team.map (fun m => m.asid == a && m.ident == i)).getD false)).flatMap (fun (e : Nat × Tile) =>
      (e.2.anchored.filter (fun x => x.2.inBarw sc)).map (fun x => (e.1, x.1, x.2)))

/-- A release that had come is withdrawn: the limits it was to win against end their strands after all (R172). -/
def State.barwLapse (s : State) (d : Nat) (sc : BarScope) (line a i : Nat) : State :=
  ((s.barwWaiters d sc line a i).filter (fun e => e.2.2.barwExpires sc s.clk)).foldl
    (fun (s : State) e => s.post .barwTimeout { tile := e.1, slot := e.2.1, n := e.2.2.uid }) s

/-- Set or withdraw the release of a claimed instance (R172): L clk after the last tap of its members rises, or after this
clk, in which the last member without one leaves it (R286). -/
def State.barwCheck (s : State) (d : Nat) (sc : BarScope) (line : Nat) : State :=
  let s := (s.barwClaim d sc line).barwFirst d sc line
  match (s.die d).claims.find? (fun c => c.scope == sc && c.line == line) with
  | none => s
  | some c =>
    let l := s.members d sc line c.asid c.ident
    let s := s.setTaps sc c.asid c.ident l
    let x := s.die d
    let set (r : Option Nat) : State := s.setDie d { x with claims := x.claims.map (fun e =>
      if e.scope = sc ∧ e.line = line then { e with release := r } else e) }
    if l.all (fun t => (s.tapClk sc c.asid c.ident t).isSome) = false then
      if c.release.isSome then (set none).barwLapse d sc line c.asid c.ident else set none
    else if c.release.isSome then s
    else
      let n := l.foldl (fun n t => Nat.max n ((s.tapClk sc c.asid c.ident t).getD 0)) s.clk + barwDelay sc
      (set (some n)).later (n - s.clk + 1) .barwRelease { die := d, scope := sc, k := line }

/-- Check the instances of a tile in every scope. -/
def State.barwTile (s : State) (t : Nat) : State :=
  [BarScope.row, .col, .die].foldl (fun s sc => s.barwCheck (t / 256) sc (lineOf sc t)) s

/-! ## Asleep (R73) -/

/-- The waited location of a WAITV still holds the value (R173). -/
def State.sameValue (s : State) (l : Loc) (n : Nat) (v : W64) (asid : Nat) : Bool :=
  leNat (s.readSegs asid [(l, n)]) == v.toNat % 2 ^ (8 * n)

/-- A held strand is asleep (R73); `toks` are the tokens it reaches. -/
def State.asleep (s : State) (toks : Vector Tok 8) (st : Strand) : Bool :=
  st.run == .running && (match st.hold with
    | some (.queueSend _ _) => true
    | some (.queueRecv _ _) => true
    | some (.wait m) => (masked toks m).any (fun e => e.2.pending)
    | some .bart => true
    | some (.waitv l n v) => s.sameValue l n v st.asid
    | some .join => decide (0 < st.children)
    | some .forkFull => decide (65535 ≤ st.children)
    | _ => false)

/-- A strand in a slot is asleep. -/
def State.asleepAt (s : State) (r : Ref) (st : Strand) : Bool := s.asleep (s.toks r st) st

/-- Every non-exited strand of a saved team is asleep: as its hold stands, by the tokens, children and waited values of now
(R73; DESIGN CHOICE, log entry 53). -/
def State.savedAsleep (s : State) (x : Saved) : Bool := x.strands.all (fun e => s.asleep x.team.toks e.2)

/-! ## The end of a strand -/

/-- A child has exited: a held JOIN that it completes acquires, a held FORK issues again (R63). -/
def State.childExit (s : State) (parent : Option Nat) : State :=
  match parent with
  | none => s
  | some p =>
    let s := s.everywhere (fun st => if st.uid = p then { st with children := st.children - 1 } else st)
    match s.findUid p with
    | none => s
    | some r =>
      match s.strand r with
      | none => s
      | some st =>
        match st.hold with
        | some .join => if st.children = 0 then s.retireAcq r st else s
        | some .forkFull => s.setStrand r { st with hold := none }
        | _ => s

/-- Failed tokens that nothing observed count in class data, with the block (R181, R327). -/
def State.countTokens (s : State) (t : Nat) (st : Strand) (v : Vector Tok 8) : State :=
  match st.edition with
  | none => s
  | some i =>
    let f : Option FirstFault := st.block.map (fun b => ⟨3, s.podTime, t / 1024, t, b⟩)
    (v.toList.filter (·.failed)).foldl (fun s _ =>
      s.modReport st.asid i (t / 1024) (fun x => x.fault 3 f none)) s

/-- The tile that holds a block, resident or swapped out. -/
def State.blockTile (s : State) (a i b : Nat) : Option Nat :=
  s.tiles.findSome? (fun e =>
    if (e.2.team.map (fun m => m.is a i b)).getD false || e.2.swapped.any (fun x => x.team.is a i b) then some e.1
    else none)

/-- Let the completion of a block be looked at (R57). -/
def State.blockCheck (s : State) (a i b : Nat) : State :=
  match s.blockTile a i b with
  | some t => s.post .blockComplete { tile := t, asid := a, ident := i, n := b }
  | none => s

/-- The block of a strand may have become complete. -/
def State.blockOf (s : State) (st : Strand) : State :=
  match st.edition, st.block with
  | some i, some b => s.blockCheck st.asid i b
  | _, _ => s

/-- A light strand ends on its tile (R181, R63). -/
def State.endLight (s : State) (t k : Nat) (st : Strand) : State :=
  (((s.freeSlot (.tile t k)).childExit st.parent).offer t).blockOf st

end Sys2Proof.Machine
end

