-- ==== Sys2Proof/Machine/Swap.lean ====
section
/-! DEFINITION. Teams that leave and regain their tiles: the save record (R334), the forced and the compact
path (R177, R178, R332, R333), resumption (R331), the placing of a block (R55, R56), and the candidates of a
tile (R323, R329). -/
namespace Sys2Proof.Machine

/-- Copy bytes between places that no store names, with the poison of whole lines. -/
def State.moveBytes (s : State) (src dst n : Nat) : State :=
  { s with
    mem := Memory.copy s.mem src dst n
    poison := s.poison.filter (fun x => decide (x * 64 < dst) || decide (dst + n ≤ x * 64)) ++
      (s.poison.filter (fun x => decide (src ≤ x * 64) && decide (x * 64 < src + n))).map
        (fun x => x - src / 64 + dst / 64) }

/-- Zero bytes of a scratchpad (R56, R178). -/
def State.zeroSpad (s : State) (t off n : Nat) : State :=
  let k := (Loc.spad t off).key
  { s with
    mem := Memory.clear s.mem k n
    poison := s.poison.filter (fun x => decide (x * 64 < k) || decide (k + n ≤ x * 64)) }

/-- Write bytes of a save record. -/
def State.writeRecord (s : State) (pa : Nat) (l : List (Nat × List Byte)) : State :=
  { s with mem := l.foldl (fun m e => Memory.writeN m (pa + e.1) e.2) s.mem }

/-! ## What a save keeps (R178, R334) -/

/-- The masks of a compact save, from words 0 and 1 of the lead's declaration (R176): v, ac, p. -/
def declV (d : List W64) : Nat := field (d.getD 0 0).toNat 63 32
def declAc (d : List W64) : Nat := field (d.getD 1 0).toNat 15 8
def declP (d : List W64) : Nat := field (d.getD 1 0).toNat 7 0

/-- The registers that the compact path does not declare are zero (R178); p0 stays all ones, its mask bit ignored (R101,
R176). -/
def Strand.keepG (st : Strand) (mask : Nat) : Strand :=
  { st with g := Vector.ofFn (fun i => if mask.testBit i.val then st.g[i] else 0) }

def Team.keepDeclared (m : Team) (d : List W64) : Team :=
  { m with
    v := Vector.ofFn (fun i => if (declV d).testBit i.val then m.v[i] else 0)
    p := Vector.ofFn (fun i => if i.val = 0 ∨ (declP d).testBit i.val then m.p[i] else 0)
    ac := m.ac.filter (fun e => (declAc d).testBit (e.1 / 512)) }

/-- The g registers a strand at YIELD declared (R176): word 0 of its declaration. -/
def Strand.gmask (st : Strand) : Nat :=
  match st.hold with
  | some (.yield _ w) => field (w.getD 0 0).toNat 15 0
  | _ => 0xFFFF

/-- The save record's first fields (R334). -/
def recordHead (x : Saved) (t : Nat) (time : W64) : List (Nat × List Byte) :=
  let m := x.team
  let path := match x.path with
    | .forced => 1
    | .compact => 2
  [ (0x00, leBytes 8 (path * 2 ^ 62 + m.block)), (0x08, leBytes 8 (t * 2 ^ 24 + m.ident)),
    (0x10, leBytes 8 m.grant), (0x18, leBytes 8 time.toNat),
    (0x20, leBytes 8 (m.count.getD (2 ^ 64 - 1))),
    (0x28, leBytes 8 (m.barts % 2 ^ 32 * 2 ^ 32 + m.vxch % 2 ^ 32)), (0x30, leBytes 8 m.aflags.toNat),
    (0x40, ((List.range 10).flatMap (fun i => leBytes 8 (x.decl.getD i 0).toNat))) ]

/-- The status of a strand of a team that is away, as it left (R54, R334). -/
def Saved.status (x : Saved) (e : Nat × Strand) : W64 :=
  statusWord x.team.toks ({ Tile.reset with team := some x.team, strands := x.strands }.eclass x.since e.1 e.2) 0 e.1 e.2

/-- A slot's part of the record: the registers it saves, PC, status and mask, all ones of a forced one (R334). -/
def recordSlot (x : Saved) (given : Option Nat) (e : Nat × Strand) : List (Nat × List Byte) :=
  let base := 0x100 + 256 * e.1
  let mask := given.getD 0xFFFF
  ((List.range 16).filter (fun i => mask.testBit i)).map
      (fun i => (base + 8 * i, leBytes 8 (e.2.rd (BitVec.ofNat 4 i)).toNat)) ++
    [(base + 0x80, leBytes 8 e.2.pc.toNat), (base + 0x88, leBytes 8 (x.status e).toNat),
     (base + 0x90, leBytes 8 (given.getD (2 ^ 64 - 1)))]

/-- The team's part of the record: the registers that the masks name (R334). -/
def recordTeam (m : Team) (v p ac : Nat) : List (Nat × List Byte) :=
  ((List.range 32).filter (fun i => v.testBit i)).map
      (fun i => (0x900 + 128 * i, leBytes 128 (m.v.toList.getD i 0).toNat)) ++
    ((List.range 8).filter (fun i => p.testBit i)).map
      (fun i => (0x1900 + 16 * i, leBytes 16 (m.p.toList.getD i 0).toNat)) ++
    [(0x1980, leBytes 8 (tokBits m.toks (·.failed) * 2 ^ 8)), (0x1988, leBytes 8 (queueCounts m.q).toNat)] ++
    (List.range 4).map (fun i => (0x1A00 + 64 * i, (m.q.toList.getD i []).flatMap (fun w => leBytes 8 w.toNat))) ++
    ((List.range 8).filter (fun i => ac.testBit i)).map (fun i => (0x2000 + 2048 * i,
      (List.range 512).flatMap (fun j => leBytes 4 (m.ac.get 0 (512 * i + j)).toNat)))

/-- The lowest record index of the context that no swapped-out team uses, if its save area has one: a swap waits for it
(R334; DESIGN CHOICE, log entry 15). -/
def State.saveIndex (s : State) (a : Nat) : Option Nat :=
  let used := s.tiles.flatMap (fun e => (e.2.swapped.filter (fun x => x.team.asid == a)).map (·.idx))
  if used.contains 0 then (List.range (Config.saveRecords a + 1)).find? (fun i => !used.contains i) else some 0

/-- Holds that stand while a team is away: places in the queues' and the barrier's order (R67, R170). A store
whose registration is still awaited has retired: the strand acquires at its resumption (R331). -/
def Strand.away (st : Strand) : Strand :=
  match st.hold with
  | some (.yield _ _) => { st with hold := none }
  | some (.vxch) => { st with hold := none }
  | some (.storeAcq _) => st.retired st.after
  | _ => st

/-- The operations of an engine that have not ended: the one begun, then the queue (R247). -/
def Engine.accepted (e : Engine) : List EngOp := e.current.toList ++ e.queue

/-- An engine has nothing queued, running or to complete. -/
def Engine.quiet (e : Engine) : Bool := e.accepted.isEmpty && e.done.isEmpty

/-- Engine operations of a team that are accepted and not complete on its tile (R181, R248). -/
def Tile.teamOps (w : Tile) (a i b : Nat) : Bool :=
  let q (e : Engine) : Bool := e.accepted.any (fun o => o.asid == a && o.ident == i && o.block == b) ||
    e.done.any (fun o => o.asid == a && o.ident == i && o.block == b)
  q w.forme || q w.copy

/-- The clk by which every issued DIV and every issued vector or dense instruction of the team has completed: d of
R332. -/
def Tile.completedBy (w : Tile) (clk : Nat) : Nat :=
  let long (a : Nat) (e : Nat × Nat) : Nat := Nat.max a e.2
  let n := match w.team with
    | some m => m.regAt.foldl long clk
    | none => clk
  w.anchored.foldl (fun (a : Nat) (e : Nat × Strand) => Nat.max a (e.2.regAt.get 0 16)) n

/-- Record lines that a compact save writes: those of its registers and fixed state (R333). -/
def recordLines (l : List (Nat × List Byte)) : Nat :=
  ((l.filter (fun e => e.1 != 0x40)).flatMap (fun e =>
    (List.range (Nat.max 1 ((e.2.length + 63) / 64))).map (fun i => e.1 / 64 + i))).dedup.length

/-- The team leaves its tile (R332 steps 1, 2 and 4; R333): its strands and registers go into a save, its
grant's bytes into the image; the request is cleared (R329), the dirty log is harvested (R348). The save record is
complete, and lines of an incoming team may be filled, when the figures of R332 and R333 say so (DESIGN CHOICE, log entry 10). What its
strands have stored is registered in its own time, before the record is final (R332 step 2; `State.savePending`). -/
def State.leave (s : State) (t : Nat) (path : SavePath) (decl : List W64) : State :=
  let w := s.tile t
  match w.team, w.team.bind (fun m => s.saveIndex m.asid) with
  | none, _ => s
  | some _, none => s
  | some m, some idx =>
    let pa := (s.ctx (t / 256) m.asid).save + 2 * 2 ^ 20 * idx
    let team := { m with yreq := false, stopping := false, exch := [], noExchange := false, tapAt := none }
    let ranges := match path with
      | .forced => [(0, m.grant)]
      | .compact => declRanges decl
    let strands := match path with
      | .forced => w.anchored.map (fun (e : Nat × Strand) => (e.1, e.2.away))
      | .compact => w.anchored.map (fun (e : Nat × Strand) => (e.1, ((e.2.keepG e.2.gmask).retired e.2.after)))
    let team := match path with
      | .forced => team
      | .compact => team.keepDeclared decl
    let x : Saved := ⟨team, strands, path, idx, pa, decl, s.clk, false⟩
    let record : List (Nat × List Byte) := match path with
      | .forced => []
      | .compact => recordHead x t s.podTime ++
          w.anchored.flatMap (fun (e : Nat × Strand) => recordSlot x (some e.2.gmask) (e.1, e.2.retired e.2.after)) ++
          recordTeam m (declV decl) (declP decl) (declAc decl)
    let lines := (ranges.map (·.2)).sum / 64 + recordLines record
    let s := s.writeRecord pa record
    let s := ranges.foldl (fun (s : State) (r : Nat × Nat) => s.moveBytes (Loc.spad t r.1).key (pa + 0x10000 + r.1) r.2) s
    let s := s.setTile t { w with
      team := none
      strands := w.strands.filter (fun e => decide (8 ≤ e.1))
      swapped := w.swapped ++ [x]
      fillFrom := match path with
        | .forced => w.completedBy s.clk + 26
        | .compact => s.clk + lines + 1 }
    let done := match path with
      | .forced => w.completedBy s.clk - s.clk + 25 + m.grant / 64 + 384
      | .compact => lines + 1
    let s := s.later done .saveRecordWrite { tile := t, asid := m.asid, n := idx, k := s.clk }
    (s.post .dirtyLogMerge { tile := t }).post .blockDeal { die := t / 256 }

/-- The swapped-out team of a tile by context and record index. -/
def Tile.savedAt (w : Tile) (a idx : Nat) : Option Saved :=
  w.swapped.find? (fun x => x.team.asid == a && x.idx == idx)

/-- The hold a strand resumes with (R67, R170): in its queue or at its BART; everything else issues again, but what the
strand chosen for the all-asleep fault sleeps in stands (R357). -/
def Strand.back (st : Strand) (chosen : Bool) : Strand :=
  { st with
    hold := match st.hold with
      | some (.queueSend q a) => some (.queueSend q a)
      | some (.queueRecv q d) => some (.queueRecv q d)
      | some .bart => some .bart
      | h => if chosen then h else none
    mustAcquire := true }

/-- The clk in which a team of grant S that takes the tile now may issue: its lines are filled one per clk (R332 steps
4 and 5). -/
def Tile.fillEnd (w : Tile) (clk grant : Nat) : Nat := Nat.max (Nat.max clk w.nextIssue) w.fillFrom + grant / 64

/-- A swapped-out team returns to its tile (R331, R332 step 5, R178). -/
def State.bringBack (s : State) (t : Nat) (x : Saved) : State :=
  let s := match x.path with
    | .forced => s.moveBytes (x.pa + 0x10000) (Loc.spad t 0).key x.team.grant
    | .compact => (declRanges x.decl).foldl
        (fun (s : State) (r : Nat × Nat) => s.moveBytes (x.pa + 0x10000 + r.1) (Loc.spad t r.1).key r.2) (s.zeroSpad t 0 x.team.grant)
  let clk := s.clk
  let chosen := (s.root x.team.asid).chosen
  s.modTile t (fun w => { w with
    team := some { x.team with
      start := w.fillEnd clk x.team.grant
      count := if x.team.deadline = 0 then none else some x.team.deadline
      yreq := false
      residence := 0
      asleepFor := 0
      raised := 0
      begun := false
      noExchange := !(w.forme.quiet && w.copy.quiet) && !w.teamOps x.team.asid x.team.ident x.team.block }
    strands := x.strands.foldl (fun (l : Table Strand) (e : Nat × Strand) => l.ins e.1 (e.2.back (chosen == some e.2.uid))) w.strands
    swapped := w.swapped.filter (fun y => !(y.team.asid == x.team.asid && y.idx == x.idx))
    lastCtx := some x.team.asid })

/-- An anchored strand of a new team (R55, R56). -/
def teamStrand (d : Desc) (c : Ctx) (a i b uid k clk : Nat) : Strand :=
  let st := Strand.fresh uid a .anchored d.pc (clampClass c d.cls.toNat)
  let st := (st.wr 1 d.arg).wr 2 (BitVec.ofNat 64 k)
  { st with rank := k, block := some b, edition := some i, steal := d.steal, born := clk }

/-- The extents as id.ext shows them (R183). -/
def Desc.ext (d : Desc) : W64 := BitVec.ofNat 64 (d.z * 2 ^ 42 + d.y * 2 ^ 21 + d.x)

/-- A team at dispatch (R56). -/
def newTeam (d : Desc) (a i b : Nat) (late : Bool) (start : Nat) : Team where
  asid := a
  ident := i
  block := b
  ext := d.ext
  n := d.n
  grant := d.grant
  v := Vector.replicate 32 0
  p := (Vector.replicate 8 0).set 0 (BitVec.allOnes 128)
  ac := []
  toks := Vector.replicate 8 Tok.idle
  q := Vector.replicate 4 []
  aflags := 0
  raised := 0
  deadline := d.deadline
  count := if d.deadline = 0 then none else some d.deadline
  yreq := false
  yreqAt := 0
  residence := 0
  asleepFor := 0
  stopping := false
  bart := []
  barts := 0
  lent := []
  lentAt := 0
  tapAt := none
  vxch := 0
  exch := []
  killed := false
  gang := d.gang
  noExchange := late
  start := start
  begun := false
  regAt := []
  denseFree := 0

/-- A dealt block becomes the tile's team (R56): its strands, their acquire (R84), and zeros in the grant
when the previous team belonged to another context. It issues at once, or after the team that left (R332). -/
def State.placeTeam (s : State) (t a i b : Nat) (d : Desc) : State :=
  let w := s.tile t
  let late := !(w.forme.quiet && w.copy.quiet)
  let c := s.ctx (t / 256) a
  let same := w.lastCtx == some a
  let start := if w.fillFrom ≤ s.clk then Nat.max s.clk w.nextIssue else w.fillEnd s.clk (if same then 0 else d.grant)
  let s := if same then s else s.zeroSpad t 0 d.grant
  let s := s.modTile t (fun w => { w with
    team := some (newTeam d a i b late start)
    dispatch := none
    lastCtx := some a })
  (List.range d.n).foldl (fun s k =>
    { s.occupy t k (teamStrand d c a i b s.fresh k s.clk) with fresh := s.fresh + 1 }) s

/-! ## Candidates (R323, R329) -/

/-- The class of a team: the highest own class of its non-exited strands. -/
def classOf (l : Table Strand) : Nat := l.foldl (fun a e => Nat.max a e.2.cls.toNat) 0

/-- A chase's owner and state, as the eligibility and acceptance checks see them (R253, R323). -/
def Tile.chaseSet (w : Tile) (a k : Nat) : Bool :=
  let c := w.chases.get Chase.reset k
  c.state == .set && c.asid == a

/-- A tile with the plate tag and the chases that an edition asks for (R323). -/
def Tile.carries (w : Tile) (a : Nat) (d : Desc) : Bool :=
  d.tag == 0 || (w.tags.get 0 a == d.tag &&
    (List.range 32).all (fun k => !d.chases.getLsbD k || w.chaseSet a k))

/-- A tile of the partition that the plate tag and chases of an edition allow (R323), powered. -/
def State.eligible (s : State) (a t : Nat) (d : Desc) : Bool :=
  s.inPartition (t / 256) a t && !s.off t && (s.tile t).carries a d

/-- No team is resident on the tile and none is on its way. -/
def Tile.free (w : Tile) : Bool := w.team.isNone && w.dispatch.isNone && w.incoming.isNone

/-- A swapped-out team holds the strand chosen for the all-asleep fault (R357). -/
def State.holdsChosen (s : State) (x : Saved) : Bool :=
  x.strands.any (fun e => (s.root x.team.asid).chosen == some e.2.uid)

/-- A swapped-out team that may resume (R331): its record is complete, and some strand is awake in a team that has no gang
slice to wait for (R335), or it holds the strand chosen for the all-asleep fault, a gang team too (R357). -/
def State.savedReady (s : State) (x : Saved) : Bool := x.final && (s.holdsChosen x || (!s.savedAsleep x && !x.team.gang))

/-- A candidate with its rank: chosen for the all-asleep fault first, then class, then the longest wait, a
team before an edition. -/
structure Ranked where
  first : Bool
  cls : Nat
  since : Nat
  isTeam : Bool
  asid : Nat
  what : Candidate
  deriving DecidableEq, Repr

/-- `a` comes before `b` (R323, R357). -/
def Ranked.before (a b : Ranked) : Bool :=
  if a.first != b.first then a.first
  else if a.cls != b.cls then decide (b.cls < a.cls)
  else if a.since != b.since then decide (a.since < b.since)
  else a.isTeam && !b.isTeam

/-- The swapped-out teams of a tile that may resume. -/
def State.savedCands (s : State) (t : Nat) : List Ranked :=
  ((s.tile t).swapped.filter s.savedReady).map (fun x =>
    ⟨s.holdsChosen x, classOf x.strands, x.since, true,
      x.team.asid, .saved x.idx x.team.asid⟩)

/-- The editions whose undealt blocks stand where `ok` says, eligible at the package, for which a tile is eligible. -/
def State.blockCands (s : State) (t : Nat) (ok : Edition → Bool) : List Ranked :=
  s.roots.flatMap (fun (r : Nat × Root) => r.2.editions.filterMap (fun (e : Edition) =>
    match e.eligible.find (t / 1024) with
    | none => none
    | some since =>
      if e.state = .running ∧ e.desc.gang = false ∧ ok e ∧ s.eligible r.1 t e.desc then
        some ⟨false, (clampClass (s.ctx (t / 256) r.1) e.desc.cls.toNat).toNat, since, false, r.1, .block r.1 e.ident 0⟩
      else none))

/-- An edition has undealt blocks at a die. -/
def Edition.atHand (e : Edition) (d : Nat) : Bool := !(e.atDie.get [] d).isEmpty

/-- What a free tile may be given (R323): ready swapped-out teams and editions with undealt blocks at the die. -/
def State.candidates (s : State) (t : Nat) : List Ranked :=
  s.savedCands t ++ s.blockCands t (fun e => e.atHand (t / 256))

/-- What waits for a tile whose team is resident (R329): these, and editions whose undealt blocks have not come down to the
die, since a block not yet dealt waits for a tile as a ready team does (R71; DEDUCED, log entry 58). -/
def State.waitingFor (s : State) (t : Nat) : List Ranked :=
  s.savedCands t ++ s.blockCands t (fun e =>
    e.atHand (t / 256) || !(e.atPkg.get [] (t / 1024)).isEmpty || !e.atRoot.isEmpty)

/-- The first of the candidates, if any. -/
def bestOf (l : List Ranked) : Option Ranked :=
  l.foldl (fun (a : Option Ranked) c => match a with
    | none => some c
    | some b => if c.before b then some c else some b) none

/-- The quantum of a context on a die (R329). -/
def Ctx.q (c : Ctx) : Nat := if c.quantum = 0 then 320000 else c.quantum

/-- The yield request of the resident team is set (R329); with its deadline expired, or without one and with a quantum under
16 clk, this is clk e of R330. -/
def State.setYreq (s : State) (t : Nat) : State :=
  let now := s.clk
  let fresh := (s.team t).filter (fun m => !m.yreq)
  let s := s.modTeam t (fun m => if m.yreq then m else { m with yreq := true, yreqAt := now })
  match fresh with
  | none => s
  | some m =>
    match m.count with
    | some 0 => s.post .forcedPreemption { tile := t }
    | some _ => s
    | none => if (s.ctx (t / 256) m.asid).q < 16 then s.post .preemptGraceExpiry { tile := t } else s

end Sys2Proof.Machine
end

