-- ==== Sys2Proof/Machine/Coord.lean ====
section
/-! DEFINITION. Meanings of the fences, barriers, waits, queues and strand instructions (R89, R90, R168 to
R183). -/
namespace Sys2Proof.Machine

/-! ## Fences -/

/-- R89: prior loads have performed and prior stores are in the store buffer when an instruction issues. -/
def execFenceL (s : State) : Host.Outcome State Fault Refusal := s.withCur (fun st => s.retire st)

/-- Tiles on which a strand of the context is resident, or a store of one that has left it is on its way (R90, R332). -/
def State.tilesOf (s : State) (a : Nat) : List Nat :=
  (s.tiles.filter (fun e => e.2.strands.any (fun x => x.2.asid == a) || e.2.sb.any (fun x => x.asid == a))).map (·.1)

/-- R90: release, a serialise request to every such tile, and an acquire when all have answered; a
supervisor's acts as FENCE.L (R298). -/
def execFenceH (s : State) : Host.Outcome State Fault Refusal :=
  s.withCur (fun st =>
    match s.cur with
    | .sup _ _ => s.retire st
    | .tile _ _ =>
      (s.release st).finish (fun s _ =>
        let l := s.tilesOf st.asid
        let n := s.fresh
        let s := { s with fresh := s.fresh + 1 }.holdCur st (.fence n l.length)
        l.foldl (fun s u => s.post .serialiseRequest { tile := u, asid := st.asid, n := n, k := st.uid }) s))

/-! ## Barriers -/

/-- R170: release, arrival; the barrier releases in the clk after the last participant's. -/
def execBart (s : State) : Host.Outcome State Fault Refusal :=
  s.withCur (fun st => s.withTeam st (fun t _ =>
    (s.release st).finish (fun s _ =>
      let k := s.cur.slot
      let s := s.modTeam t (fun m => { m with bart := if m.bart.contains k then m.bart else m.bart ++ [k] })
      (s.holdCur st .bart).bartCheck t)))

/-- R172: the strand waits from its issue; it arrives when its release action is complete. -/
def execBarw (d a : GReg) (scope : BarScope) (s : State) : Host.Outcome State Fault Refusal :=
  s.withCur (fun st => s.withTeam st (fun t _ =>
    let limit := (st.rd a).toNat % 2 ^ 32
    let s := s.holdCur st (.barw d scope (s.clk + limit))
    let s := s.barwCheck (t / 256) scope (lineOf scope t)
    let x : EvArg := { tile := t, slot := s.cur.slot, n := st.uid }
    if limit = 0 then s.post .barwTimeout x else s.later limit .barwTimeout x))

/-! ## Waiting -/

/-- The value WAITV compares with, at the access width. -/
def waitValue (size : Nat) (v : W64) : W64 := BitVec.ofNat 64 (v.toNat % 2 ^ (8 * size))

/-- Where the bytes of a passed access stand (R75); a page that is not in the TLB has none. -/
def State.locOf (s : State) (st : Strand) (ea : W64) (n : Nat) (a : Target) : Option Loc :=
  match s.cur, a with
  | .tile t _, .own off => some (.spad t off)
  | .tile _ _, .away u off => some (.spad u off)
  | .tile _ _, .virt =>
    match s.translate st ea.toNat n with
    | .ok (_, (l, _) :: _, _) => some l
    | _ => none
  | _, _ => none

/-- R173: an acquire load at the home; retires if the value differs, else waits for a registration. -/
def execWaitv (a b : GReg) (size : ASize) (s : State) : Host.Outcome State Fault Refusal :=
  s.withCur (fun st => s.userOnly st (fun t =>
    let n := match size with
      | .w => 4
      | .d => 8
    let ea := st.rd a
    let v := waitValue n (st.rd b)
    (s.checked st ea n n).andThen (fun s x =>
      match s.takeData st.uid with
      | some (s, bs) => .go s (x, bs)
      | none => (s.readData st ea n .acquire x (.again n) .addressFault).andThen (fun s bs => .go s (x, bs)))
    |>.finish (fun s r =>
      if leNat r.2 ≠ v.toNat then s.retireAcq s.cur st
      else
        match s.locOf st ea n r.1 with
        | some l =>
          (s.holdCur st (.waitv l n v)).post .waitvWake { tile := t, slot := s.cur.slot }
        | none => s.dataMiss st ea.toNat)))

/-- R174: takes the latched event, or waits for an event or the limit. -/
def execWaitx (d a : GReg) (s : State) : Host.Outcome State Fault Refusal :=
  s.withCur (fun st => s.userOnly st (fun t =>
    let code := (s.tile t).latch
    if code ≠ 0 then
      (s.modTile t (fun w => { w with latch := 0 })).retireAcq s.cur (st.wr d (BitVec.ofNat 64 code))
    else
      let limit := (st.rd a).toNat % 2 ^ 32
      let s := s.holdCur st (.waitx d (if limit = 0 then 0 else s.clk + limit))
      if limit = 0 then s
      else s.later limit .waitxLimit { tile := t, slot := s.cur.slot, n := st.uid }))

/-! ## YIELD (R175 to R177) -/

/-- The words of a save declaration, word 0 or all of them, if they pass the checks of R176. -/
def State.declWords (s : State) (t : Nat) (st : Strand) (grant : Nat) (addr : W64) (all : Bool) :
    Option (List W64) :=
  match Space.of addr with
  | .localOff off =>
    let word (k : Nat) : W64 := loadValue (s.loadBytes t st false [(.spad t (off + 8 * k), 8)]).2 false
    let w0 := word 0
    let w1 := word 1
    let n := field w1.toNat 19 16
    let ok (w : W64) : Bool :=
      let len := field w.toNat 41 21
      let o := field w.toNat 20 0
      field w.toNat 63 42 == 0 && len != 0 && len % 64 == 0 && o % 64 == 0 && decide (o + len ≤ grant)
    let ranges := (List.range n).map (fun i => word (2 + i))
    if off % 8 ≠ 0 ∨ grant < off + 8 ∨ field w0.toNat 31 16 ≠ 0 then none
    else if all = false then some [w0]
    else if grant < off + 16 ∨ field w1.toNat 63 20 ≠ 0 ∨ 8 < n ∨ grant < off + 16 + 8 * n then none
    else if ranges.all ok then some (w0 :: w1 :: ranges)
    else none
  | _ => none

/-- A strand waits at YIELD and is not stopped by a debugger. -/
def Strand.atYield (st : Strand) : Bool :=
  st.run == .running && (match st.hold with
    | some (.yield _ _) => true
    | _ => false)

/-- All participants have arrived, no team token is pending, both engine queues are empty (R175 step 3). -/
def Tile.yieldReady (w : Tile) : Bool :=
  match w.team with
  | some m => !w.anchored.isEmpty && w.anchored.all (fun e => e.2.atYield) && m.toks.toList.all (fun k => !k.pending)
      && w.forme.quiet && w.copy.quiet
  | none => false

/-- Every participant acquires and goes on after its YIELD; the deadline counter restarts (R177). -/
def State.yieldOn (s : State) (t : Nat) : State :=
  let s := (s.tile t).anchored.foldl (fun s e => s.retireAcq (.tile t e.1) (e.2.notBefore (s.clk + 1))) s
  s.modTeam t (fun m => { m with count := if m.deadline = 0 then none else some m.deadline })

/-- YIELD retires for all participants, if it can (R175 steps 3 to 5, R177), and, to leave, if a save record is free (R334); looked at in each clk, before the
deadline (R177, R381). -/
def State.yieldTry (s : State) (t : Nat) : State :=
  let w := s.tile t
  match w.yieldReady, w.team, w.anchored with
  | true, some m, (k, lead) :: _ =>
    match lead.hold with
    | some (.yield addr ws) =>
      let words := if 2 ≤ ws.length then some ws else s.declWords t lead m.grant addr true
      match words with
      | none => s.trap (.tile t k) lead fcYieldDecl (TrapInfo.at 0 addr)
      | some ws =>
        if m.yreq then
          if (s.saveIndex m.asid).isNone then s
          else ((s.setStrand (.tile t k) { lead with hold := some (.yield addr ws) }).leave t .compact ws).barwTile t
        else s.yieldOn t
    | _ => s
  | _, _, _ => s

/-- R175: checks, release, arrival, and retirement for all when it can. -/
def execYield (a : GReg) (s : State) : Host.Outcome State Fault Refusal :=
  s.withCur (fun st => s.withTeam st (fun t m =>
    let lead := (s.tile t).anchored.all (fun e => decide (s.cur.slot ≤ e.1))
    match s.declWords t st m.grant (st.rd a) lead with
    | none => s.raise st fcYieldDecl (st.rd a)
    | some ws => (s.release st).finish (fun s _ => s.holdCur st (.yield (st.rd a) ws))))

/-! ## Queues (R67, R179) -/

/-- A queue's entries. -/
def Team.queue (m : Team) (q : QReg) : List W64 := m.q[q.toNat]'q.isLt
def Team.setQueue (m : Team) (q : QReg) (l : List W64) : Team := { m with q := m.q.set q.toNat l q.isLt }

/-- The strand of a tile held longest under a condition (R67). -/
def Tile.longest (w : Tile) (p : Hold → Bool) : Option (Nat × Strand) :=
  let l := w.anchored.filter (fun e => match e.2.hold with
    | some h => p h
    | none => false)
  l.find? (fun e => l.all (fun f => decide (e.2.since ≤ f.2.since)))

/-- Held on receiving from the queue, or on sending to it. -/
def Hold.isRecv (q : QReg) : Hold → Bool
  | .queueRecv r _ => r == q
  | _ => false
def Hold.isSend (q : QReg) : Hold → Bool
  | .queueSend r _ => r == q
  | _ => false

/-- Room has appeared: the sender held longest appends its value and retires (R67). -/
def State.serveSender (s : State) (t : Nat) (q : QReg) : State :=
  match (s.tile t).longest (Hold.isSend q) with
  | some (k, st) =>
    match st.hold with
    | some (.queueSend _ a) =>
      (s.modTeam t (fun m => m.setQueue q (m.queue q ++ [st.rd a]))).complete (.tile t k) st
    | _ => s
  | none => s

/-- R179: release, then append; an entry goes to the receiver held longest. -/
def execQsnd (a : GReg) (q : QReg) (s : State) : Host.Outcome State Fault Refusal :=
  s.withCur (fun st => s.withTeam st (fun t m =>
    (s.release st).finish (fun s _ =>
      if 8 ≤ (m.queue q).length then s.holdCur st (.queueSend q a)
      else
        match (s.tile t).longest (Hold.isRecv q) with
        | some (k, r) =>
          match r.hold with
          | some (.queueRecv _ d) => (s.retire st).retireAcq (.tile t k) (r.wr d (st.rd a))
          | _ => s.retire st
        | none => (s.modTeam t (fun m => m.setQueue q (m.queue q ++ [st.rd a]))).retire st)))

/-- R179: take the oldest entry, then acquire; holds while the queue is empty. -/
def execQrcv (d : GReg) (q : QReg) (s : State) : Host.Outcome State Fault Refusal :=
  s.withCur (fun st => s.withTeam st (fun t m =>
    match m.queue q with
    | [] => s.holdCur st (.queueRecv q d)
    | x :: rest =>
      ((s.modTeam t (fun m => m.setQueue q rest)).retireAcq s.cur (st.wr d x)).serveSender t q))

/-- R179: as QRCV without holding; ga says whether there was an entry. -/
def execQtry (d a : GReg) (q : QReg) (s : State) : Host.Outcome State Fault Refusal :=
  s.withCur (fun st => s.withTeam st (fun t m =>
    match m.queue q with
    | [] => s.retire ((st.wr d 0).wr a 0)
    | x :: rest =>
      ((s.modTeam t (fun m => m.setQueue q rest)).retireAcq s.cur ((st.wr d x).wr a 1)).serveSender t q))

/-- R179: the number of entries. -/
def execQcnt (d : GReg) (q : QReg) (s : State) : Host.Outcome State Fault Refusal :=
  s.withCur (fun st => s.withTeam st (fun _ m => s.retire (st.wr d (BitVec.ofNat 64 (m.queue q).length))))

/-! ## Strands -/

/-- Deque entries of a context that stand in its spill area: those before the last 64 (R62)
(DESIGN CHOICE, log entry 9). -/
def State.spilled (s : State) (a : Nat) : Nat :=
  s.tiles.foldl (fun n e => n + ((e.2.deque.take (e.2.deque.length - 64)).filter (fun x => x.asid == a)).length) 0

/-- The forking context's spill area is full (R63): it has no room left and some entry stands in it, of whatever tile, or the new
entry would displace one into it (DESIGN CHOICE, log entry 9). -/
def State.spillFull (s : State) (t a : Nat) : Bool :=
  (decide (0 < s.spilled a) || decide (64 ≤ (s.tile t).deque.length)) &&
    decide (Config.spillEntries (s.ctx (t / 256) a).spillsize ≤ s.spilled a)

/-- The child of a FORK (R55, R180). -/
def forkChild (st : Strand) (uid n clk : Nat) (pc arg : W64) : Strand :=
  { (Strand.fresh uid st.asid .forked pc st.cls).wr 1 arg with
    parent := some st.uid
    block := st.block
    edition := st.edition
    steal := if st.block.isSome then st.steal else 0
    arrival := n
    born := clk }

/-- R180: a light child on the tile's deque, after a release. -/
def execFork (a b : GReg) (s : State) : Host.Outcome State Fault Refusal :=
  s.withCur (fun st => s.userOnly st (fun t =>
    let pc := st.rd a
    if pc.toNat % 4 ≠ 0 then s.raise st fcInstrAlign pc
    else
      (s.release st).finish (fun s _ =>
        if 65535 ≤ st.children then s.holdCur st .forkFull
        else if s.spillFull t st.asid then s.holdCur st .spillFull
        else
          let c := forkChild st s.fresh s.fresh s.clk pc (st.rd b)
          let s := { s with fresh := s.fresh + 1 }.modTile t (fun w => { w with deque := w.deque ++ [c] })
          (s.retire { st with children := st.children + 1 }).offer t)))

/-- R63: holds until no child is counted, then acquires. -/
def execJoin (s : State) : Host.Outcome State Fault Refusal :=
  s.withCur (fun st => s.userOnly st (fun _ =>
    if st.children = 0 then s.retireAcq s.cur st else s.holdCur st .join))

/-- An anchored strand is gone: the team's barriers, YIELD and block see it (R170, R172, R175, R57). -/
def State.endAnchored (s : State) (t k : Nat) (st : Strand) : State :=
  let s := (s.freeSlot (.tile t k)).childExit st.parent
  let s := if (s.tile t).anchored.isEmpty then
      match s.team t with
      | some m => s.countTokens t st m.toks
      | none => s
    else s
  ((s.bartCheck t).barwTile t).blockOf st

/-- R181: release; a light strand also waits for its private tokens; the slot is freed. -/
def execExit (s : State) : Host.Outcome State Fault Refusal :=
  s.withCur (fun st => s.userOnly st (fun t =>
    (s.release st).finish (fun s _ =>
      if st.kind.isAnchored then s.endAnchored t s.cur.slot st
      else if st.toks.toList.any (·.pending) then s.holdCur st .drain
      else (s.countTokens t st st.toks).endLight t s.cur.slot st)))

/-- The home tile of an address (R64, R65 step 1). -/
def State.homeOf (s : State) (st : Strand) (t : Nat) (ea : W64) : Got Nat :=
  match Space.of ea with
  | .localOff _ => .go s t
  | .tile u _ => .go s u
  | .none => .stop (s.raise st fcAddress ea)
  | .virt =>
    match s.translate st ea.toNat 1 with
    | .error va => .stop (s.dataMiss st va)
    | .ok (s, segs, _) =>
      match segs with
      | (l, _) :: _ =>
        match l.home with
        | some u => .go s u
        | none => .stop (s.raise st fcAddress ea)
      | [] => .stop (s.raise st fcAddress ea)

/-- Steps 2 to 4 of R65: drained, the strand leaves for its destination, or acquires where it is. -/
def State.depart (s : State) (st : Strand) (t u : Nat) : State :=
  if st.toks.toList.any (·.pending) then s.holdCur st .drain
  else
    (s.release st).finish (fun s _ =>
      if u = t then s.retireAcq s.cur st
      else
        let x : Transit := ⟨s.fresh, u, { st.retired st.after with mustAcquire := true }⟩
        let s := { s.freeSlot s.cur with fresh := s.fresh + 1, transit := s.transit ++ [x] }
        (s.post .migrationArrival { n := x.n }).offer t)

/-- R65, R66: to the home tile of the address in ga (DEDUCED, log entry 42). -/
def execGo (a : GReg) (s : State) : Host.Outcome State Fault Refusal :=
  s.withCur (fun st => s.userOnly st (fun t =>
    if st.kind.isAnchored then s.raise st fcStrandKind 0
    else (s.homeOf st t (st.rd a)).finish (fun s u => s.depart st t u)))

/-- R65, R66: to the origin tile. -/
def execHome (s : State) : Host.Outcome State Fault Refusal :=
  s.withCur (fun st => s.userOnly st (fun t =>
    if st.kind.isAnchored then s.raise st fcStrandKind 0 else s.depart st t st.origin))

/-- R182: the own class, clamped (R69). -/
def execPrio (a : GReg) (s : State) : Host.Outcome State Fault Refusal :=
  s.withCur (fun st => s.userOnly st (fun t =>
    s.retire { st with cls := clampClass (s.ctx (t / 256) st.asid) (Nat.min (st.rd a).toNat 3) }))

/-- All ones (R183). -/
abbrev allOnes64 : W64 := 0xFFFFFFFFFFFFFFFF

/-- The extents of a strand's block: those of its team, or of its edition (R183). -/
def State.extOf (s : State) (t : Nat) (st : Strand) : W64 :=
  match st.kind, s.team t with
  | .anchored, some m => m.ext
  | _, _ => ((st.edition.bind (s.edition st.asid)).map (fun e => e.desc.ext)).getD 0

/-- A component of a block index (R58): x + X·(y + Y·z). -/
def blockPart (ext : W64) (b : Nat) (sel : IdSel) : Nat :=
  let x := field ext.toNat 20 0
  let y := field ext.toNat 41 21
  match sel with
  | .bx => b % x
  | .by_ => b / x % y
  | _ => b / x / y

/-- A value of an impression's start (R183). -/
def Strand.impVal (st : Strand) (i : Fin 6) : W64 :=
  match st.imp with
  | some x => x.vals[i]
  | none => 0

/-- The value of a selector (R183). -/
def State.idValue (s : State) (t : Nat) (st : Strand) (sel : IdSel) : W64 :=
  let anch := st.kind.isAnchored
  let team (f : Team → Nat) (z : W64) : W64 :=
    if anch then ((s.team t).map (fun m => BitVec.ofNat 64 (f m))).getD z else z
  let part : W64 := (st.block.map (fun b => BitVec.ofNat 64 (blockPart (s.extOf t st) b sel))).getD allOnes64
  match sel with
  | .slot => BitVec.ofNat 64 s.cur.slot
  | .rank => if anch then BitVec.ofNat 64 st.rank else allOnes64
  | .team => team (·.n) 0
  | .tile => BitVec.ofNat 64 t
  | .origin => BitVec.ofNat 64 st.origin
  | .bx => part
  | .by_ => part
  | .bz => part
  | .block => (st.block.map (BitVec.ofNat 64)).getD allOnes64
  | .ext => (st.block.map (fun _ => s.extOf t st)).getD allOnes64
  | .edition => (st.edition.map (BitVec.ofNat 64)).getD allOnes64
  | .asid => BitVec.ofNat 64 st.asid
  | .spad => team (·.grant) 0
  | .yreq => team (fun m => if m.yreq then 1 else 0) 0
  | .deadline => team (fun m => m.count.getD (2 ^ 64 - 1)) allOnes64
  | .impAddr => st.impVal 0
  | .impOld => st.impVal 1
  | .impNew => st.impVal 2
  | .impCount => st.impVal 3
  | .impArg => st.impVal 4
  | .impEntry => st.impVal 5

/-- R183 -/
def execId (d : GReg) (sel : IdSel) (s : State) : Host.Outcome State Fault Refusal :=
  s.withCur (fun st => s.userOnly st (fun t => s.retire (st.wr d (s.idValue t st sel))))

end Sys2Proof.Machine
end

