-- ==== Sys2Proof/Machine/Vector.lean ====
section
/-! DEFINITION. Meanings of the element-wise vector instructions, select, compare, reductions and permutes
(R205 to R209, R214 to R221, R230 to R233). -/
namespace Sys2Proof.Machine

/-! ## Shared parts -/

/-- Accumulators and tokens of an incoming team hold until the exchange (R332 step 3). -/
def Team.busyReg (m : Team) (regs : List VReg) : Bool := m.exch.any (fun e => regs.contains e.d)

/-- A vector instruction of the team that names some registers (R205, R208): one that a VXCH still has to
write holds it. -/
def State.vec (s : State) (regs : List VReg) (f : Strand → Nat → Team → State) : Host.Outcome State Fault Refusal :=
  s.withCur (fun st => s.withTeam st (fun t m => if m.busyReg regs then s.holdCur st .exchange else f st t m))

/-- One that changes only the team. -/
def State.vecTeam (s : State) (regs : List VReg) (f : Team → Team) : Host.Outcome State Fault Refusal :=
  s.vec regs (fun st t _ => (s.modTeam t f).retire st)

/-- Write the active lanes of vd, with the flags of the active lanes (R207, R209). -/
def Team.lanes (m : Team) (d : VReg) (p : PReg) (w : Nat) (f : Nat → Nat × W64) : Team :=
  let r := mergeLanes w (m.vr d) (m.pred p) f
  (m.setV d r.1).flag r.2

/-- Lanes of one source. -/
def State.lanes1 (s : State) (d a : VReg) (p : PReg) (t : LaneType) (f : Nat → Nat × W64) :
    Host.Outcome State Fault Refusal :=
  s.vecTeam [d, a] (fun m => m.lanes d p t.width (fun j => f (lane (m.vr a) t.width j)))

/-- Lanes of two sources. -/
def State.lanes2 (s : State) (d a b : VReg) (p : PReg) (t : LaneType) (f : Nat → Nat → Nat × W64) :
    Host.Outcome State Fault Refusal :=
  s.vecTeam [d, a, b] (fun m =>
    m.lanes d p t.width (fun j => f (lane (m.vr a) t.width j) (lane (m.vr b) t.width j)))

/-- Lanes of two sources and the old destination. -/
def State.lanes3 (s : State) (d a b : VReg) (p : PReg) (t : LaneType) (f : Nat → Nat → Nat → Nat × W64) :
    Host.Outcome State Fault Refusal :=
  s.vecTeam [d, a, b] (fun m => m.lanes d p t.width (fun j =>
    f (lane (m.vr a) t.width j) (lane (m.vr b) t.width j) (lane (m.vr d) t.width j)))

end Sys2Proof.Machine
namespace Sys2Proof

/-- The integer lane types .b, .h, .w. -/
def LaneType.int : LaneType → Bool
  | .b => true
  | .h => true
  | .w => true
  | .bf => false
  | .f => false
  | .f8 => false
  | .bfz => false
  | .fz => false

end Sys2Proof
namespace Sys2Proof.Machine

/-- A w-bit lane as two's complement. -/
def sx (w x : Nat) : Int := (BitVec.ofNat w x).toInt

/-- The canonical NaN of a floating lane (R43, R217). -/
def nanLane (t : LaneType) : Nat :=
  match t with
  | .bf => 0x7FC0
  | .bfz => 0x7FC0
  | .f => 0x7FC00000
  | .fz => 0x7FC00000
  | .f8 => 0x7F
  | .b => 0
  | .h => 0
  | .w => 0

/-! ## Arithmetic (R216, R217) -/

/-- One lane of a two-operand operation: exact integers modulo 2^w, or floats rounded once. -/
def arith2 (t : LaneType) (fi : Int → Int → Int) (ff : FVal → FVal → FVal) (x y : Nat) : Nat × W64 :=
  if t.int then (intBits t.width (fi (sx t.width x) (sx t.width y)), 0)
  else
    let a := fpLane t x
    let b := fpLane t y
    fpResult t [a, b] (ff a b)

/-- R216, R217 -/
def execVadd (d a b : VReg) (p : PReg) (t : LaneType) (s : State) : Host.Outcome State Fault Refusal :=
  s.lanes2 d a b p t (arith2 t (· + ·) FVal.add)

/-- R216, R217 -/
def execVsub (d a b : VReg) (p : PReg) (t : LaneType) (s : State) : Host.Outcome State Fault Refusal :=
  s.lanes2 d a b p t (arith2 t (· - ·) (fun x y => FVal.add x y.neg))

/-- R216, R217 -/
def execVmul (d a b : VReg) (p : PReg) (t : LaneType) (s : State) : Host.Outcome State Fault Refusal :=
  s.lanes2 d a b p t (arith2 t (· * ·) FVal.mul)

/-- Clamp to w signed bits (R216). -/
def satW (w : Nat) (x : Int) : Int × W64 := satInt (-(2 ^ (w - 1) : Int)) (2 ^ (w - 1) - 1) x

/-- R216: exact before the clamp, which sets sat -/
def macLane (w x y z : Nat) : Nat × W64 :=
  let r := satW w (sx w z + sx w x * sx w y)
  (intBits w r.1, r.2)
def execVmac (d a b : VReg) (p : PReg) (t : LaneType) (s : State) : Host.Outcome State Fault Refusal :=
  s.lanes3 d a b p t (macLane t.width)

/-- R217: one rounding of the exact va × vb + vd -/
def fmaLane (t : LaneType) (x y z : Nat) : Nat × W64 :=
  let a := fpLane t x
  let b := fpLane t y
  let c := fpLane t z
  fpResult t [a, b, c] ((a.mul b).add c)
def execVfma (d a b : VReg) (p : PReg) (t : LaneType) (s : State) : Host.Outcome State Fault Refusal :=
  s.lanes3 d a b p t (fmaLane t)

/-- Whether lane x lies below lane y: signed, or floating with −0 below +0. -/
def laneLt (t : LaneType) (x y : Nat) : Bool :=
  if t.int then decide (sx t.width x < sx t.width y) else (fpLane t x).lt (fpLane t y)

/-- A floating lane is a NaN. -/
def laneNan (t : LaneType) (x : Nat) : Bool := !t.int && (fpLane t x).isNan

/-- One of two lanes; a NaN gives the canonical NaN without INV (R217). -/
def pickLane (t : LaneType) (second : Bool) (x y : Nat) : Nat :=
  if laneNan t x || laneNan t y then nanLane t
  else if second then y else x

/-- R216, R217 -/
def execVmin (d a b : VReg) (p : PReg) (t : LaneType) (s : State) : Host.Outcome State Fault Refusal :=
  s.lanes2 d a b p t (fun x y => (pickLane t (laneLt t y x) x y, 0))

/-- R216, R217 -/
def execVmax (d a b : VReg) (p : PReg) (t : LaneType) (s : State) : Host.Outcome State Fault Refusal :=
  s.lanes2 d a b p t (fun x y => (pickLane t (laneLt t x y) x y, 0))

/-- VABS of a lane (R216, R217): F8N 0x80 gives 0x01. -/
def absLane (t : LaneType) (x : Nat) : Nat :=
  if t.int then intBits t.width |sx t.width x|
  else if t = .f8 ∧ x = 0x80 then 1
  else x % 2 ^ (t.width - 1)
def execVabs (d a : VReg) (p : PReg) (t : LaneType) (s : State) : Host.Outcome State Fault Refusal :=
  s.lanes1 d a p t (fun x => (absLane t x, 0))

/-- VNEG of a lane (R216, R217): F8N 0x00 gives 0x00, 0x80 gives 0x01. -/
def negLane (t : LaneType) (x : Nat) : Nat :=
  if t.int then intBits t.width (-(sx t.width x))
  else if t = .f8 ∧ x = 0 then 0
  else if t = .f8 ∧ x = 0x80 then 1
  else (x + 2 ^ (t.width - 1)) % 2 ^ t.width
def execVneg (d a : VReg) (p : PReg) (t : LaneType) (s : State) : Host.Outcome State Fault Refusal :=
  s.lanes1 d a p t (fun x => (negLane t x, 0))

/-- R216: 0 when the count is w or more -/
def execVshl (d a b : VReg) (p : PReg) (t : LaneType) (s : State) : Host.Outcome State Fault Refusal :=
  s.lanes2 d a b p t (fun x c => (if t.width ≤ c then 0 else x * 2 ^ c % 2 ^ t.width, 0))

/-- R216 -/
def execVshr (d a b : VReg) (p : PReg) (t : LaneType) (s : State) : Host.Outcome State Fault Refusal :=
  s.lanes2 d a b p t (fun x c => (if t.width ≤ c then 0 else x / 2 ^ c, 0))

/-- R216: the count stops at w − 1 -/
def execVsar (d a b : VReg) (p : PReg) (t : LaneType) (s : State) : Host.Outcome State Fault Refusal :=
  s.lanes2 d a b p t (fun x c => (intBits t.width (sx t.width x / 2 ^ Nat.min c (t.width - 1)), 0))

/-- R216 -/
def execVand (d a b : VReg) (p : PReg) (t : LaneType) (s : State) : Host.Outcome State Fault Refusal :=
  s.lanes2 d a b p t (fun x y => (x &&& y, 0))

/-- R216 -/
def execVor (d a b : VReg) (p : PReg) (t : LaneType) (s : State) : Host.Outcome State Fault Refusal :=
  s.lanes2 d a b p t (fun x y => (x ||| y, 0))

/-- R216 -/
def execVxor (d a b : VReg) (p : PReg) (t : LaneType) (s : State) : Host.Outcome State Fault Refusal :=
  s.lanes2 d a b p t (fun x y => (x ^^^ y, 0))

/-! ## Moves and select (R214, R218) -/

/-- R214: the low w bits of ga into every active lane -/
def execVbcst (d : VReg) (a : GReg) (p : PReg) (t : LaneType) (s : State) : Host.Outcome State Fault Refusal :=
  s.vec [d] (fun st tile _ =>
    (s.modTeam tile (fun m => m.lanes d p t.width (fun _ => ((st.rd a).toNat % 2 ^ t.width, 0)))).retire st)

/-- R214 -/
def execVmov (d a : VReg) (p : PReg) (t : LaneType) (s : State) : Host.Outcome State Fault Refusal :=
  s.lanes1 d a p t (fun x => (x, 0))

/-- R218: every lane is written -/
def execVsel (d a b : VReg) (p : PReg) (t : LaneType) (s : State) : Host.Outcome State Fault Refusal :=
  s.vecTeam [d, a, b] (fun m => m.setV d (packLanes t.width ((List.range t.lanes).map (fun j =>
    if (m.pred p).getLsbD j then lane (m.vr a) t.width j else lane (m.vr b) t.width j))))

/-! ## Compare (R219) -/

/-- Trace payload of a predicate write (R311). -/
def predPayload (d : PReg) (v : PWord) : Nat :=
  d.toNat * 2 ^ 53 + (List.range 128).countP (fun i => v.getLsbD i) * 2 ^ 32 + v.toNat % 2 ^ 32

/-- Write a predicate and retire, traced. -/
def State.writePred (s : State) (st : Strand) (t : Nat) (d : PReg) (v : PWord) : State :=
  ((s.modTeam t (fun m => m.setP d v)).trace s.cur 2 (predPayload d v)).retire st

/-- A predicate from its bits. -/
def packBits (n : Nat) (f : Nat → Bool) : PWord :=
  BitVec.ofNat 128 ((List.range n).foldr (fun j a => (if f j then 2 ^ j else 0) + a) 0)

/-- A comparison (R219): inactive lanes and bits past L give 0. -/
def State.compare (s : State) (d : PReg) (a b : VReg) (p : PReg) (t : LaneType) (rel : Nat → Nat → Bool) :
    Host.Outcome State Fault Refusal :=
  s.vec [a, b] (fun st tile m => s.writePred st tile d (packBits t.lanes (fun j =>
    (m.pred p).getLsbD j && rel (lane (m.vr a) t.width j) (lane (m.vr b) t.width j))))

/-- Equality and order of two lanes, −0 equal to +0, false with a NaN (R219). -/
def eqLane (t : LaneType) (x y : Nat) : Bool := if t.int then x == y else (fpLane t x).eqNum (fpLane t y)
def ltLane (t : LaneType) (x y : Nat) : Bool :=
  if t.int then decide (sx t.width x < sx t.width y) else (fpLane t x).ltNum (fpLane t y)

/-- R219 -/
def execVcmpEq (d : PReg) (a b : VReg) (p : PReg) (t : LaneType) (s : State) : Host.Outcome State Fault Refusal :=
  s.compare d a b p t (eqLane t)

/-- R219: true with a NaN -/
def execVcmpNe (d : PReg) (a b : VReg) (p : PReg) (t : LaneType) (s : State) : Host.Outcome State Fault Refusal :=
  s.compare d a b p t (fun x y => !eqLane t x y)

/-- R219: signed on integer lanes -/
def execVcmpLt (d : PReg) (a b : VReg) (p : PReg) (t : LaneType) (s : State) : Host.Outcome State Fault Refusal :=
  s.compare d a b p t (ltLane t)

/-- R219: signed on integer lanes -/
def execVcmpLe (d : PReg) (a b : VReg) (p : PReg) (t : LaneType) (s : State) : Host.Outcome State Fault Refusal :=
  s.compare d a b p t (fun x y => ltLane t x y || eqLane t x y)

/-- R219: unsigned -/
def execVcmpLtu (d : PReg) (a b : VReg) (p : PReg) (t : LaneType) (s : State) : Host.Outcome State Fault Refusal :=
  s.compare d a b p t (fun x y => decide (x < y))

/-- R219: unsigned -/
def execVcmpLeu (d : PReg) (a b : VReg) (p : PReg) (t : LaneType) (s : State) : Host.Outcome State Fault Refusal :=
  s.compare d a b p t (fun x y => decide (x ≤ y))

/-! ## Reductions (R220, R221, R51) -/

/-- One halving step of a floating sum: lane j takes lane j + lane j + n/2, with flags. -/
def sumStep (t : LaneType) (l : List Nat × W64) : List Nat × W64 :=
  let h := l.1.length / 2
  let rs := ((l.1.take h).zip (l.1.drop h)).map (fun e => arith2 t (· + ·) FVal.add e.1 e.2)
  (rs.map (·.1), rs.foldl (fun a x => a ||| x.2) l.2)

/-- Halve until one lane remains. -/
def sumTree (fuel : Nat) (t : LaneType) (l : List Nat × W64) : List Nat × W64 :=
  match fuel with
  | 0 => l
  | fuel + 1 => if l.1.length ≤ 1 then l else sumTree fuel t (sumStep t l)

/-- VRSUM's result and flags (R220, R51). -/
def rsum (t : LaneType) (v : VWord) (p : PWord) : Nat × W64 :=
  let act := (List.range t.lanes).filter (fun j => p.getLsbD j)
  if t.int then
    let r := satInt (-(2 ^ 31 : Int)) (2 ^ 31 - 1) (act.foldl (fun a j => a + slane v t.width j) 0)
    (intBits 32 r.1, r.2)
  else if act.isEmpty then (0, 0)
  else
    let l := (List.range t.lanes).map (fun j => if p.getLsbD j then lane v t.width j else 2 ^ (t.width - 1))
    let r := sumTree 7 t (l, 0)
    (r.1.headD 0, r.2)

/-- R220: the low lane, or vd[31:0] on integer lanes; every other bit 0 -/
def execVrsum (d a : VReg) (p : PReg) (t : LaneType) (s : State) : Host.Outcome State Fault Refusal :=
  s.vecTeam [d, a] (fun m =>
    let r := rsum t (m.vr a) (m.pred p)
    (m.setV d (BitVec.ofNat 1024 r.1)).flag r.2)

/-- What a reduction over no lane gives (R221). -/
def rmaxNone (t : LaneType) (greatest : Bool) : Nat :=
  match t with
  | .b => if greatest then 0x80 else 0x7F
  | .h => if greatest then 0x8000 else 0x7FFF
  | .w => if greatest then 0x80000000 else 0x7FFFFFFF
  | .bf => if greatest then 0xFF80 else 0x7F80
  | .bfz => if greatest then 0xFF80 else 0x7F80
  | .f => if greatest then 0xFF800000 else 0x7F800000
  | .fz => if greatest then 0xFF800000 else 0x7F800000
  | .f8 => if greatest then 0xFE else 0x7E

/-- The greatest or least active lane; any NaN gives the canonical NaN (R221). -/
def rpick (t : LaneType) (greatest : Bool) (v : VWord) (p : PWord) : Nat :=
  let act := ((List.range t.lanes).filter (fun j => p.getLsbD j)).map (fun j => lane v t.width j)
  if act.any (laneNan t) then nanLane t
  else
    match act with
    | [] => rmaxNone t greatest
    | x :: l => l.foldl (fun a y => if greatest then (if laneLt t a y then y else a)
        else if laneLt t y a then y else a) x

/-- R221 -/
def execVrmax (d a : VReg) (p : PReg) (t : LaneType) (s : State) : Host.Outcome State Fault Refusal :=
  s.vecTeam [d, a] (fun m => m.setV d (BitVec.ofNat 1024 (rpick t true (m.vr a) (m.pred p))))

/-- R221 -/
def execVrmin (d a : VReg) (p : PReg) (t : LaneType) (s : State) : Host.Outcome State Fault Refusal :=
  s.vecTeam [d, a] (fun m => m.setV d (BitVec.ofNat 1024 (rpick t false (m.vr a) (m.pred p))))

/-! ## Approximations (R230) -/

/-- R230: the exact value rounded once; overflow of a finite value sets ovf -/
def execVexp2 (d a : VReg) (p : PReg) (t : LaneType) (s : State) : Host.Outcome State Fault Refusal :=
  s.lanes1 d a p t (fun x => fpResult t [fpLane t x] (fpLane t x).exp2)

/-- R230 -/
def execVrcp (d a : VReg) (p : PReg) (t : LaneType) (s : State) : Host.Outcome State Fault Refusal :=
  s.lanes1 d a p t (fun x => fpResult t [fpLane t x] (fpLane t x).rcp)

/-- R230 -/
def execVrsq (d a : VReg) (p : PReg) (t : LaneType) (s : State) : Host.Outcome State Fault Refusal :=
  s.lanes1 d a p t (fun x => fpResult t [fpLane t x] (fpLane t x).rsq)

/-! ## Trits and permutes (R231 to R233) -/

/-- Trits of byte i of a register, zeros with INV for an invalid code (R30, R231). -/
def tritLane (v : VWord) (j : Nat) : Nat × W64 :=
  if 125 ≤ j then (0, 0)
  else
    match t5Trits (BitVec.ofNat 8 (lane v 8 (j / 5))) with
    | some l => (intBits 8 (l.getD (j % 5) 0), 0)
    | none => (0, flInv)

/-- R231 -/
def execVtunp (d a : VReg) (p : PReg) (s : State) : Host.Outcome State Fault Refusal :=
  s.vecTeam [d, a] (fun m => m.lanes d p 8 (tritLane (m.vr a)))

/-- The trit that a lane packs to, with SAT when its magnitude exceeds 1 (R232). -/
def packTrit (v : VWord) (p : PWord) (j : Nat) : Int × W64 :=
  if p.getLsbD j && decide (j < 125) then
    let x := slane v 8 j
    (if 0 < x then 1 else if x < 0 then -1 else 0, if 1 < x.natAbs then flSat else 0)
  else (0, 0)

/-- R232: bytes 25 to 127 are 0 -/
def execVtpk (d a : VReg) (p : PReg) (s : State) : Host.Outcome State Fault Refusal :=
  s.vecTeam [d, a] (fun m =>
    let x (j : Nat) : Int × W64 := packTrit (m.vr a) (m.pred p) j
    let bytes := (List.range 25).map (fun i => (t5Byte ((List.range 5).map (fun k => (x (5 * i + k)).1))).toNat)
    (m.setV d (packLanes 8 bytes)).flag ((List.range 125).foldl (fun f j => f ||| (x j).2) 0))

/-- R233: 0 for an index of L or more -/
def execVperm (d a i : VReg) (p : PReg) (t : LaneType) (s : State) : Host.Outcome State Fault Refusal :=
  s.vecTeam [d, a, i] (fun m => m.lanes d p t.width (fun j =>
    let k := lane (m.vr i) t.width j
    (if k < t.lanes then lane (m.vr a) t.width k else 0, 0)))

/-- R233: lane j takes lane j + s(gn), 0 outside -/
def execVslid (d a : VReg) (b : GReg) (p : PReg) (t : LaneType) (s : State) : Host.Outcome State Fault Refusal :=
  s.vec [d, a] (fun st tile _ =>
    let n := (st.rd b).toInt
    (s.modTeam tile (fun m => m.lanes d p t.width (fun j =>
      let k := (j : Int) + n
      (if 0 ≤ k ∧ k < t.lanes then lane (m.vr a) t.width k.toNat else 0, 0)))).retire st)

end Sys2Proof.Machine
end

