-- ==== Sys2Proof/Machine/Pred.lean ====
section
/-! DEFINITION. Meanings of the predicate instructions (R234, R235). -/
namespace Sys2Proof.Machine

/-- A predicate result of the team. -/
def State.predOp (s : State) (d : PReg) (f : Strand → Team → PWord) : Host.Outcome State Fault Refusal :=
  s.vec [] (fun st t m => s.writePred st t d (f st m))

/-- R234 -/
def execPand (d a b : PReg) (s : State) : Host.Outcome State Fault Refusal :=
  s.predOp d (fun _ m => m.pred a &&& m.pred b)

/-- R234 -/
def execPor (d a b : PReg) (s : State) : Host.Outcome State Fault Refusal :=
  s.predOp d (fun _ m => m.pred a ||| m.pred b)

/-- R234 -/
def execPnot (d a : PReg) (s : State) : Host.Outcome State Fault Refusal :=
  s.predOp d (fun _ m => ~~~(m.pred a))

/-- R234: the set bits below L -/
def execPcnt (d : GReg) (a : PReg) (t : LaneType) (s : State) : Host.Outcome State Fault Refusal :=
  s.vec [] (fun st _ m =>
    s.retire (st.wr d (BitVec.ofNat 64 ((List.range t.lanes).countP (fun j => (m.pred a).getLsbD j)))))

/-- Bits of PSET by mode (R235); the encoding admits only the three modes. -/
def psetBits (m : LaneType) (v : W64) (j : Nat) : Bool :=
  match m with
  | .b => decide (j < v.toNat)
  | .h => v.getLsbD j
  | _ => v.getLsbD (j / 16)

/-- R235 -/
def execPset (d : PReg) (a : GReg) (m : LaneType) (s : State) : Host.Outcome State Fault Refusal :=
  s.predOp d (fun st _ => packBits 128 (psetBits m (st.rd a)))

end Sys2Proof.Machine
end

