-- ==== Sys2Proof/Machine/Dense.lean ====
section
/-! DEFINITION. Meanings of the dense-matrix and accumulator instructions (R210, R236 to R240). -/
namespace Sys2Proof.Machine

/-- Element e of an accumulator (R236). -/
def Team.acGet (m : Team) (n e : Nat) : W32 := m.ac.get 0 (512 * n + e)

/-- Replace an accumulator. -/
def Team.acSet (m : Team) (n : Nat) (f : Nat → W32) : Team :=
  let mid : Table W32 := ((List.range 512).map (fun e => (512 * n + e, f e))).filter (fun x => x.2 != 0)
  { m with ac := m.ac.filter (fun e => decide (e.1 < 512 * n)) ++ mid ++
      m.ac.filter (fun e => decide (512 * n + 512 ≤ e.1)) }

/-- An accepted forme operation of the team whose destination is the accumulator (R210). -/
def EngOp.acDest (o : EngOp) (n : Nat) : Bool :=
  match o.op with
  | .fmm b _ _ _ => b.out == 0 && b.acc == n
  | _ => false

/-- The accumulators await the exchange, or an accepted forme operation that writes this one (R210, R332). -/
def Tile.acBusy (w : Tile) (m : Team) (n : Nat) : Bool :=
  m.noExchange || w.forme.accepted.any (fun o => o.acDest n && m.is o.asid o.ident o.block) ||
    w.forme.done.any (fun o => o.ac == some n && m.is o.asid o.ident o.block)

/-- An instruction that names an accumulator. -/
def State.acc (s : State) (regs : List VReg) (c : AcReg) (f : Strand → Team → Team) :
    Host.Outcome State Fault Refusal :=
  s.vec regs (fun st t m =>
    if (s.tile t).acBusy m c.toNat then s.holdCur st .exchange else (s.modTeam t (f st)).retire st)

/-- A[i][k] and B[k][j] of R237. -/
def denseA (va : VWord) (i k : Nat) : Nat := lane va 8 (16 * k + i)
def denseB (v0 v1 : VWord) (k j : Nat) : Nat := if j < 16 then lane v0 8 (16 * k + j) else lane v1 8 (16 * k + j - 16)

/-- An exact sum of zero counts as +0 (R50). -/
def FVal.plusZero (x : FVal) : FVal :=
  match x with
  | .fin _ 0 _ => .fin false 0 1
  | x => x

/-- One element of DMM: its new value, its flags, whether it clamped (R237). -/
def dmmElem (t : LaneType) (va v0 v1 : VWord) (old : W32) (e : Nat) : W32 × W64 :=
  let i := e / 32
  let j := e % 32
  if t.int then
    let sum := (List.range 8).foldl (fun (a : Int) k => a + sx 8 (denseA va i k) * sx 8 (denseB v0 v1 k j)) 0
    let r := satInt (-(2 ^ 31 : Int)) (2 ^ 31 - 1) (old.toInt + sum)
    (BitVec.ofInt 32 r.1, r.2)
  else
    let sum := (List.range 8).foldl (fun (a : FVal) k =>
      a.add (FVal.mul (FVal.ofF8 (BitVec.ofNat 8 (denseA va i k))) (FVal.ofF8 (BitVec.ofNat 8 (denseB v0 v1 k j)))))
      (FVal.ofInt 0)
    let a := FVal.ofF32 old
    let x := a.add sum.plusZero
    let r := x.toF32
    (r.1, r.2 ||| invOf [a, sum] x)

/-- DMM and DMMB (R237, R238): columns whose bit is 0 are not rewritten. -/
def Team.dense (m : Team) (c : AcReg) (a : VReg) (b : BitVec 4) (cols : PWord) (t : LaneType) : Team :=
  let v0 := m.v.toList.getD (2 * b.toNat) 0
  let v1 := m.v.toList.getD (2 * b.toNat + 1) 0
  let va := m.vr a
  let n := c.toNat
  let r (e : Nat) : W32 × W64 :=
    if cols.getLsbD (e % 32) then dmmElem t va v0 v1 (m.acGet n e) e else (m.acGet n e, 0)
  let fl := (List.range 512).foldl (fun (f : W64) e => f ||| (r e).2) 0
  let fl := if fl &&& flSat = flSat then fl ||| acsatBit n else fl
  (m.acSet n (fun e => (r e).1)).flag fl

/-- Registers that DMM reads. -/
def denseRegs (a : VReg) (b : BitVec 4) : List VReg :=
  [a, BitVec.ofNat 5 (2 * b.toNat), BitVec.ofNat 5 (2 * b.toNat + 1)]

/-- R237 -/
def execDmm (c : AcReg) (a : VReg) (b : BitVec 4) (t : LaneType) (s : State) : Host.Outcome State Fault Refusal :=
  s.acc (denseRegs a b) c (fun _ m => m.dense c a b (BitVec.allOnes 128) t)

/-- R238 -/
def execDmmb (c : AcReg) (a : VReg) (b : BitVec 4) (p : PReg) (t : LaneType) (s : State) :
    Host.Outcome State Fault Refusal :=
  s.acc (denseRegs a b) c (fun _ m => m.dense c a b (m.pred p) t)

/-- R240 -/
def execAclr (c : AcReg) (s : State) : Host.Outcome State Fault Refusal :=
  s.acc [] c (fun _ m => (m.acSet c.toNat (fun _ => 0)).clearAcsat c.toNat)

/-- Elements of a row (R240). -/
def acRow (g : W64) (j : Nat) : Nat := 32 * (g.toNat % 16) + j

/-- R240: the type labels the lanes only -/
def execAcrd (d : VReg) (c : AcReg) (g : GReg) (_t : LaneType) (s : State) : Host.Outcome State Fault Refusal :=
  s.acc [d] c (fun st m =>
    m.setV d (packLanes 32 ((List.range 32).map (fun j => (m.acGet c.toNat (acRow (st.rd g) j)).toNat))))

/-- R240 -/
def execAcwr (c : AcReg) (a : VReg) (g : GReg) (_t : LaneType) (s : State) : Host.Outcome State Fault Refusal :=
  s.acc [a] c (fun st m =>
    ({ m with ac := (List.range 32).foldl (fun (t : Table W32) j =>
        t.put 0 (512 * c.toNat + acRow (st.rd g) j) (BitVec.ofNat 32 (lane (m.vr a) 32 j))) m.ac }).clearAcsat c.toNat)

end Sys2Proof.Machine
end

