-- ==== Sys2Proof/Machine/EditionOps.lean ====
section
/-! DEFINITION. Meanings of LAUNCH, NEXT, ESTAT and CANCEL at the issuing tile (R184 to R193): the local checks
and the request to the root imposer. -/
namespace Sys2Proof.Machine

/-- A doubleword of some bytes. -/
def dwordAt (bs : List Byte) (off : Nat) : Nat := leNat ((bs.drop off).take 8)

/-- The descriptor's fields (R186). -/
def parseDesc (bs : List Byte) : Desc where
  pc := BitVec.ofNat 64 (dwordAt bs 0)
  arg := BitVec.ofNat 64 (dwordAt bs 8)
  x := field (dwordAt bs 0x10) 20 0
  y := field (dwordAt bs 0x10) 41 21
  z := field (dwordAt bs 0x10) 62 42
  deadline := field (dwordAt bs 0x18) 63 32
  ranges := field (dwordAt bs 0x18) 20 16
  gang := (dwordAt bs 0x18).testBit 11
  after := (dwordAt bs 0x18).testBit 10
  policy := BitVec.ofNat 2 (field (dwordAt bs 0x18) 9 8)
  steal := BitVec.ofNat 2 (field (dwordAt bs 0x18) 7 6)
  cls := BitVec.ofNat 2 (field (dwordAt bs 0x18) 5 4)
  n := field (dwordAt bs 0x18) 3 0
  tag := field (dwordAt bs 0x20) 47 32
  grant := field (dwordAt bs 0x20) 20 0
  work := field (dwordAt bs 0x28) 63 32
  chases := BitVec.ofNat 32 (field (dwordAt bs 0x28) 31 0)
  word := BitVec.ofNat 64 (dwordAt bs 0x30)
  list := BitVec.ofNat 64 (dwordAt bs 0x38)

/-- The reserved fields of a descriptor are 0 (R186). -/
def descReserved (bs : List Byte) : Bool :=
  field (dwordAt bs 0x10) 63 63 == 0 && field (dwordAt bs 0x18) 31 21 == 0 &&
    field (dwordAt bs 0x18) 15 12 == 0 && field (dwordAt bs 0x20) 63 48 == 0 &&
    field (dwordAt bs 0x20) 31 21 == 0 && (bs.drop 0x40).all (· == 0)

/-- An extent is 1 to 2^20. -/
def extentOk (n : Nat) : Bool := decide (1 ≤ n) && decide (n ≤ 2 ^ 20)

/-- The checks of the issuing tile (R187). -/
def descOk (bs : List Byte) : Bool :=
  let d := parseDesc bs
  descReserved bs && decide (1 ≤ d.n) && decide (d.n ≤ 8) && extentOk d.x && extentOk d.y && extentOk d.z &&
    decide (d.x * d.y * d.z ≤ 2 ^ 40) && decide (d.grant ≤ spadSize) && d.grant % 64 == 0 &&
    d.steal != 3 && d.policy != 3 && decide (d.ranges ≤ 16) &&
    decide (d.pc.toNat < 2 ^ 56) && d.pc.toNat % 4 == 0 && decide (d.word.toNat < 2 ^ 56) && d.word.toNat % 8 == 0

/-- Hand a request to the context's root imposer (R319): requests of a tile arrive in issue order. -/
def State.request (s : State) (a : Nat) (q : Req) (e : Instr) : State :=
  (s.modRoot a (fun x => { x with reqs := x.reqs ++ [q] })).post e { asid := a }

/-- The root serves requests: no change of root waits and none is lost (R319, R320). -/
def Root.open (r : Root) : Bool := r.newPkg.isNone && !r.held

/-- The step that serves a request. -/
def Req.service : Req → Instr
  | .launch _ _ _ _ _ => .launchAccept
  | .next _ _ _ _ _ _ => .nextService
  | .estat _ _ _ _ _ _ => .estatSnapshot
  | .cancel _ _ _ _ _ => .cancelService

/-- Requests that were held are served in their order (R319). -/
def State.serveHeld (s : State) (a : Nat) : State :=
  (s.root a).reqs.foldl (fun (s : State) q => s.post q.service { asid := a }) s

/-- A waiting change of root takes effect when no edition lives and nothing is in flight (R319). -/
def State.rootSettle (s : State) (a : Nat) : State :=
  let r := s.root a
  if r.editions.any (fun e => e.state != .complete) || s.answers.any (fun x => x.asid == a) then s
  else
    match r.newPkg with
    | none => s
    | some p => (s.setRoot a { r with pkg := p, newPkg := none }).serveHeld a

/-- A context entry names its root package: at its first load the numbers start at 1 (R321); a change waits
(R319), and a root loaded after a loss serves what was held (R320). -/
def State.loadRoot (s : State) (a p : Nat) : State :=
  let r := s.root a
  if r.seq = 0 then s.setRoot a { r with seq := 1, pkg := p, held := false }
  else if r.pkg = p ∧ r.held = false then
    (s.setRoot a { r with newPkg := none }).serveHeld a
  else (s.setRoot a { r with newPkg := some p, held := false }).rootSettle a

/-- R185: release, descriptor, checks, and the launch to the root. -/
def execLaunch (a : GReg) (t : TokReg) (s : State) : Host.Outcome State Fault Refusal :=
  s.withCur (fun st => s.userOnly st (fun tile =>
    let ea := st.rd a
    (s.checked st ea 128 64).andThen (fun s x =>
      (s.tokenFree st t).andThen (fun s _ =>
        (s.release st).andThen (fun s _ =>
          match s.takeData st.uid with
          | some (s, bs) => .go s bs
          | none => s.readData st ea 128 .relaxed x (.again 128) .addressFault)))
    |>.finish (fun s bs =>
      if descOk bs = false then s.raise st fcDescriptor ea
      else
        let own := s.owner s.cur st
        let (s, st) := s.tokenPend st t (some st.uid)
        (s.retire st).request st.asid (.launch tile st.uid own t (parseDesc bs)) .launchAccept)))

/-- A destination of NEXT or ESTAT: the current tile's scratchpad, within the grant, aligned (R190, R191). -/
def State.localDest (s : State) (st : Strand) (tile : Nat) (ea : W64) (n align : Nat) : Got Nat :=
  match s.ownSpad tile st.asid ea n align with
  | .error c => .stop (s.raise st c ea)
  | .ok off => .go s off

/-- R190: the next work index of the strand's edition, all ones at once without one. -/
def execNext (a : GReg) (t : TokReg) (s : State) : Host.Outcome State Fault Refusal :=
  s.withCur (fun st => s.userOnly st (fun tile =>
    (s.localDest st tile (st.rd a) 4 4).andThen (fun s off =>
      (s.tokenFree st t).andThen (fun s _ => .go s off))
    |>.finish (fun s off =>
      let own := s.owner s.cur st
      let dst := tileSpace tile off
      let p : Point := ⟨st.uid, s.fresh⟩
      let (s, st) := s.tokenPend st t none
      let s := s.retire st
      match st.edition with
      | some i => s.request st.asid (.next tile own t p i dst) .nextService
      | none =>
        let x : ImpAnswer := ⟨s.fresh, tile, own, st.asid, t, some dst, leBytes 4 0xFFFFFFFF, none, some p, none⟩
        { s with fresh := s.fresh + 1, answers := s.answers ++ [x] }.post .imposerAnswer { n := x.n })))

/-- R191: a status record of the edition ga to the scratchpad at gb. -/
def execEstat (a b : GReg) (t : TokReg) (s : State) : Host.Outcome State Fault Refusal :=
  s.withCur (fun st => s.userOnly st (fun tile =>
    (s.localDest st tile (st.rd b) 768 64).andThen (fun s off =>
      (s.tokenFree st t).andThen (fun s _ => .go s off))
    |>.finish (fun s off =>
      let own := s.owner s.cur st
      let ident := st.rd a
      let p : Point := ⟨st.uid, s.fresh⟩
      let (s, st) := s.tokenPend st t none
      (s.retire st).request st.asid (.estat tile own t p ident (tileSpace tile off)) .estatSnapshot)))

/-- R193: ends the edition ga, with .kill also its started blocks. -/
def execCancel (a : GReg) (kill : Bool) (t : TokReg) (s : State) : Host.Outcome State Fault Refusal :=
  s.withCur (fun st => s.userOnly st (fun tile =>
    (s.tokenFree st t).finish (fun s _ =>
      let own := s.owner s.cur st
      let ident := st.rd a
      let (s, st) := s.tokenPend st t none
      (s.retire st).request st.asid (.cancel tile own t ident kill) .cancelService)))

end Sys2Proof.Machine
end

