-- ==== Sys2Proof/Machine/VecMem.lean ====
section
/-! DEFINITION. Meanings of the vector memory instructions and VXCH (R211 to R213, R215). -/
namespace Sys2Proof.Machine

/-- Lanes of an instruction that are active, lowest first (R207). -/
def activeLanes (t : LaneType) (p : PWord) : List Nat := (List.range t.lanes).filter (fun j => p.getLsbD j)

/-- Rank of a fault among those of order 6 and 7 (R127, R211). -/
def faultRank (c : Byte) : Nat :=
  if c = fcAddress then 0 else if c = fcContext then 1 else if c = fcBounds then 2 else 3

/-- The check of one element: its offset, or its fault (R211). -/
def State.element (s : State) (t asid : Nat) (size : Nat) (badPitch : Bool) (ea : W64) : Except Byte Nat :=
  match s.ownSpad t asid ea size size with
  | .error c => .error c
  | .ok off => if badPitch then .error fcMisalign else .ok off

/-- The first-ranked fault of any lane, with the address of the lowest lane that has it (R211). -/
def firstFault (l : List (W64 × Except Byte Nat)) : Option (Byte × W64) :=
  l.foldl (fun (a : Option (Byte × W64)) e =>
    match e.2, a with
    | .ok _, a => a
    | .error c, none => some (c, e.1)
    | .error c, some b => if faultRank c < faultRank b.1 then some (c, e.1) else some b) none

/-- Elements of the active lanes, with their addresses and offsets, or the fault of R211; with no active lane a bad pitch is no
fault (DESIGN CHOICE, log entry 62). -/
def State.elements (s : State) (st : Strand) (tile : Nat) (m : Team) (t : LaneType) (p : PReg) (badPitch : Bool)
    (addr : Nat → W64) : Got (List (Nat × W64 × Nat)) :=
  let lanes := activeLanes t (m.pred p)
  let chk (j : Nat) : Except Byte Nat := s.element tile st.asid t.size badPitch (addr j)
  match firstFault (lanes.map (fun j => (addr j, chk j))) with
  | some (c, a) => .stop (s.raise st c a)
  | none => .go s (lanes.filterMap (fun j => match chk j with
    | .ok off => some (j, addr j, off)
    | .error _ => none))

/-- Trace the lowest active element (R311). -/
def State.traceElem (s : State) (t kind : Nat) (l : List (Nat × W64 × Nat)) : State :=
  match l with
  | [] => s
  | (_, a, off) :: _ => s.trace s.cur kind (tracePayload a (.own off) t)

/-- Read each element as a relaxed load; one that must wait or traps ends the instruction (R212). -/
def State.readElems (s : State) (st : Strand) (n : Nat) (l : List (Nat × W64 × Nat)) : Got (List (Nat × Nat)) :=
  match l with
  | [] => .go s []
  | (j, a, off) :: r => (s.readOwn st a off n).andThen (fun s bs =>
      (State.readElems s st n r).andThen (fun s l => .go s ((j, leNat bs) :: l)))

/-- A vector load (R213): strides and pitches must be multiples of s. -/
def State.vecLoad (s : State) (d : VReg) (regs : List VReg) (p : PReg) (t : LaneType) (pitch : Strand → W64)
    (addr : Strand → Team → Nat → W64) : Host.Outcome State Fault Refusal :=
  s.vec (d :: regs) (fun st tile m =>
    (s.elements st tile m t p ((pitch st).toNat % t.size != 0) (addr st m)).andThen (fun s l =>
      (s.readElems st t.size l).andThen (fun s vals => .go s (l, vals)))
    |>.finish (fun s x =>
      let val (j : Nat) : Nat := ((x.2.find? (fun e => e.1 == j)).map (·.2)).getD 0
      ((s.modTeam tile (fun m => m.lanes d p t.width (fun j => (val j, 0)))).traceElem tile 3 x.1).retire st))

/-- One element of a vector store: a relaxed store of its own (R212), in the side log behind the strand's
entries there (R97). -/
def State.storeElem (s : State) (st : Strand) (tile : Nat) (side : Bool) (off : Nat) (bs : List Byte) : State :=
  if side then (s.sidePush tile st (tileSpace tile off) bs .store .relaxed false).1
  else (s.buffer tile st (tileSpace tile off) [(.spad tile off, bs.length)] bs .store .relaxed false).1

/-- A vector store (R213), lanes in rising order (R212). -/
def State.vecStore (s : State) (v : VReg) (regs : List VReg) (p : PReg) (t : LaneType) (pitch : Strand → W64)
    (addr : Strand → Team → Nat → W64) : Host.Outcome State Fault Refusal :=
  s.vec (v :: regs) (fun st tile m =>
    (s.elements st tile m t p ((pitch st).toNat % t.size != 0) (addr st m)).finish (fun s l =>
      let side := (s.tile tile).side.any (fun e => e.uid == st.uid)
      if side && decide (64 < (s.tile tile).side.length + l.length) && !l.isEmpty then s.holdCur st .logFull
      else
        let s := l.foldl (fun (s : State) e =>
          s.storeElem st tile side e.2.2 (leBytes t.size (lane (m.vr v) t.width e.1))) s
        (s.traceElem tile 4 l).retire st))

/-- Addresses of lane j: in a row, with a stride, by index, transposing (R213). -/
def rowAddr (t : LaneType) (base : W64) (j : Nat) : W64 := base + BitVec.ofNat 64 (t.size * j)
def strideAddr (base stride : W64) (j : Nat) : W64 := base + BitVec.ofNat 64 j * stride
def indexAddr (t : LaneType) (base : W64) (idx : VWord) (j : Nat) : W64 :=
  base + BitVec.ofNat 64 (t.size * lane idx t.width j)
def transAddr (t : LaneType) (base pitch : W64) (j : Nat) : W64 :=
  base + BitVec.ofNat 64 (j % 16) * pitch + BitVec.ofNat 64 (j / 16 * t.size)

/-- R213 -/
def execVld (d : VReg) (a : GReg) (p : PReg) (t : LaneType) (s : State) : Host.Outcome State Fault Refusal :=
  s.vecLoad d [] p t (fun _ => 0) (fun st _ => rowAddr t (st.rd a))

/-- R213 -/
def execVst (v : VReg) (a : GReg) (p : PReg) (t : LaneType) (s : State) : Host.Outcome State Fault Refusal :=
  s.vecStore v [] p t (fun _ => 0) (fun st _ => rowAddr t (st.rd a))

/-- R213 -/
def execVlds (d : VReg) (a b : GReg) (p : PReg) (t : LaneType) (s : State) : Host.Outcome State Fault Refusal :=
  s.vecLoad d [] p t (·.rd b) (fun st _ => strideAddr (st.rd a) (st.rd b))

/-- R213 -/
def execVsts (v : VReg) (a b : GReg) (p : PReg) (t : LaneType) (s : State) : Host.Outcome State Fault Refusal :=
  s.vecStore v [] p t (·.rd b) (fun st _ => strideAddr (st.rd a) (st.rd b))

/-- R213 -/
def execVgth (d : VReg) (a : GReg) (i : VReg) (p : PReg) (t : LaneType) (s : State) :
    Host.Outcome State Fault Refusal :=
  s.vecLoad d [i] p t (fun _ => 0) (fun st m => indexAddr t (st.rd a) (m.vr i))

/-- R213 -/
def execVsct (v : VReg) (a : GReg) (i : VReg) (p : PReg) (t : LaneType) (s : State) :
    Host.Outcome State Fault Refusal :=
  s.vecStore v [i] p t (fun _ => 0) (fun st m => indexAddr t (st.rd a) (m.vr i))

/-- R213: the transposing load -/
def execVldt (d : VReg) (a b : GReg) (p : PReg) (t : LaneType) (s : State) : Host.Outcome State Fault Refusal :=
  s.vecLoad d [] p t (·.rd b) (fun st _ => transAddr t (st.rd a) (st.rd b))

/-! ## VXCH (R215) -/

/-- The mirror tile: p.d.x.y of p.d.y.x. -/
def mirror (t : Nat) : Nat := t / 256 * 256 + t % 16 * 16 + t / 16 % 16

/-- A tile holds a block of an edition: its team is resident there or swapped out from it. -/
def Tile.holdsBlock (w : Tile) (a i : Nat) : Bool :=
  (w.team.map (fun m => m.asid == a && m.ident == i)).getD false ||
    w.swapped.any (fun x => x.team.asid == a && x.team.ident == i)

/-- A block of the edition is on the tile or on its way there. -/
def State.hasBlock (s : State) (t a i : Nat) : Bool :=
  (s.tile t).holdsBlock a i ||
    ((s.edition a i).map (fun e => (e.dealt ++ e.gangTiles).any (fun b => b.tile == t))).getD false

/-- R215: at once on the diagonal, else held for the mirror's team, to which its bits travel as a remote access does (R244; DESIGN
CHOICE, log entry 11); the exchange fault without one. -/
def execVxch (d a : VReg) (p : PReg) (t : LaneType) (s : State) : Host.Outcome State Fault Refusal :=
  s.vec [d, a] (fun st tile m =>
    if mirror tile = tile then
      (s.modTeam tile (fun m => { m.lanes d p t.width (fun j => (lane (m.vr a) t.width j, 0)) with vxch := m.vxch + 1 })).retire
        st
    else if s.hasBlock (mirror tile) m.asid m.ident = false then s.raise st fcExchange 0
    else
      let n := meshDelay tile (mirror tile)
      let e : Exch := ⟨s.cur.slot, d, m.vr a, m.pred p, t.width, s.clk + n⟩
      ((s.modTeam tile (fun m => { m with exch := m.exch ++ [e] })).holdCur st .vxch).later n .vxchExchange
        { tile := tile })

end Sys2Proof.Machine
end

