-- ==== Sys2Proof/Machine/Kill.lean ====
section
/-! DEFINITION. Blocks and editions that end: ranges of undealt indices (R324), the report of an edition (R326,
R327), killing (R193, R309), and the completion of a block (R57, R181, R286). -/
namespace Sys2Proof.Machine

/-! ## Ranges of indices (R324) -/

/-- Blocks in some ranges (first, count). -/
def rangesCount (l : List (Nat × Nat)) : Nat := l.foldl (fun a r => a + r.2) 0

/-- Blocks of an edition (R58). -/
def Desc.total (d : Desc) : Nat := d.x * d.y * d.z

/-- Undealt blocks at a package and its dies. -/
def Edition.undealtAt (e : Edition) (p : Nat) : Nat :=
  rangesCount (e.atPkg.get [] p) +
    (List.range 4).foldl (fun a i => a + rangesCount (e.atDie.get [] (4 * p + i))) 0

/-- Undealt blocks anywhere. -/
def Edition.undealt (e : Edition) : Nat :=
  rangesCount e.atRoot + e.atPkg.foldl (fun a x => a + rangesCount x.2) 0 +
    e.atDie.foldl (fun a x => a + rangesCount x.2) 0

/-- A fault packet's 128 bytes (R305). -/
def FaultPkt.bytes (p : FaultPkt) : List Byte :=
  leBytes 8 (p.code.toNat * 2 ^ 56 + p.slot % 16 * 2 ^ 52 + p.kind.toNat * 2 ^ 50 + p.tokens.toNat * 2 ^ 40
    + p.cause.toNat * 2 ^ 32 + p.gen.toNat * 2 ^ 24 + p.tile % 2 ^ 19) ++
  leBytes 8 p.pc.toNat ++ leBytes 8 (p.word2.toNat * 2 ^ 32 + p.word.toNat) ++ leBytes 8 p.addr.toNat ++
  leBytes 8 (p.asid * 2 ^ 40 + p.block.getD (2 ^ 40 - 1)) ++ leBytes 8 (p.edition.getD 0xFFFFFF) ++
  leBytes 8 p.time.toNat ++ leBytes 8 0 ++ p.errs.toList.flatMap (fun e => leBytes 8 e.toNat)

/-! ## The end of an edition (R326) -/

/-- Packages whose reports the root waits for: those that received a folio, and those that counted something. -/
def Edition.reporters (e : Edition) : List Nat := (e.folios ++ e.reports.map (·.1)).dedup

/-- Every index is complete, dropped or killed (R326). -/
def Edition.over (e : Edition) : Bool :=
  e.undealt == 0 && e.dealt.isEmpty && e.done + e.dropped + e.killed == e.desc.total

/-- A package has had its last completion: nothing is left to deal to it, and nothing dealt there goes on (R327). -/
def Edition.quietAt (e : Edition) (p : Nat) : Bool :=
  e.atRoot.isEmpty && e.undealtAt p == 0 && e.dealt.all (fun x => x.tile / 1024 != p)

/-- Packages whose last completion has come send their reports (R327); when everything is reported, the root looks whether
the edition ends (R326). -/
def State.settleEdition (s : State) (a ident : Nat) : State :=
  match s.edition a ident with
  | none => s
  | some e =>
    if e.state = .complete then s
    else
      let due := e.reporters.filter (fun p => e.quietAt p && !e.reported.contains p)
      let l := if due.isEmpty && e.over then [(s.root a).pkg] else due
      l.foldl (fun (s : State) p => s.post .packageReport { asid := a, ident := ident, pkg := p }) s

/-! ## Killing (R193) -/

/-- A strand of a block, anchored or descended from it. -/
def Strand.ofBlock (st : Strand) (a i b : Nat) : Bool :=
  st.asid == a && st.edition == some i && st.block == some b

/-- Strands that meet a condition are gone, wherever they are. -/
def State.removeStrands (s : State) (p : Strand → Bool) : State :=
  let keep (e : Nat × Strand) : Bool := !p e.2
  { s with
    tiles := s.tiles.map (fun (e : Nat × Tile) => (e.1, { e.2 with
      strands := e.2.strands.filter keep
      waiting := e.2.waiting.filter (fun x => !p x)
      deque := e.2.deque.filter (fun x => !p x)
      swapped := e.2.swapped.map (fun x => { x with strands := x.strands.filter keep }) }))
    transit := s.transit.filter (fun x => !p x.strand)
    actives := s.actives.filter (fun x => !p x.strand) }

/-- Tiles on which a light slot or the deque holds such a strand. -/
def State.lightTiles (s : State) (p : Strand → Bool) : List Nat :=
  (s.tiles.filter (fun (e : Nat × Tile) =>
    e.2.strands.any (fun x => decide (8 ≤ x.1) && p x.2) || e.2.deque.any p)).map (·.1)

/-- Remove strands, let their light slots be taken and what then stands first on their deques be stolen (R62); room on a deque
lets a held FORK issue again (R63). -/
def State.dropStrands (s : State) (p : Strand → Bool) : State :=
  let l := s.lightTiles p
  let spilled := s.tiles.any (fun (e : Nat × Tile) => e.2.deque.any p)
  let s := l.foldl (fun (s : State) t => s.offer t) (s.removeStrands p)
  if spilled then s.wakeAll (fun _ _ h => h == .spillFull) else s

/-- Change the team of a block, resident or away. -/
def State.modBlockTeam (s : State) (t a i b : Nat) (f : Team → Team) : State :=
  s.modTile t (fun w => { w with
    team := w.team.map (fun m => if m.is a i b then f m else m)
    swapped := w.swapped.map (fun x => if x.team.is a i b then { x with team := f x.team } else x) })

/-- The team of a block, resident or away. -/
def Tile.blockTeam (w : Tile) (a i b : Nat) : Option Team :=
  match w.team.filter (fun m => m.is a i b) with
  | some m => some m
  | none => (w.swapped.find? (fun x => x.team.is a i b)).map (·.team)

/-- A dealt block that has not completed is killed: its strands stop at once, engine operations and side-log
entries go on (R193); one that is not placed yet never starts. A second kill has no effect (R309). -/
def State.killBlock (s : State) (a i b : Nat) : State :=
  match (s.edition a i).bind (fun e => e.dealt.find? (fun x => x.idx == b)) with
  | none => s
  | some x =>
    let w := s.tile x.tile
    match w.blockTeam a i b with
    | none =>
      let s := s.modTile x.tile (fun w => { w with dispatch := w.dispatch.filter (fun y => y != ⟨a, i, b⟩) })
      let s := s.modEdition a i (fun e => { e with
        dealt := e.dealt.filter (fun y => y.idx != b)
        gangTiles := e.gangTiles.filter (fun y => y.idx != b) })
      (s.post .completionReport { asid := a, ident := i, pkg := x.tile / 1024, n := b, flag := true }).post
        .blockDeal { die := x.tile / 256 }
    | some m =>
      if m.killed then s
      else
        let s := s.modBlockTeam x.tile a i b (fun m => { m with killed := true, exch := [], bart := [] })
        let s := (s.dropStrands (fun st => st.ofBlock a i b)).barwTile x.tile
        s.post .blockComplete { tile := x.tile, asid := a, ident := i, n := b }

/-- Stores and side-log entries of an edition whose strands are gone: a killed block keeps its effects (R193,
R350). -/
def State.orphans (s : State) (a i : Nat) : Bool :=
  let gone (uid : Nat) : Bool := !s.anyStrand (fun st => st.uid == uid)
  s.tiles.any (fun (e : Nat × Tile) =>
    e.2.side.any (fun x => x.asid == a && x.edition == some i && gone x.uid) ||
    e.2.sb.any (fun x => x.asid == a && x.edition == some i && gone x.uid))

/-- Undealt blocks at the root are dropped, and it deals no more (R328). -/
def Edition.stopRoot (e : Edition) : Edition :=
  { e with state := .cancelling, dropped := e.dropped + rangesCount e.atRoot, atRoot := [] }

/-- Undealt blocks at a package and its dies are dropped (R328). -/
def Edition.stopPkg (e : Edition) (p : Nat) : Edition :=
  { e with
    dropped := e.dropped + e.undealtAt p
    atPkg := e.atPkg.del p
    atDie := e.atDie.filter (fun x => x.1 / 4 != p) }

/-- The cancellation is served at the root and broadcast (R328). -/
def State.cancelEdition (s : State) (a i : Nat) (kill : Bool) : State :=
  match s.edition a i with
  | none => s
  | some e =>
    if e.state = .complete then s
    else
      let s := s.modEdition a i (fun e => { e.stopRoot with kill := e.kill || kill })
      let l := (e.arrived ++ e.folios).dedup
      let s := l.foldl (fun (s : State) p =>
        s.post .cancelBroadcast { asid := a, ident := i, pkg := p, flag := kill }) s
      s.settleEdition a i

/-! ## Completion of a block (R57) -/

/-- Whether a block is complete: no strand of it, no engine operation of its team, and, once killed, no store
left to register or replay. -/
def State.blockDone (s : State) (t a i b : Nat) : Bool :=
  match (s.tile t).blockTeam a i b with
  | none => false
  | some m =>
    !s.anyStrand (fun st => st.ofBlock a i b) && !(s.tile t).teamOps a i b && !(m.killed && s.orphans a i)

/-- The block leaves its tile, its edition's dealt blocks and its wire instances (R286). -/
def State.releaseBlock (s : State) (t a i b : Nat) : State :=
  let s := s.modTile t (fun w => { w with
    team := w.team.filter (fun m => !m.is a i b)
    swapped := w.swapped.filter (fun x => !x.team.is a i b) })
  let s := s.modEdition a i (fun e => { e with
    dealt := e.dealt.filter (fun y => y.idx != b)
    gangTiles := e.gangTiles.filter (fun y => y.idx != b) })
  let s := s.barwTile t
  let u := mirror t
  if ((s.team u).map (fun m => m.asid == a && m.ident == i)).getD false then
    s.post .vxchExchange { tile := u, flag := true }
  else s

/-- R57: the block is complete; its tile is released, its log harvested (R348), its completion reported. -/
def execBlockComplete (s : State) : Host.Outcome State Fault Refusal :=
  let t := s.ev.tile
  let a := s.ev.asid
  let i := s.ev.ident
  let b := s.ev.n
  if s.blockDone t a i b then
    let killed := (((s.tile t).blockTeam a i b).map (·.killed)).getD false
    .next ((((s.releaseBlock t a i b).post .dirtyLogMerge { tile := t }).post .completionReport
      { asid := a, ident := i, pkg := t / 1024, n := b, flag := killed }).post .blockDeal { die := t / 256 })
  else .next s

/-- R326: the root counts the block, and the edition ends when every index is accounted for. -/
def execCompletionReport (s : State) : Host.Outcome State Fault Refusal :=
  let a := s.ev.asid
  let i := s.ev.ident
  let s := s.modEdition a i (fun e =>
    if s.ev.flag then { e with killed := e.killed + 1 } else { e with done := e.done + 1 })
  .next (s.settleEdition a i)

end Sys2Proof.Machine
end

