-- ==== Sys2Proof/Machine/Events.lean ====
section
/-! DEFINITION. The event ring of a PCIe function (R370, R371): entries, summaries of what was lost, held
completions; and completions of commands, held while their core is down (R367, R373). -/
namespace Sys2Proof.Machine

/-- A function of a package's endpoint (R363). -/
def Package.fn (x : Package) (f : Nat) : Fn := x.fns.get Fn.reset f
def State.fn (s : State) (p f : Nat) : Fn := (s.pkg p).fn f
def State.modFn (s : State) (p f : Nat) (g : Fn → Fn) : State :=
  s.modPkg p (fun x => { x with fns := x.fns.put Fn.reset f (g (x.fn f)) })

/-- A queue of a function (R365). -/
def Fn.queue (x : Fn) (q : Nat) : CmdQueue := x.queues.get CmdQueue.reset q
def Fn.modQueue (x : Fn) (q : Nat) (g : CmdQueue → CmdQueue) : Fn :=
  { x with queues := x.queues.put CmdQueue.reset q (g (x.queue q)) }

/-- Entries of the ring (R365). -/
def Fn.ringSize (x : Fn) : Nat := 2 ^ (6 + Nat.min x.evsize 10)

/-- The ring is enabled and not full (R371). -/
def Fn.room (x : Fn) : Bool := x.even && decide ((x.evhead - x.evtail).toNat < x.ringSize)

/-- An event entry (R370). -/
def entryBytes (kind queue tag status detail : Nat) (time : W64) (x10 x18 : Nat) : List Byte :=
  leBytes 8 (kind % 2 ^ 8 * 2 ^ 56 + queue % 2 ^ 8 * 2 ^ 48 + tag % 2 ^ 16 * 2 ^ 32 + status % 2 ^ 8 * 2 ^ 24 +
    detail % 2 ^ 24) ++ leBytes 8 time.toNat ++ leBytes 8 x10 ++ leBytes 8 x18

/-- The next values of the fields that the spec leaves open: tag, status, detail (DESIGN CHOICE, log entry 21). -/
def openFields (n : Nat) : Nat × Nat × Nat :=
  let w := (Config.eventWord n).toNat
  (field w 47 32, field w 31 24, field w 23 0)

/-- Write an entry into its slot and count it. -/
def State.putEntry (s : State) (p f : Nat) (bs : List Byte) : State :=
  let x := s.fn p f
  let slot := x.evhead.toNat % x.ringSize
  (s.putBytes (.host ((x.evbase.toNat + 32 * slot) % 2 ^ 64)) bs).modFn p f (fun x => { x with evhead := x.evhead + 1 })

/-- The queue's next command may be taken; the entry of an edition has no queue. -/
def State.queueGoesOn (s : State) (p f q : Nat) : State :=
  if 16 ≤ q then s
  else (s.modFn p f (fun x => x.modQueue q (fun c => { c with blocked := false }))).post .doorbell
    { pkg := p, n := f, k := q, flag := true }

/-- A lost summary (R370). -/
def State.putSummary (s : State) (p f : Nat) : State :=
  let x := s.fn p f
  let o := openFields s.free
  { (s.putEntry p f (entryBytes 4 0 o.1 o.2.1 o.2.2 s.podTime x.lostSince x.evovf.toNat)).modFn p f
      (fun x => { x with lostSince := 0 }) with free := s.free + 1 }

/-- One entry written once a slot is free: the summary first, then the oldest held completion, whose queue goes
on (R371). -/
def State.drainOne (s : State) (p f : Nat) : State :=
  let x := s.fn p f
  if x.room = false then s
  else if x.lostSince ≠ 0 then s.putSummary p f
  else
    match x.heldDone with
    | [] => s
    | (q, bs) :: rest => ((s.putEntry p f bs).modFn p f (fun x => { x with heldDone := rest })).queueGoesOn p f q

/-- Slots have become free. -/
def State.drainRing (s : State) (p f : Nat) : State :=
  (List.range ((s.fn p f).heldDone.length + 1)).foldl (fun (s : State) _ => s.drainOne p f) s

/-- An error, report, proposal or take-over event of queue `q`: written, or lost and counted (R371). A status is
given where the spec names one. -/
def State.hostEvent (s : State) (p f kind q : Nat) (status : Option Nat) (x10 x18 : Nat) : State :=
  let x := s.fn p f
  if x.room && x.lostSince == 0 then
    let o := openFields s.free
    { s.putEntry p f (entryBytes kind q o.1 (status.getD o.2.1) o.2.2 s.podTime x10 x18) with free := s.free + 1 }
  else s.modFn p f (fun x => { x with
    evovf := x.evovf ||| (1#16 <<< q)
    evlost := x.evlost + 1
    lostSince := x.lostSince + 1 })

/-- An event whose doublewords 0x10 and 0x18 the spec does not lay out. -/
def State.hostOpen (s : State) (p f kind q : Nat) (status : Option Nat) : State :=
  let b := Config.eventBody s.free
  { s with free := s.free + 1 }.hostEvent p f kind q status b.1 b.2

/-- An event about an address, of a cause that the spec does not name. -/
def State.hostAbout (s : State) (p f kind q : Nat) (address : Nat) : State :=
  let b := Config.eventBody s.free
  { s with free := s.free + 1 }.hostEvent p f kind q none address b.2

/-- A completion entry is written, or held with its queue (R371). -/
def State.hostEntry (s : State) (p f q : Nat) (bs : List Byte) : State :=
  let x := s.fn p f
  if x.room && x.lostSince == 0 && x.heldDone.isEmpty then (s.putEntry p f bs).queueGoesOn p f q
  else s.modFn p f (fun x => { x with heldDone := x.heldDone ++ [(q, bs)] })

/-! ## Firmware cores (R372, R373) -/

/-- A bring-up step has been done (R376). -/
def Package.done (x : Package) (n : Nat) : Bool := decide (n < x.step) || (x.step == n && !x.failed)

def Package.core (x : Package) (c : Nat) : Core := x.cores.get Core.reset c
def Package.modCore (x : Package) (c : Nat) (g : Core → Core) : Package :=
  { x with cores := x.cores.put Core.reset c (g (x.core c)) }

/-- A core's part is being played: by the core, or by core 7 after a take-over. -/
def Package.coreLive (x : Package) (c : Nat) : Bool :=
  (x.core c).running || (x.role == some c && (x.core 7).running)

/-- The core whose part a command's opcode belongs to (R372; DEDUCED, log entry 25). -/
def opCore (op : Nat) : Nat :=
  match op with
  | 0x01 => 0
  | 0x04 => 5
  | 0x06 => 2
  | 0x07 => 3
  | 0x08 => 5
  | 0x09 => 4
  | 0x0A => 5
  | 0x0B => 2
  | 0x0D => 5
  | _ => 1

/-- A held entry takes its place: those of a context's editions stand in root sequence order (R337). -/
def holdEntry (x : HeldDone) (l : List HeldDone) : List HeldDone :=
  let after (y : HeldDone) : Bool := match x.root, y.root with
    | some a, some b => a.1 == b.1 && decide (a.2 < b.2)
    | _, _ => false
  l.takeWhile (fun y => !after y) ++ x :: l.dropWhile (fun y => !after y)

/-- A completion entry is written, or held while the core that writes it is down (R367, R373). -/
def State.entryBy (s : State) (p core : Nat) (x : HeldDone) : State :=
  if (s.pkg p).coreLive core then s.hostEntry p x.fn x.queue x.bytes
  else s.modPkg p (fun y => { y with heldDone := holdEntry x y.heldDone })

/-- A command ends with its completion entry (R367). -/
def State.cmdDone (s : State) (p f q core tag status result : Nat) : State :=
  let o := openFields s.free
  { s with free := s.free + 1 }.entryBy p core ⟨f, q, none, entryBytes 1 q tag status o.2.2 s.podTime result 0⟩

/-- An edition has completed: core 1 of its root package, once the device is up, writes an entry for the function that owns
the context; its tag, status and detail are open (R337, R370; DESIGN CHOICE, log entry 56). -/
def State.editionEntry (s : State) (p a seq : Nat) : State :=
  if (s.pkg p).done 6 = false then s
  else
    let o := openFields s.free
    { s with free := s.free + 1 }.entryBy p 1
      ⟨(s.pkg p).owners.get 0 a, 16, some (a, seq), entryBytes 1 0 o.1 o.2.1 o.2.2 s.podTime 0 0⟩

end Sys2Proof.Machine
end

