-- ==== Sys2Proof/Machine/Light.lean ====
section
/-! DEFINITION. Steps of light strands and of the wake latch: slots and their waiters (R23, R62), stealing (R62),
arrivals by migration (R65), impressions (R197), host-command handlers (R368), and the ends of WAITX and WAITV
(R173, R174). -/
namespace Sys2Proof.Machine

/-! ## Light slots -/

/-- Where the strand stands that a free light slot takes next: waiting, or first on the deque. -/
inductive Next where
  | waiting (st : Strand)
  | deque (st : Strand)
  deriving DecidableEq, Repr

/-- The strands that wait for a slot and have reached the tile (R381). -/
def Tile.arrived (w : Tile) (clk : Nat) : List Strand := w.waiting.filter (fun x => x.kind != .impression || x.started || decide (x.ready ≤ clk))

/-- No impression of its entry and word that was created before it waits: they start in store order (R197). -/
def State.impFirst (s : State) (st : Strand) : Bool :=
  match st.imp with
  | none => true
  | some i => st.started || s.tiles.all (fun e =>
      (e.2.waiting ++ e.2.strands.map (·.2)).all (fun x =>
        !(x.isWaitingImp i.inst (some i.word) && decide (x.uid < st.uid))))

/-- The waiting strand that arrived first (R23), among those that a condition lets start; a deque entry counts as arriving when it is appended (R62). -/
def Tile.nextLight (w : Tile) (clk : Nat) (ok : Strand → Bool) : Option Next :=
  let l := (w.arrived clk).filter ok
  let first := l.find? (fun x => l.all (fun y => decide (x.arrival ≤ y.arrival)))
  match first, w.deque with
  | none, [] => none
  | some x, [] => some (.waiting x)
  | none, y :: _ => some (.deque y)
  | some x, y :: _ => if x.arrival < y.arrival then some (.waiting x) else some (.deque y)

/-- The lowest free light slot takes the strand that arrived first. -/
def State.takeOne (s : State) (t : Nat) : State :=
  let w := s.tile t
  if s.off t then s
  else
    match w.freeLight, w.nextLight s.clk s.impFirst with
    | k :: _, some (.waiting x) =>
      (s.modTile t (fun w => { w with waiting := w.waiting.filter (fun y => y.uid != x.uid) })).occupy t k x
    | k :: _, some (.deque x) =>
      ((s.modTile t (fun w => { w with deque := w.deque.drop 1 })).occupy t k x).wakeSpill x.asid
    | _, _ => s

/-- An idle light slot: free, on a tile without a waiting strand (R62). -/
def Tile.idleSlot (w : Tile) (clk : Nat) : Bool := (w.arrived clk).isEmpty && w.deque.isEmpty && !w.freeLight.isEmpty

/-- Idle tiles of the package look for the entry that stands first on a deque (R62). -/
def State.callThieves (s : State) (t : Nat) : State :=
  match (s.tile t).deque with
  | [] => s
  | x :: _ =>
    (s.tiles.filter (fun (e : Nat × Tile) => e.1 / 1024 == t / 1024 && !s.off e.1 && e.2.idleSlot s.clk && (e.2.grantOf x.asid).isSome)).foldl
      (fun (s : State) e => s.post .steal { tile := e.1 }) s

/-- Free light slots of a tile take its waiters in order of arrival; what is left on its deque may be stolen, and
an idle slot looks for work. -/
def State.takeLight (s : State) (t : Nat) : State :=
  let s := (List.range 8).foldl (fun (s : State) _ => s.takeOne t) s
  if !s.off t && (s.tile t).idleSlot s.clk then s.post .steal { tile := t } else s.callThieves t

/-- R23: a free slot takes the waiting strand that arrived first. -/
def execLightSlotTake (s : State) : Host.Outcome State Fault Refusal := .next (s.takeLight s.ev.tile)

/-- The first entry of a deque may be taken by another tile (R62): its steal domain around the deque's tile, and a
grant of its context there. -/
def State.stealable (s : State) (thief victim : Nat) : Bool :=
  match (s.tile victim).deque with
  | [] => false
  | x :: _ =>
    victim != thief && ((s.tile thief).grantOf x.asid).isSome &&
      (match x.steal.toNat with
        | 1 => thief / 256 == victim / 256
        | 2 => thief / 1024 == victim / 1024
        | _ => false)

/-- Victims in tile-address order, starting after the last tile scanned. -/
def State.victim (s : State) (t : Nat) : Option Nat :=
  let at_ := (s.tile t).stealAt
  let l := (s.tiles.map (·.1)).filter (s.stealable t)
  match l.find? (fun v => decide (at_ < v)) with
  | some v => some v
  | none => l.head?

/-- R62: an idle slot takes the oldest entry of a victim's deque. -/
def execSteal (s : State) : Host.Outcome State Fault Refusal :=
  let t := s.ev.tile
  if s.off t || !(s.tile t).idleSlot s.clk then .next s
  else
    match s.victim t with
    | none => .next s
    | some v =>
      match (s.tile v).deque, (s.tile t).freeLight with
      | x :: rest, k :: _ =>
        let s := s.modTile v (fun w => { w with deque := rest })
        let s := (s.modTile t (fun w => { w with stealAt := v })).occupy t k x
        .next (((s.wakeSpill x.asid).post .steal { tile := t }).callThieves v)
      | _, _ => .next s

/-- R65: the message arrives, and its strand waits for a slot; it acquires before its next instruction. -/
def execMigrationArrival (s : State) : Host.Outcome State Fault Refusal :=
  match s.transit.find? (fun x => x.n == s.ev.n) with
  | none => .next s
  | some x =>
    let st := { x.strand with arrival := s.fresh, mustAcquire := true }
    let s := { s with fresh := s.fresh + 1, transit := s.transit.filter (fun y => y.n != x.n) }
    .next ((s.modTile x.tile (fun w => { w with waiting := w.waiting ++ [st] })).takeLight x.tile)

/-- R197: a created impression reaches its target tile, in the order of arrival there (R23), and takes a light slot. -/
def execImpressionStart (s : State) : Host.Outcome State Fault Refusal :=
  let n := s.fresh
  let s := { s with fresh := n + 1 }.modTile s.ev.tile (fun w => { w with
    waiting := w.waiting.map (fun (x : Strand) => if x.uid = s.ev.n then { x with arrival := n } else x) })
  .next (s.takeLight s.ev.tile)

/-- R368: the message reaches its home tile: the handler waits for a slot there, its delivery is a wake event
(R174), and its command completes. -/
def execActiveMessageDelivery (s : State) : Host.Outcome State Fault Refusal :=
  match s.actives.find? (fun x => x.n == s.ev.n) with
  | none => .next s
  | some x =>
    let st := { x.strand with arrival := s.fresh, born := s.clk }
    let s := { s with fresh := s.fresh + 1, actives := s.actives.filter (fun y => y.n != x.n) }
    let s := s.modTile x.tile (fun w => { w with waiting := w.waiting ++ [st] })
    let s := (s.atEnd .wakeEvent { tile := x.tile, k := 3 }).takeLight x.tile
    .next (s.cmdDone x.pkg x.fn x.queue 0 x.tag 0 0)

/-! ## Wake events (R174) -/

/-- The code of a wake event of a tile among the steps of this end of a clk. -/
def Turn.wakeCode (t : Nat) : Turn → Option Nat
  | .happen .wakeEvent x => if x.tile = t then some x.k else none
  | .happen _ _ => none
  | .issue _ => none
  | .tick => none

/-- The smallest code of the tile's events of this clk. -/
def State.wakeMin (s : State) (t k : Nat) : Nat := (s.agenda.filterMap (Turn.wakeCode t)).foldl Nat.min k

/-- The destination of a strand waiting in WAITX. -/
def Strand.inWaitx (st : Strand) : Option GReg :=
  match st.hold with
  | some (.waitx d _) => some d
  | _ => none

/-- R174: the event ends every WAITX that waits on the tile, or sets a clear latch. -/
def execWakeEvent (s : State) : Host.Outcome State Fault Refusal :=
  let t := s.ev.tile
  let k := s.wakeMin t s.ev.k
  let l := (s.tile t).strands.filterMap (fun (e : Nat × Strand) => e.2.inWaitx.map (fun d => (e.1, e.2, d)))
  if l.isEmpty then
    .next (s.modTile t (fun w => if w.latch = 0 then { w with latch := k } else w))
  else
    let s := { s with agenda := s.agenda.filter (fun x => ((x.wakeCode t)).isNone) }
    .next (l.foldl (fun (s : State) (e : Nat × Strand × GReg) =>
      s.retireAcq (.tile t e.1) ((e.2.1.wr e.2.2 (BitVec.ofNat 64 k)).notBefore (s.clk + 1))) s)

/-- R174: the limit ends the WAITX with code 0, unless an event comes in the same clk: it is looked at again at the end
of the clk, with `flag`. -/
def execWaitxLimit (s : State) : Host.Outcome State Fault Refusal :=
  let t := s.ev.tile
  let r := Ref.tile t s.ev.slot
  if s.ev.flag = false then .next (s.atEnd .waitxLimit { s.ev with flag := true }) else
  match s.strand r with
  | none => .next s
  | some st =>
    match st.hold with
    | some (.waitx d limit) =>
      if st.uid ≠ s.ev.n ∨ limit = 0 ∨ s.clk < limit ∨ s.agenda.any (fun x => (x.wakeCode t).isSome) then .next s
      else .next (s.retireAcq r ((st.wr d 0).notBefore (s.clk + 1)))
    | _ => .next s

/-- R173: the waiter reads again, and retires if the value differs; on a poisoned line its load issues again and
traps. Its next instruction issues 3 clk after the change (R285). -/
def execWaitvWake (s : State) : Host.Outcome State Fault Refusal :=
  let r := Ref.tile s.ev.tile s.ev.slot
  match s.strand r with
  | none => .next s
  | some st =>
    match st.hold with
    | some (.waitv l n v) =>
      if s.poisoned l.key n then .next (s.setStrand r { st with hold := none })
      else if s.sameValue l n v st.asid then .next s
      else .next (s.retireAcq r (st.notBefore (s.clk + 3)))
    | _ => .next s

end Sys2Proof.Machine
end

