-- ==== Sys2Proof/Machine/Debug.lean ====
section
/-! DEFINITION. Fault packets and escalation (R304, R298), the actions of the debug window's control words (R308,
R309), window writes (R307) and the trace control (R312). -/
namespace Sys2Proof.Machine

/-! ## Fault packets (R304) -/

/-- A debugger is attached to a context on a package (R202, R314). -/
def State.debugged (s : State) (p a : Nat) : Bool := (s.pkg p).debug != 0 && (s.pkg p).attached.contains a

/-- A packet is counted in its edition's report when it is written (R192, R304); a BRK that goes to a debugger is not
(R202). -/
def State.countPacket (s : State) (p : FaultPkt) : State :=
  match p.edition with
  | none => s
  | some i =>
    if p.code = fcBreak ∧ s.debugged (p.tile / 1024) p.asid then s else
    let cls := p.code.toNat / 16
    let f : Option FirstFault := p.block.map (fun b => ⟨cls, p.time, p.tile / 1024, p.tile, b⟩)
    s.modReport p.asid i (p.tile / 1024) (fun x => x.fault cls f (some (p.tile / 1024, p)))

/-- The ring of a die has a base and a free slot. -/
def Die.ringRoom (x : Die) : Bool := x.fring.isSome && decide ((x.fhead - x.ftail).toNat < 64)

/-- Write the oldest packet into the ring, and raise sys.fhead. -/
def State.writePacket (s : State) (d : Nat) : State :=
  let x := s.die d
  match x.faults, x.fring, x.ringRoom with
  | p :: rest, some base, true =>
    let pa := base.toNat + 128 * (x.fhead.toNat % 64)
    let s := s.writeSegs .firmware 0 pa [(.dev pa, 128)] p.bytes
    (s.modDie d (fun x => { x with faults := rest, fhead := x.fhead + 1 })).countPacket p
  | _, _, _ => s

/-- A supervisor's HALT ends (R203, R304). -/
def State.endHalts (s : State) (d : Nat) : State :=
  (s.die d).sups.foldl (fun (s : State) (e : Nat × Strand) =>
    if e.2.hold = some .halt then s.complete (.sup d e.1) e.2 else s) s

/-- R304: the packets of a die are written in the order of their faults, while the ring has room; then a HALT ends. -/
def execFaultPacketWrite (s : State) : Host.Outcome State Fault Refusal :=
  let d := s.ev.die
  let s := (List.range (s.die d).faults.length).foldl (fun (s : State) _ => s.writePacket d) s
  .next (if (s.die d).fhead ≠ (s.die d).ftail then s.endHalts d else s)

/-- A post into the mailbox of a die's supervisor to core 3 (R372). -/
def State.postSup (s : State) (d : Nat) (w : List W64) : State :=
  s.post .mailboxPost { pkg := d / 4, k := 8 + d % 4, words := w }

/-- An escalation on its way to core 3: code 0x70, the strand it is about, the PC, the pod time. -/
def State.escalate (s : State) (d : Nat) (part pc : W64) : State :=
  s.postSup d [BitVec.ofNat 64 (0x70 * 2 ^ 56), part, pc, s.podTime]

/-- R298: the frozen supervisor strand is escalated to core 3. -/
def execSupervisorEscalation (s : State) : Host.Outcome State Fault Refusal :=
  match s.strand (.sup s.ev.die s.ev.slot) with
  | none => .next s
  | some st => .next (s.escalate s.ev.die (BitVec.ofNat 64 (s.ev.die * 16 + s.ev.slot)) st.pc)

/-! ## Actions (R308, R309) -/

/-- An action on the slot that the step names: refused with err where the slot is empty, the generation differs, or
the strand's state does not allow it. -/
def State.action (s : State) (ok : Run → Bool) (f : Nat → Nat → Strand → State) : State :=
  let t := s.ev.tile
  let k := s.ev.slot
  match s.strand (.tile t k) with
  | none => s.setErr t k
  | some st =>
    if (s.tile t).gens.get 0 k ≠ s.ev.gen ∨ ok st.run = false then s.setErr t k else f t k st

/-- States in which each action is allowed. -/
def Run.frozenOrHalted (r : Run) : Bool := r == .frozen || r == .halted

/-- A held instruction is abandoned at its boundary and issues again (R109, R141); a store that only awaits its
acquire has retired, and an access at another tile or the host, which may have been performed, goes on
(DESIGN CHOICE, log entry 46). -/
def Strand.abandoned (st : Strand) : Strand :=
  match st.hold with
  | some (.storeAcq _) => { st.retired st.after with mustAcquire := true }
  | some (.host _) => st
  | some (.remote _) => st
  | none => st
  | _ => { st with hold := none, passed := none }

/-- The strand of a slot stops at its instruction boundary: its arrivals and exchanges are withdrawn. -/
def State.stopAt (s : State) (t k : Nat) (st : Strand) (run : Run) : State :=
  let s := s.setStrand (.tile t k) { st.abandoned with run := run }
  let s := if st.kind.isAnchored then
      s.modTeam t (fun m => { m with bart := m.bart.filter (· != k), exch := m.exch.filter (fun e => e.slot != k) })
    else s
  match st.hold with
  | some (.barw _ _ _) => s.barwTile t
  | _ => s

/-- States in which a resume is allowed: the host debugger's reaches a parked block too (R309, R310; DESIGN CHOICE, log
entry 52). -/
def Run.resumable (host : Bool) (r : Run) : Bool := r.frozenOrHalted || (host && r == .parked)

/-- The strands of a parked block run again (R310). -/
def State.unparkBlock (s : State) (a i b : Nat) : State :=
  s.everywhere (fun st => if st.ofBlock a i b && st.run == .parked then { st with run := .running } else st)

/-- R309 action 1: the strand continues at the PC in its window; a parked one with its block (R310). -/
def execDbgResume (s : State) : Host.Outcome State Fault Refusal :=
  .next (s.action (Run.resumable s.ev.flag) (fun t k st =>
    let s := s.setStrand (.tile t k) { st with run := .running, stepping := false }
    match st.run, st.edition, st.block with
    | .parked, some i, some b => s.unparkBlock st.asid i b
    | _, _, _ => s))

/-- A strand that belongs to no block is killed alone (R310). -/
def State.killStrand (s : State) (st : Strand) : State :=
  (s.dropStrands (fun x => x.uid == st.uid)).childExit st.parent

/-- R309 action 2: the strand's block is killed. -/
def execDbgKillBlock (s : State) : Host.Outcome State Fault Refusal :=
  .next (s.action Run.stopped (fun _ _ st =>
    match st.edition, st.block with
    | some i, some b => s.killBlock st.asid i b
    | _, _ => s.killStrand st))

/-- R309 action 3: as CANCEL.kill of the strand's edition. -/
def execDbgKillEdition (s : State) : Host.Outcome State Fault Refusal :=
  .next (s.action Run.stopped (fun _ _ st =>
    match st.edition with
    | some i => s.cancelEdition st.asid i true
    | none => s.killStrand st))

/-- The strands of a block stop in state parked, wherever they are. -/
def State.parkBlock (s : State) (a i b : Nat) : State :=
  let s := s.tiles.foldl (fun (s : State) (e : Nat × Tile) => e.2.strands.foldl (fun (s : State) x =>
    if x.2.ofBlock a i b then s.stopAt e.1 x.1 x.2 .parked else s) s) s
  s.everywhere (fun st => if st.ofBlock a i b then { st with run := .parked } else st)

/-- The block of a strand has been killed. -/
def State.blockKilled (s : State) (a i b : Nat) : Bool :=
  s.tiles.any (fun (e : Nat × Tile) => ((e.2.blockTeam a i b).map (·.killed)).getD false)

/-- R309 action 4: every strand of the block stops in state parked; a block already killed refuses it. -/
def execDbgPark (s : State) : Host.Outcome State Fault Refusal :=
  .next (s.action Run.frozenOrHalted (fun t k st =>
    match st.edition, st.block with
    | some i, some b => if s.blockKilled st.asid i b then s.setErr t k else s.parkBlock st.asid i b
    | _, _ => s.stopAt t k st .parked))

/-- R309 action 5: the strand stops at its next instruction boundary. -/
def execDbgHalt (s : State) : Host.Outcome State Fault Refusal :=
  .next (s.action (fun r => r == .running) (fun t k st => s.stopAt t k st .halted))

/-- The doublewords of a packet. -/
def FaultPkt.words (p : FaultPkt) : List W64 :=
  (List.range 16).map (fun i => BitVec.ofNat 64 (leNat ((p.bytes.drop (8 * i)).take 8)))

/-- R309 action 6: the strand's packet goes to core 3 with code 0x70, as two mailbox entries of 64 bytes (DESIGN CHOICE, log entry
32), and counts in class 7 (R192); the strand stays frozen. -/
def execDbgEscalate (s : State) : Host.Outcome State Fault Refusal :=
  .next (s.action (fun r => r == .frozen) (fun t k st =>
    let p : FaultPkt := { (st.pkt.getD (s.packetOf t k st fcEscalation (TrapInfo.at 0 0))) with code := fcEscalation }
    ((s.countPacket p).postSup (t / 256) (p.words.take 8)).postSup (t / 256) (p.words.drop 8)))

/-- R309 action 7: one instruction, or one IMX pair, and halted again. -/
def execDbgStep (s : State) : Host.Outcome State Fault Refusal :=
  .next (s.action (fun r => r == .halted) (fun t k st =>
    s.setStrand (.tile t k) { st with run := .running, stepping := true }))

/-- What belongs to a context at an offset of a tile's window: bytes of its grant, its strand's slot, its team's state, and
the trace of a tile on which only its strands run (R314; DESIGN CHOICE, log entry 52). -/
def Tile.windowOf (w : Tile) (a off n : Nat) : Bool :=
  let team := (w.team.map (fun m => m.asid == a)).getD false
  if off < spadSize then team && decide (off + n ≤ (w.team.map (·.grant)).getD 0)
  else if off < 0x900000 then ((w.strands.find ((off - 0x800000) / 0x100)).map (fun st => st.asid == a)).getD false
  else if off < 0xA00000 then team
  else team && w.strands.all (fun e => e.2.asid == a)

/-- The host debugger reaches `n` bytes at an offset of a tile's window through BAR2 (R314, R315, R363): at full all of it,
at user-debug what belongs to a context it attaches to. -/
def State.hostReaches (s : State) (t a off n : Nat) : Bool :=
  let x := s.pkg (t / 1024)
  decide (off + n ≤ 2 ^ 24) && decide ((s.die (t / 256)).pstate.toNat < 3) && x.pstate != 4 &&
    (match (x.debug).toNat with
      | 2 => true
      | 1 => (s.tile t).windowOf a off n
      | _ => false)

/-- What a read of the host debugger, attached to a context, returns; none is a completer abort (R314 to R316). It changes
nothing. -/
def State.hostWindowRead (s : State) (t a off n : Nat) : Option (List Byte) :=
  if s.hostReaches t a off n then some (s.windowBytes t off n) else none

/-- The tile and window offset at an offset of BAR2, which only the physical function has; none for an access that crosses
a 16 MiB window (R307, R363). -/
def bar2At (p f off n : Nat) : Option (Nat × Nat) :=
  let w := off % 2 ^ 32
  let o := w % 2 ^ 24
  if f = 0 ∧ off < 2 ^ 34 ∧ o + n ≤ 2 ^ 24 then some (1024 * p + 256 * (off / 2 ^ 32) + w / 2 ^ 24, o) else none

/-- What a read through BAR2 returns, for a host debugger attached to a context; none is a completer abort (R363). It
changes nothing. -/
def State.bar2Read (s : State) (p f a off n : Nat) : Option (List Byte) :=
  (bar2At p f off n).bind (fun x => s.hostWindowRead x.1 a x.2 n)

/-- At full the host debugger also reaches the supervisor strands of the package's dies and the memories of its firmware cores; the
spec lays out no window for them (R314; DESIGN CHOICE, log entry 52). -/
def State.hostReadsSup (s : State) (p d k : Nat) : Option Strand :=
  if (s.pkg p).debug = 2 then s.strand (.sup (4 * p + d) k) else none
def State.hostReadsCore (s : State) (p c : Nat) : Option Core :=
  if (s.pkg p).debug = 2 then some ((s.pkg p).core c) else none

/-- The host debugger attaches to a context, while the debug level lets it in (R314; DESIGN CHOICE, log entry 52). -/
def State.attach (s : State) (p a : Nat) : State :=
  s.modPkg p (fun x => { x with attached :=
    if x.debug = 0 then [] else if x.attached.contains a then x.attached else x.attached ++ [a] })

/-- R309: a window write of `n` bytes at offset `k`: performed, or refused with err; `lane` 1 marks the host's. With `flag` it
is a write of the host debugger at offset `k` of BAR2 of package `pkg` by function `ident` (R363), which so attaches to `asid`:
completer abort where it may not reach (R314). -/
def execDebugWindowWrite (s : State) : Host.Outcome State Fault Refusal :=
  let x := s.ev
  if x.flag = false then .next (s.windowWrite x.tile x.k x.n x.value (x.lane == 1))
  else
    match bar2At x.pkg x.ident x.k x.n with
    | none => .next s
    | some (t, off) =>
      let s := s.attach x.pkg x.asid
      if s.hostReaches t x.asid off x.n then .next (s.windowStoreBy t off x.n x.value true) else .next s

/-! ## Trace (R312) -/

/-- Writable fields of the trace control doubleword: frozen, kinds, post, trig, slots. -/
abbrev traceMask : W64 := 0x80FF0FFF0FFF0000

/-- R312: settings change, or a frozen buffer restarts; wp is read-only. -/
def execTraceControlWrite (s : State) : Host.Outcome State Fault Refusal :=
  let t := s.ev.tile
  let o := s.ev.k % 8
  .next (s.modTile t (fun w =>
    let keep := leBytes 8 w.trace.ctl.toNat
    let bs := keep.take o ++ leBytes s.ev.n s.ev.value.toNat ++ keep.drop (o + s.ev.n)
    let v := BitVec.ofNat 64 (leNat (bs.take 8))
    { w with trace := { w.trace with ctl := (v &&& traceMask) ||| (w.trace.ctl &&& ~~~traceMask), left := none } }))

/-- R312: a trigger has matched `value`: its entry is recorded, and the buffer freezes after `post` more. -/
def execTraceTrigger (s : State) : Host.Outcome State Fault Refusal :=
  let t := s.ev.tile
  let x := (s.tile t).trace
  let c := x.ctl.toNat
  if field c 63 63 = 1 ∨ field c 55 48 = 0 ∨ x.left.isSome then .next s
  else
    let y := x.push s.ev.slot 7 (s.ev.value.toNat % 2 ^ 56) s.podTime
    let n := field c 43 32
    let y := if n = 0 then { y with ctl := y.ctl ||| (1#64 <<< 63) } else { y with left := some n }
    .next (s.modTile t (fun w => { w with trace := y }))

end Sys2Proof.Machine
end

