-- ==== Sys2Proof/Machine/Hash.lean ====
section
/-! DEFINITION. CRC-32C (R361) and SHAKE256 (R317, R318, R372; PRESUMED as FIPS 202, log entry 16). -/
namespace Sys2Proof.Machine

/-- One bit of the reflected CRC. -/
def crcBit (c : W32) : W32 := if c.getLsbD 0 then (c >>> 1) ^^^ 0x82F63B78#32 else c >>> 1

/-- One byte. -/
def crcByte (c : W32) (b : Byte) : W32 :=
  crcBit (crcBit (crcBit (crcBit (crcBit (crcBit (crcBit (crcBit (c ^^^ b.setWidth 32))))))))

/-- CRC-32C of bytes in ascending address order (R361). -/
def crc32c (bs : List Byte) : W32 := ~~~(bs.foldl crcByte 0xFFFFFFFF#32)

/-! ## SHAKE256 -/

/-- The generator of the round constants: x⁸ + x⁶ + x⁵ + x⁴ + 1, after n steps from 1. -/
def keccakLfsr (n : Nat) : Nat :=
  match n with
  | 0 => 1
  | n + 1 => let r := 2 * keccakLfsr n; if r < 256 then r else r ^^^ 0x171

/-- The constant of a round: bit 2^j − 1 is the generator's bit 7 · round + j. -/
def keccakIota (round : Nat) : W64 :=
  BitVec.ofNat 64 ((List.range 7).foldl (fun c j => c + keccakLfsr (7 * round + j) % 2 * 2 ^ (2 ^ j - 1)) 0)

/-- The walk (x, y) → (y, 2x + 3y) over the lanes other than (0, 0): a lane, the next one, to which it moves, and the places that
it turns on the way. -/
def keccakWalk (fuel t x y : Nat) : List (Nat × Nat × Nat) :=
  match fuel with
  | 0 => []
  | fuel + 1 =>
    let v := (2 * x + 3 * y) % 5
    (x + 5 * y, y + 5 * v, (t + 1) * (t + 2) / 2 % 64) :: keccakWalk fuel (t + 1) y v

/-- Each column takes the parities of its neighbours. -/
def keccakTheta (a : List W64) : List W64 :=
  let par := (List.range 5).map (fun x => ((a.zipIdx).filter (fun e => e.2 % 5 == x)).foldl (fun (p : W64) e => p ^^^ e.1) 0)
  (a.zipIdx).map (fun e => e.1 ^^^ (par.getD ((e.2 + 4) % 5) 0 ^^^ (par.getD ((e.2 + 1) % 5) 0).rotateLeft 1))

/-- The lanes turn and move along the walk. -/
def keccakMove (walk : List (Nat × Nat × Nat)) (a : List W64) : List W64 :=
  walk.foldl (fun (b : List W64) e => b.set e.2.1 ((a.getD e.1 0).rotateLeft e.2.2)) a

/-- Each row of five lanes is combined with its own successors. -/
def keccakChi (fuel : Nat) (a : List W64) : List W64 :=
  match fuel, a with
  | fuel + 1, p :: q :: r :: u :: v :: more =>
    (p ^^^ (r &&& ~~~q)) :: (q ^^^ (u &&& ~~~r)) :: (r ^^^ (v &&& ~~~u)) :: (u ^^^ (p &&& ~~~v)) :: (v ^^^ (q &&& ~~~p)) ::
      keccakChi fuel more
  | _, _ => []

/-- The permutation: 24 rounds over 25 lanes. -/
def keccakF (a : List W64) : List W64 :=
  let walk := keccakWalk 24 0 1 0
  (List.range 24).foldl (fun (a : List W64) i =>
    (keccakChi 5 (keccakMove walk (keccakTheta a))).modify 0 (· ^^^ keccakIota i)) a

/-- Absorb whole blocks of 136 bytes. -/
def absorb (fuel : Nat) (a : List W64) (bs : List Byte) : List W64 :=
  match fuel with
  | 0 => a
  | fuel + 1 =>
    if bs.isEmpty then a
    else
      let blk := bs.take 136
      let a := (List.range 25).map (fun i => a.getD i 0 ^^^ BitVec.ofNat 64 (leNat ((blk.drop (8 * i)).take 8)))
      absorb fuel (keccakF a) (bs.drop 136)

/-- Squeeze n bytes, at most one block each time. -/
def squeeze (fuel n : Nat) (a : List W64) : List Byte :=
  match fuel with
  | 0 => []
  | fuel + 1 =>
    let out := ((a.flatMap (fun w => leBytes 8 w.toNat)).take 136).take n
    if n ≤ 136 then out else out ++ squeeze fuel (n - 136) (keccakF a)

/-- SHAKE256 of bytes with n output bytes. -/
def shake256 (bs : List Byte) (n : Nat) : List Byte :=
  let pad := 136 - bs.length % 136
  let tail : List Byte := if pad = 1 then [0x9F] else [0x1F] ++ List.replicate (pad - 2) 0 ++ [0x80]
  let m := bs ++ tail
  squeeze (n / 136 + 1) n (absorb (m.length / 136 + 1) (List.replicate 25 0) m)

end Sys2Proof.Machine
end

