-- ==== Sys2Proof/Machine/Ed448.lean ====
section
/-! DEFINITION. The Ed448 signatures that the spec names (R318, R372, R375): the curve, the keys, signing and verifying
(PRESUMED as RFC 8032 with an empty context, log entry 16). -/
namespace Sys2Proof.Machine

/-- The field's prime, the group's order, and the curve's constant −39081 in the field. -/
abbrev edP : Nat := 2 ^ 448 - 2 ^ 224 - 1
abbrev edL : Nat := 2 ^ 446 - 13818066809895115352007386748515426880336692474882178609894547503885
abbrev edD : Nat := edP - 39081

/-- A power in the field, by the bits of the exponent. -/
def edPow (x n : Nat) : Nat :=
  (List.range 448).foldr (fun i a => let b := a * a % edP; if n.testBit i then b * x % edP else b) 1

def edInv (x : Nat) : Nat := edPow x (edP - 2)

/-- A difference in the field, of two of its elements. -/
def edSub (a b : Nat) : Nat := (a + (edP - b)) % edP

/-- A point of the curve in projective coordinates. -/
structure EdPoint where
  x : Nat
  y : Nat
  z : Nat
  deriving DecidableEq, Repr

def EdPoint.zero : EdPoint := ⟨0, 1, 1⟩

/-- The base point. -/
def EdPoint.base : EdPoint where
  x := 224580040295924300187604334099896036246789641632564134246125461686950415467406032909029192869357953282578032075146446173674602635247710
  y := 298819210078481492676017930443930673437544040154080242095928241372331506189835876003536878655418784733982303233503462500531545062832660
  z := 1

def EdPoint.add (p q : EdPoint) : EdPoint :=
  let a := p.z * q.z % edP
  let b := a * a % edP
  let c := p.x * q.x % edP
  let d := p.y * q.y % edP
  let e := edD * c % edP * d % edP
  let f := edSub b e
  let g := (b + e) % edP
  let h := (p.x + p.y) * (q.x + q.y) % edP
  { x := a * f % edP * edSub (edSub h c) d % edP
    y := a * g % edP * edSub d c % edP
    z := f * g % edP }

/-- A multiple of a point. -/
def EdPoint.mul (n : Nat) (p : EdPoint) : EdPoint :=
  (List.range 456).foldr (fun i a => let b := a.add a; if n.testBit i then b.add p else b) .zero

/-- The same point, whatever the coordinates. -/
def EdPoint.same (p q : EdPoint) : Bool := p.x * q.z % edP == q.x * p.z % edP && p.y * q.z % edP == q.y * p.z % edP

/-- The 57 bytes of a point: y, and the low bit of x on top. -/
def EdPoint.bytes (p : EdPoint) : List Byte :=
  let i := edInv p.z
  leBytes 57 (p.y * i % edP + p.x * i % edP % 2 * 2 ^ 455)

/-- The point of 57 bytes, if there is one. -/
def EdPoint.ofBytes (bs : List Byte) : Option EdPoint :=
  let n := leNat bs
  let y := n % 2 ^ 455
  let u := edSub (y * y % edP) 1
  let v := edSub (edD * y % edP * y % edP) 1
  let x := edPow u 3 * v % edP * edPow (edPow u 5 * edPow v 3 % edP) ((edP - 3) / 4) % edP
  let odd := n / 2 ^ 455
  if bs.length ≠ 57 ∨ edP ≤ y ∨ v * x % edP * x % edP ≠ u ∨ (x = 0 ∧ odd = 1) then none
  else some ⟨if x % 2 = odd then x else edP - x, y, 1⟩

/-- What precedes the bytes that are hashed: "SigEd448", no prehash, an empty context. -/
def edDom : List Byte := [0x53, 0x69, 0x67, 0x45, 0x64, 0x34, 0x34, 0x38, 0, 0]

def edHash (bs : List Byte) : Nat := leNat (shake256 (edDom ++ bs) 114)

/-- The scalar of a private key, and the bytes that its signatures draw from. -/
def edSecret (key : List Byte) : Nat × List Byte :=
  let h := shake256 key 114
  (leNat (h.take 56) / 4 * 4 % 2 ^ 447 + 2 ^ 447, h.drop 57)

/-- The public key of a private key. -/
def ed448Public (key : List Byte) : List Byte := (EdPoint.mul (edSecret key).1 .base).bytes

/-- The signature of a message, 114 bytes. -/
def ed448Sign (key msg : List Byte) : List Byte :=
  let (s, pre) := edSecret key
  let r := edHash (pre ++ msg) % edL
  let rb := (EdPoint.mul r .base).bytes
  rb ++ leBytes 57 ((r + edHash (rb ++ ed448Public key ++ msg) % edL * s) % edL)

/-- A signature of a message verifies with a public key. -/
def ed448Verify (pub msg sig : List Byte) : Bool :=
  let s := leNat (sig.drop 57)
  match EdPoint.ofBytes (sig.take 57), EdPoint.ofBytes pub with
  | some r, some a =>
    sig.length == 114 && decide (s < edL) &&
      (EdPoint.mul s .base).same (r.add (EdPoint.mul (edHash (sig.take 57 ++ pub ++ msg) % edL) a))
  | _, _ => false

end Sys2Proof.Machine
end

