-- ==== Sys2Proof/Machine/Walk.lean ====
section
/-! DEFINITION. Filling TLBs (R342), frame tags and attribute aliases (R345, R346), and the merge of dirty
logs (R347, R348). -/
namespace Sys2Proof.Machine

/-- What a fill finds: nothing present, an alias with the frame's PA and tag, or the entry. -/
inductive Fill where
  | absent
  | conflict (leaf : Leaf) (pa : Nat) (tag : BitVec 2)
  | entry (s : State) (e : TlbEnt)

/-- A frame that a leaf of a context may not reach (R346). -/
def frameClash (a : Nat) (leaf : W64) (f : Frame) : Bool :=
  f.tag != pteTag leaf || (pteTag leaf != 2 && f.owner != a)

/-- Tag the untagged frames of a leaf (R345). -/
def tagFrames (fs : Table Frame) (a : Nat) (leaf : W64) : Table Frame :=
  let first := ptePa leaf / 4096
  let n := pageBytes (pteSize leaf) / 4096
  fs.filter (fun e => decide (e.1 < first)) ++
    (List.range n).map (fun i => (first + i, (fs.find (first + i)).getD ⟨pteTag leaf, a⟩)) ++
    fs.filter (fun e => decide (first + n ≤ e.1))

/-- The TLB entry of a leaf. -/
def TlbEnt.ofLeaf (a va : Nat) (leaf : W64) : TlbEnt :=
  let size := pageBytes (pteSize leaf)
  ⟨a, va / size * size, size, leaf, false⟩

/-- A die walks for a context and fills its TLB (R341, R342, R345). -/
def State.fill (s : State) (d a va : Nat) : Fill :=
  match s.walk d a va with
  | none => .absent
  | some f =>
    let e := TlbEnt.ofLeaf a va f.pte
    let add (s : State) : State := s.modDie d (fun x => { x with
      tlb := tlbAdd 8192 (x.tlb.filter (fun y => !(y.asid == a && y.va == e.va && y.size == e.size))) e })
    if pteHost f.pte then .entry (add s) e
    else
      let pa := ptePa f.pte
      let home := pa / 2 ^ 39
      let n := e.size / 4096
      match (s.die home).frames.find? (fun x => decide (pa / 4096 ≤ x.1) && decide (x.1 < pa / 4096 + n) &&
          frameClash a f.pte x.2) with
      | some x => .conflict f (x.1 * 4096) x.2.tag
      | none => .entry (add (s.modDie home (fun x => { x with frames := tagFrames x.frames a f.pte }))) e

/-- The attribute-alias notice (R356 kind 10). -/
def State.clashNotice (s : State) (d a va : Nat) (leaf : Leaf) (pa : Nat) (tag : BitVec 2) : State :=
  s.notice d a (noticeBytes 10 0 va pa ((pteTag leaf.pte).toNat * 4 + tag.toNat))

/-- Where the leaf of a page of the given size stands, present or not: the first entry of its group (R339, R341). -/
def leafEntry (m : List Host.Cell) (va size fuel lvl table : Nat) : Option Nat :=
  match fuel with
  | 0 => none
  | fuel + 1 =>
    let (lo, w) := levelBits lvl
    let idx := va / 2 ^ lo % 2 ^ w
    match (levelSizes lvl).find? (fun c => pageBytes c == size) with
    | some c => some (table + 8 * (if sizeGrouped c then idx / 16 * 16 else idx))
    | none =>
      let e := Memory.dword m (table + 8 * idx)
      if pteValid e && pteSize e == 7 && ptePointerOk lvl e then leafEntry m va size fuel (lvl + 1) (ptePa e) else none

/-- Set the d bit in the leaf entry of a logged page at its home, an OR, whatever its v bit says by now (R348). -/
def State.setDirty (s : State) (d : Nat) (e : DirtyEnt) : State :=
  match leafEntry s.mem e.va e.size 5 0 (s.ctx d e.asid).ptroot with
  | none => s
  | some k =>
    let pte := Memory.dword s.mem k
    if pteD pte ∨ (pteValid pte ∧ pageBytes (pteSize pte) ≠ e.size) then s
    else (s.writeAt .firmware [] (.dev k) (leBytes 8 (pte.toNat + 2 ^ 54))).1

/-- The merge: every entry of the log is dropped, and accesses held on the full log issue again (R348). -/
def State.mergeDirty (s : State) (t : Nat) : State :=
  let l := (s.tile t).dirty
  let s := l.foldl (fun (s : State) e => s.setDirty (t / 256) e) s
  let s := s.modTile t (fun w => { w with dirty := [] })
  s.wake t (fun _ h => h == .logFull)

end Sys2Proof.Machine
end

