-- ==== Sys2Proof/Machine/Imposer.lean ====
section
/-! DEFINITION. Steps of the imposer tree (R319 to R328, R185 to R193): launches, broadcasts, folios, dealing,
dispatch, NEXT, ESTAT, CANCEL, completion records and reports. -/
namespace Sys2Proof.Machine

/-! ## The root -/

/-- The die whose loaded entry the root reads: the lowest one of the root package that has the context, or, when
that package is lost (R320), of another. -/
def State.rootDie (s : State) (a : Nat) : Nat :=
  let p := (s.root a).pkg
  match ((List.range 4).map (4 * p + ·)).find? (fun d => (s.ctx d a).valid) with
  | some d => d
  | none => ((s.dies.map (·.1)).find? (fun d => (s.ctx d a).valid)).getD (4 * p)

/-- Packages of a context's partition (R302). -/
def State.partPkgs (s : State) (a : Nat) : List Nat :=
  (List.range 512).filter (fun p => (s.ctx (s.rootDie a) a).pkgmask.getLsbD p)

/-- Tiles of a context's partition (R303). -/
def State.partTiles (s : State) (a : Nat) : List Nat :=
  s.dies.flatMap (fun (e : Nat × Die) =>
    ((List.range 256).map (256 * e.1 + ·)).filter (s.inPartition (s.rootDie a) a))

/-- The first request of a context, if the root serves it. -/
def State.firstReq (s : State) (a : Nat) : Option Req :=
  if (s.root a).open then (s.root a).reqs.head? else none

/-- The first request is served. -/
def State.dropReq (s : State) (a : Nat) : State := s.modRoot a (fun r => { r with reqs := r.reqs.drop 1 })

/-- A write that an imposer makes on behalf of a context (R188, R196), where it translates to writable device
memory. -/
def State.recordWrite (s : State) (a : Nat) (va : W64) (bs : List Byte) : State :=
  match s.walk (s.rootDie a) a va.toNat with
  | none => s
  | some f =>
    match leafLoc f.pte va.toNat with
    | .dev pa => if pteW f.pte then s.writeSegs .firmware a va.toNat [(.dev pa, bs.length)] bs else s
    | .spad _ _ => s
    | .host _ => s

/-- The completion word translates to writable device memory (R187). -/
def State.wordOk (s : State) (a : Nat) (va : W64) : Bool :=
  match s.walk (s.rootDie a) a va.toNat with
  | some f => pteW f.pte && !pteHost f.pte
  | none => false

/-- A completion record (R188; the print of R392 is log entry 59). -/
def recordBytes (st seq ident : Nat) : List Byte := leBytes 8 (st * 2 ^ 62 + seq % 2 ^ 32 * 2 ^ 24 + ident)

/-! ## Launches (R185, R187, R189, R321) -/

/-- The lowest identifier that no edition holds (R61, R321). -/
def Root.freeIdent (r : Root) : Option Nat :=
  let used := r.editions.map (·.ident)
  ((List.range (used.length + 1)).find? (fun i => !used.contains i)).filter (fun i => decide (i < 0xFFFFFF))

/-- Reasons of a refusal, lowest first (R189). -/
def State.refusals (s : State) (a : Nat) (d : Desc) : List Nat :=
  let r := s.root a
  let c := s.ctx (s.rootDie a) a
  let tiles := (s.partTiles a).filter (fun t => (s.tile t).carries a d)
  (if a = 0 ∨ c.valid = false ∨ c.pkgmask.getLsbD r.pkg = false then [1] else []) ++
    (if tiles.isEmpty then [2] else []) ++
    (if d.gang ∧ tiles.length < d.total then [3] else []) ++
    (if r.freeIdent = none then [4] else []) ++
    (if s.wordOk a d.word then [] else [5])

/-- The edition of an accepted launch. -/
def newEdition (ident seq : Nat) (d : Desc) (uid : Nat) (own : TokOwner) (tok : TokReg) (tile : Nat)
    (pred : Option Nat) (clk : Nat) : Edition where
  ident := ident
  seq := seq
  desc := d
  uid := uid
  own := own
  tok := tok
  tile := tile
  state := .running
  kill := false
  pred := pred
  arrived := []
  eligible := []
  atRoot := [(0, d.total)]
  atPkg := []
  atDie := []
  dealt := []
  next := 0
  done := 0
  dropped := 0
  killed := 0
  folios := []
  reported := []
  reports := []
  merged := Report.empty
  reportRead := false
  begun := clk
  gangStart := none
  gangOn := false
  slice := 0
  late := []
  sliceAt := 0
  gangAsk := false
  timed := []
  gangTiles := []
  cancels := []

/-- A launch is accepted (R321): number, identifier, start record, broadcast. -/
def State.accept (s : State) (a tile uid : Nat) (own : TokOwner) (tok : TokReg) (d : Desc) (ident : Nat) : State :=
  let r := s.root a
  let pred := if d.after then r.last.find uid else none
  let e := newEdition ident r.seq d uid own tok tile pred s.clk
  let s := s.setRoot a { r with
    seq := r.seq + 1
    last := r.last.ins uid r.seq
    editions := r.editions ++ [e] }
  let s := s.recordWrite a d.word (recordBytes 1 r.seq ident)
  (s.partPkgs a).foldl (fun (s : State) p =>
    s.post .editionBroadcast { asid := a, ident := ident, pkg := p }) s

/-- R321: the root takes the first launch: refused with the lowest reason, or accepted. -/
def execLaunchAccept (s : State) : Host.Outcome State Fault Refusal :=
  let a := s.ev.asid
  match s.firstReq a with
  | some (.launch tile uid own tok d) =>
    let s := s.dropReq a
    match s.refusals a d, (s.root a).freeIdent with
    | [], some ident => .next (s.accept a tile uid own tok d ident)
    | l, _ =>
      let s := if l.contains 5 then s else s.recordWrite a d.word (recordBytes 3 0 0xFFFFFF)
      .next (s.tokenDone tile own tok (some (BitVec.ofNat 64 (0x0B * 2 ^ 56 + l.headD 4))))
  | _ => .next s

/-! ## Eligibility (R322) -/

/-- The predecessor of an edition with the after flag has its final record, or there is none. -/
def Root.predDone (r : Root) (e : Edition) : Bool :=
  match e.pred with
  | none => true
  | some n => r.editions.all (fun x => x.seq != n || x.state == .complete)

/-- The dies of a package look for work. -/
def State.dealDies (s : State) (p : Nat) : State :=
  (List.range 4).foldl (fun (s : State) i => s.post .blockDeal { die := 4 * p + i }) s

/-- Free tiles of a die that are eligible for an edition (R324). -/
def State.freeTiles (s : State) (a d : Nat) (e : Edition) : Nat :=
  (((List.range 256).map (256 * d + ·)).filter (fun t => (s.tile t).free && s.eligible a t e.desc)).length

/-- A die asks for a folio (R324). -/
def State.dieNeeds (s : State) (a d : Nat) (e : Edition) : Bool :=
  decide (rangesCount (e.atDie.get [] d) < s.freeTiles a d e)

/-- A package asks for a folio (R324). -/
def State.pkgNeeds (s : State) (a p : Nat) (e : Edition) : Bool :=
  decide (e.undealtAt p < (List.range 4).foldl (fun n i => n + s.freeTiles a (4 * p + i) e) 0)

/-- A folio is asked for, once: requests are served at the end of the clk in which they arrive (R324). -/
def State.askFolio (s : State) (x : EvArg) : State :=
  if (s.agenda ++ s.late).contains (.happen .folioRequest x) then s else s.atEnd .folioRequest x

/-- An edition begins at a package: it asks for its first folio, and its dies deal. A gang edition waits for its
first slice, chosen 2·L after it can start everywhere (R335). -/
def State.startAt (s : State) (a ident p : Nat) : State :=
  match s.edition a ident with
  | none => s
  | some e =>
    if e.desc.gang then
      if e.gangStart = none ∧ (s.partPkgs a).all (fun q => (e.eligible.find q).isSome) then
        s.post .gangPreSliceRequest { asid := a, ident := ident, n := e.seq, k := 2 }
      else s
    else
      (if s.pkgNeeds a p e then s.askFolio { asid := a, ident := ident, pkg := p, flag := true }
      else s).dealDies p

/-- One edition in sequence order; `ok` while every earlier one is eligible at the package. -/
def State.eligibleStep (a p : Nat) (x : State × Bool) (e : Edition) : State × Bool :=
  if x.2 = false then x
  else if e.state = .complete ∨ (e.eligible.find p).isSome then x
  else if e.arrived.contains p ∧ (x.1.root a).predDone e then
    let now := x.1.clk
    ((x.1.modEdition a e.ident (fun e => { e with eligible := e.eligible.ins p now })).startAt a e.ident p, true)
  else (x.1, false)

/-- Editions become eligible at a package, in sequence order (R322). -/
def State.makeEligible (s : State) (a p : Nat) : State :=
  ((s.root a).editions.foldl (State.eligibleStep a p) (s, true)).1

/-- R322: the broadcast arrives at a package. -/
def execEditionBroadcast (s : State) : Host.Outcome State Fault Refusal :=
  let a := s.ev.asid
  let p := s.ev.pkg
  .next ((s.modEdition a s.ev.ident (fun e => { e with
    arrived := if e.arrived.contains p then e.arrived else e.arrived ++ [p] })).makeEligible a p)

/-! ## Folios (R324) -/

/-- Take up to n blocks from the lowest range: a folio ends at the first gap. -/
def rangesTake (l : List (Nat × Nat)) (n : Nat) : Option ((Nat × Nat) × List (Nat × Nat)) :=
  match l with
  | [] => none
  | (f, c) :: rest => if c ≤ n then some ((f, c), rest) else some ((f, n), (f + n, c - n) :: rest)

/-- Add a range in index order, joining what is consecutive. -/
def rangesPut (l : List (Nat × Nat)) (r : Nat × Nat) : List (Nat × Nat) :=
  match l with
  | [] => [r]
  | (f, c) :: rest =>
    if r.1 + r.2 < f then r :: (f, c) :: rest
    else if r.1 + r.2 = f then (r.1, r.2 + c) :: rest
    else if f + c = r.1 then
      match rest with
      | (g, k) :: more => if r.1 + r.2 = g then (f, c + r.2 + k) :: more else (f, c + r.2) :: rest
      | [] => [(f, c + r.2)]
    else (f, c) :: rangesPut rest r

/-- Blocks of a folio: u undealt at the node, over 2·P or 2·4. -/
def folioSize (u div : Nat) : Nat := Nat.min u (Nat.min 65536 (Nat.max 1 ((u + div - 1) / div)))

/-- The root gives a package a folio. -/
def State.rootFolio (s : State) (a p : Nat) (e : Edition) : State :=
  match rangesTake e.atRoot (folioSize (rangesCount e.atRoot) (2 * (s.partPkgs a).length)) with
  | none => s
  | some (r, rest) =>
    ((s.modEdition a e.ident (fun e => { e with
      atRoot := rest
      atPkg := e.atPkg.ins p (rangesPut (e.atPkg.get [] p) r)
      folios := if e.folios.contains p then e.folios else e.folios ++ [p]
      reported := e.reported.filter (· != p) })).dealDies p).settleEdition a e.ident

/-- A package gives a die a folio, and asks the root when it runs short. -/
def State.pkgFolio (s : State) (a d : Nat) (e : Edition) : State :=
  let p := d / 4
  let l := e.atPkg.get [] p
  let s := match rangesTake l (folioSize (rangesCount l) 8) with
    | none => s
    | some (r, rest) =>
      (s.modEdition a e.ident (fun e => { e with
        atPkg := e.atPkg.put [] p rest
        atDie := e.atDie.ins d (rangesPut (e.atDie.get [] d) r) })).post .blockDeal { die := d }
  match s.edition a e.ident with
  | none => s
  | some e =>
    if !e.atRoot.isEmpty && s.pkgNeeds a p e then
      s.askFolio { asid := a, ident := e.ident, pkg := p, flag := true }
    else s

/-- A request that arrived at the same node in the same clk, and goes first: of a lower package at the root, of a lower die
at a package. -/
def folioBefore (x : EvArg) : Turn → Bool
  | .happen .folioRequest y => x.asid == y.asid && x.flag == y.flag &&
      (if x.flag then decide (y.pkg < x.pkg) else x.pkg == y.pkg && decide (y.die < x.die))
  | .happen _ _ => false
  | .issue _ => false
  | .tick => false

/-- R324: a folio request is served with at most one folio; `flag` marks a package's request to the root. -/
def execFolioRequest (s : State) : Host.Outcome State Fault Refusal :=
  let a := s.ev.asid
  if s.agenda.any (folioBefore s.ev) then .next (s.post .folioRequest s.ev) else
  match s.edition a s.ev.ident with
  | none => .next s
  | some e =>
    if e.state ≠ .running then .next s
    else if s.ev.flag then .next (s.rootFolio a s.ev.pkg e)
    else .next (s.pkgFolio a s.ev.die e)

/-! ## Dealing (R323) -/

/-- The gang team or block that a running slice gives a tile (R335); in the last L of the slice, none. -/
def State.gangCand (s : State) (t : Nat) : Option Candidate :=
  s.roots.findSome? (fun (r : Nat × Root) => r.2.editions.findSome? (fun (e : Edition) =>
    if e.gangOn ∧ e.gangAsk = false then
      (e.gangTiles.find? (fun x => x.tile == t)).bind (fun x =>
        match (s.tile t).swapped.find? (fun y => y.team.is r.1 e.ident x.idx) with
        | some y => if y.final then some (.saved y.idx r.1) else none
        | none => some (.block r.1 e.ident x.idx))
    else none))

/-- A gang's slice starts within L on the tile: it is kept for it (R335; DESIGN CHOICE, log entry 43). -/
def State.gangKeeps (s : State) (t : Nat) : Bool :=
  s.roots.any (fun (r : Nat × Root) => r.2.editions.any (fun (e : Edition) =>
    e.gangAsk && !e.gangOn && e.state != .complete && e.gangTiles.any (fun x => x.tile == t)))

/-- The tile is given to a candidate: the block is dealt in this clk (R323). -/
def State.give (s : State) (t : Nat) (c : Candidate) : State :=
  match c with
  | .saved idx a =>
    (s.modTile t (fun w => { w with incoming := some c })).post .teamResume { tile := t, asid := a, n := idx }
  | .block a ident b =>
    (s.modTile t (fun w => { w with dispatch := some ⟨a, ident, b⟩ })).post .teamDispatch { tile := t }

/-- Deal the lowest undealt index of an edition at the die; the dealt block counts for the tile's barrier lines (R171). -/
def State.dealBlock (s : State) (t a ident : Nat) : State :=
  let d := t / 256
  match s.edition a ident with
  | none => s
  | some e =>
    match rangesTake (e.atDie.get [] d) 1 with
    | some (r, rest) =>
      ((s.modEdition a ident (fun e => { e with
        atDie := e.atDie.put [] d rest
        dealt := e.dealt ++ [⟨r.1, t⟩] })).barwTile t).give t (.block a ident r.1)
    | none => s

/-- Fill one free tile with its first candidate (R323). -/
def State.fillTile (s : State) (t : Nat) : State :=
  if (s.tile t).free = false || s.off t || s.gangKeeps t then s
  else
    match s.gangCand t with
    | some c => s.give t c
    | none =>
      match bestOf (s.candidates t) with
      | none => s
      | some r =>
        match r.what with
        | .saved idx a => s.give t (.saved idx a)
        | .block a ident _ => s.dealBlock t a ident

/-- No strand of the resident team is halted or parked (R329). -/
def Tile.preemptible (w : Tile) : Bool := w.anchored.all (fun e => e.2.run != .halted && e.2.run != .parked)

/-- A candidate of higher class of the same context, or the strand chosen for the all-asleep fault, waits for the tile of a
team that may be pre-empted (R329, R357). -/
def State.contends (s : State) (t : Nat) : Bool :=
  let w := s.tile t
  w.team.any (fun m => !m.yreq && w.preemptible && (s.waitingFor t).any (fun c =>
    c.first || (c.asid == m.asid && decide (classOf w.anchored < c.cls))))

/-- Then it sets the yield request at once. -/
def State.contend (s : State) (t : Nat) : State := if s.contends t then s.setYreq t else s

/-- A package short of an edition's blocks asks the root, and a die its package (R324). -/
def State.askFor (s : State) (d a : Nat) (e : Edition) : State :=
  let p := d / 4
  if e.state = .running ∧ e.desc.gang = false ∧ (e.eligible.find p).isSome then
    let short := !e.atRoot.isEmpty && s.pkgNeeds a p e
    let s := if short then s.askFolio { asid := a, ident := e.ident, pkg := p, flag := true } else s
    if (short || !(e.atPkg.get [] p).isEmpty) && s.dieNeeds a d e then
      s.askFolio { asid := a, ident := e.ident, die := d, pkg := p }
    else s
  else s

/-- A die with free tiles asks for folios (R324). -/
def State.askFolios (s : State) (d : Nat) : State :=
  s.roots.foldl (fun (s : State) (r : Nat × Root) => r.2.editions.foldl (fun (s : State) (e : Edition) =>
    s.askFor d r.1 e) s) s

/-- R323: the die imposer asks for blocks where it is short of them, and fills its free tiles, lowest address first. -/
def execBlockDeal (s : State) : Host.Outcome State Fault Refusal :=
  let d := s.ev.die
  let tiles := (List.range 256).map (256 * d + ·)
  let s := tiles.foldl State.fillTile (s.askFolios d)
  .next ((((s.tiles.map (·.1)).filter (fun t => t / 256 == d))).foldl State.contend s)

/-! ## Dispatch (R56, R344) -/

/-- Operand ranges of a descriptor for a block, read from its list: base, length, intent (R344). -/
def State.operandRanges (s : State) (d a b : Nat) (x : Desc) : List (Nat × Nat × Nat) :=
  (List.range x.ranges).filterMap (fun i =>
    let va := x.list.toNat + 16 * i
    match s.walk d a va with
    | none => none
    | some f =>
      match leafLoc f.pte va with
      | .dev pa =>
        let base := (Memory.dword s.mem pa).toNat
        let w := (Memory.dword s.mem (pa + 8)).toNat
        let len := field w 39 0
        let intent := field w 63 62
        if pteR f.pte = false ∨ s.poisoned pa 16 ∨ len = 0 ∨ intent = 3 then none
        else some (base + b * field w 61 40 * 4096, len, intent)
      | .spad _ _ => none
      | .host _ => none)

/-- A leaf grants the permissions of an intent (R344). -/
def intentOk (leaf : W64) (intent : Nat) : Bool :=
  (intent == 1 || pteR leaf) && (intent == 0 || pteW leaf)

/-- One page of a range, with `room` entries left (R344): a leaf that grants the intent is loaded; a page that is not
present is requested of the memory manager; an attribute alias has its notice (R346); a walk that meets a malformed
entry is skipped. With it, the address of the next page. -/
def State.prePage (s : State) (t a va intent room : Nat) : State × Nat × Nat :=
  let d := t / 256
  match s.fill d a va with
  | .entry filled e =>
    if intentOk e.leaf intent && room != 0 then
      (filled.modTile t (fun w => { w with tlb := tlbAdd 64 w.tlb e }), room - 1, e.va + e.size)
    else (filled, room, e.va + e.size)
  | .conflict f pa tag =>
    let size := pageBytes (pteSize f.pte)
    (s.clashNotice d a va f pa tag, room, va / size * size + size)
  | .absent =>
    let q : MMReq := ⟨a, BitVec.ofNat 64 va⟩
    (if walkVacant s.mem va 5 0 (s.ctx d a).ptroot then
      s.modDie d (fun x => { x with mm := if x.mm.contains q then x.mm else x.mm ++ [q] })
    else s, room, va / 4096 * 4096 + 4096)

/-- Walk the pages of a range; `fuel` is at least their number. -/
def State.preRange (s : State) (t a : Nat) (fuel va stop intent room : Nat) : State × Nat :=
  match fuel with
  | 0 => (s, room)
  | fuel + 1 =>
    if stop ≤ va ∨ 2 ^ 56 ≤ va then (s, room)
    else
      let (s, room, va) := s.prePage t a va intent room
      State.preRange s t a fuel va stop intent room

/-- Pre-translation before a dispatch: up to 48 entries in all (R344). -/
def State.preTranslate (s : State) (t a b : Nat) (x : Desc) : State :=
  ((s.operandRanges (t / 256) a b x).foldl (fun (y : State × Nat) (r : Nat × Nat × Nat) =>
    State.preRange y.1 t a (r.2.1 / 4096 + 2) r.1 (r.1 + r.2.1) r.2.2 y.2) (s, 48)).1

/-- R56: the block becomes the tile's team; idle slots may now steal, since the tile holds a grant (R62). -/
def execTeamDispatch (s : State) : Host.Outcome State Fault Refusal :=
  let t := s.ev.tile
  match (s.tile t).dispatch with
  | none => .next s
  | some x =>
    match s.edition x.asid x.ident with
    | none => .next (s.modTile t (fun w => { w with dispatch := none }))
    | some e =>
      let s := if e.desc.ranges = 0 then s else s.preTranslate t x.asid x.idx e.desc
      .next ((s.placeTeam t x.asid x.ident x.idx e.desc).offer t)

/-! ## NEXT, ESTAT (R60, R190, R191, R325) -/

/-- An answer on its way to a tile. -/
def State.answer (s : State) (tile : Nat) (own : TokOwner) (a : Nat) (tok : TokReg) (dst : Option W64)
    (bs : List Byte) (asked : Option Point) (ident : Option Nat) (delay : Nat) : State :=
  let x : ImpAnswer := ⟨s.fresh, tile, own, a, tok, dst, bs, none, asked, ident⟩
  let s := { s with fresh := s.fresh + 1, answers := s.answers ++ [x] }
  if delay = 0 then s.post .imposerAnswer { n := x.n } else s.later delay .imposerAnswer { n := x.n }

/-- R325: the next work index, or all ones; the answer arrives 60 clk after the issue (R285)
(DESIGN CHOICE, log entry 43). -/
def execNextService (s : State) : Host.Outcome State Fault Refusal :=
  let a := s.ev.asid
  match s.firstReq a with
  | some (.next tile own tok p ident dst) =>
    let s := s.dropReq a
    match s.edition a ident with
    | some e =>
      if e.state = .running ∧ e.next < e.desc.work then
        .next ((s.modEdition a ident (fun e => { e with next := e.next + 1 })).answer tile own a tok (some dst)
          (leBytes 4 e.next) (some p) (some ident) 60)
      else .next (s.answer tile own a tok (some dst) (leBytes 4 0xFFFFFFFF) (some p) (some ident) 60)
    | none => .next (s.answer tile own a tok (some dst) (leBytes 4 0xFFFFFFFF) (some p) none 60)
  | _ => .next s

/-- R191 state code. -/
def EdState.code : EdState → Nat
  | .running => 0
  | .cancelling => 1
  | .complete => 2

/-- The first block indices of a class (R191). -/
def Report.entries (x : Report) (c : Nat) : List Byte :=
  let l := x.firsts.filter (fun f => f.cls == c)
  (List.range 8).flatMap (fun i => match l[i]? with
    | some f => leBytes 8 (2 ^ 63 + f.idx)
    | none => leBytes 8 0)

/-- The status record (R191). -/
def Edition.status (e : Edition) : List Byte :=
  leBytes 8 (e.seq % 2 ^ 32 * 2 ^ 32 + e.state.code * 2 ^ 24 + e.ident) ++ leBytes 8 e.desc.total ++
    leBytes 8 e.done ++ leBytes 8 e.dealt.length ++ leBytes 8 e.dropped ++ leBytes 8 e.killed ++
    leBytes 8 e.next ++ leBytes 8 e.merged.lost ++
    e.merged.counts.toList.flatMap (leBytes 4) ++ List.replicate 32 0 ++
    (List.range 8).flatMap e.merged.entries ++
    (match e.merged.packet with
      | some p => p.2.bytes
      | none => List.replicate 128 0)

/-- R191: a snapshot at the root; a record with state 10 frees the identifier (R61). -/
def execEstatSnapshot (s : State) : Host.Outcome State Fault Refusal :=
  let a := s.ev.asid
  match s.firstReq a with
  | some (.estat tile own tok p ident dst) =>
    let s := s.dropReq a
    match s.edition a ident.toNat with
    | some e =>
      let s := if e.state = .complete then
          s.modRoot a (fun r => { r with editions := (r.editions.map (fun x =>
            if x.ident = e.ident then { x with reportRead := true } else x)).filter (fun x => !x.reportRead) })
        else s
      .next (s.answer tile own a tok (some dst) e.status (some p) none 0)
    | none => .next (s.answer tile own a tok (some dst) (leBytes 8 (3 * 2 ^ 24) ++ List.replicate 760 0) (some p) none 0)
  | _ => .next s

/-- R190: the answer is registered in the scratchpad, after the strand's earlier stores (R93), then completes its
token. -/
def execImposerAnswer (s : State) : Host.Outcome State Fault Refusal :=
  match s.answers.find? (fun x => x.n == s.ev.n) with
  | none => .next s
  | some x =>
    if x.asked.any (s.tile x.tile).openBefore then .next (s.later 1 .imposerAnswer s.ev) else
    let s := { s with answers := s.answers.filter (fun y => y.n != x.n) }
    let s := match x.dst with
      | none => s
      | some d =>
        match Space.of d with
        | .tile t off => s.storeAt .firmware x.tile x.asid none d (.spad t off) x.bytes
        | .virt => s
        | .localOff _ => s
        | .none => s
    let s := (s.tokenDone x.tile x.own x.tok x.err).rootSettle x.asid
    .next (match x.ident with
      | some i => s.settleEdition x.asid i
      | none => s)

/-! ## CANCEL (R193, R328) -/

/-- R328: served at the root at once; a complete or unknown edition completes the token at once (R193). -/
def execCancelService (s : State) : Host.Outcome State Fault Refusal :=
  let a := s.ev.asid
  match s.firstReq a with
  | some (.cancel tile own tok ident kill) =>
    let s := s.dropReq a
    match s.edition a ident.toNat with
    | none => .next (s.answer tile own a tok none [] none none 0)
    | some e =>
      if e.state = .complete then .next (s.answer tile own a tok none [] none none 0)
      else
        .next ((s.modEdition a e.ident (fun e => { e with cancels := e.cancels ++ [(tile, own, tok)] })).cancelEdition
          a e.ident kill)
  | _ => .next s

/-- R328: undealt blocks of a package are dropped; with kill, its dealt blocks are killed (R193). -/
def execCancelBroadcast (s : State) : Host.Outcome State Fault Refusal :=
  let a := s.ev.asid
  let i := s.ev.ident
  let p := s.ev.pkg
  match s.edition a i with
  | none => .next s
  | some e =>
    if e.state ≠ .cancelling then .next s
    else
      let s := s.modEdition a i (fun e => e.stopPkg p)
      let s := if s.ev.flag then
          (e.dealt.filter (fun x => x.tile / 1024 == p)).foldl (fun (s : State) x => s.killBlock a i x.idx) s
        else s
      .next (s.settleEdition a i)

/-! ## Reports (R326, R327) -/

/-- Earlier by pod time, package, index (R327). -/
def FirstFault.before (a b : FirstFault) : Bool :=
  decide (a.time.toNat < b.time.toNat) || (a.time == b.time && (decide (a.pkg < b.pkg) ||
    (a.pkg == b.pkg && decide (a.idx < b.idx))))

/-- Insert in that order. -/
def insertFirst (f : FirstFault) (l : List FirstFault) : List FirstFault :=
  match l with
  | [] => [f]
  | g :: rest => if f.before g then f :: g :: rest else g :: insertFirst f rest

/-- The entries of two reports, the first 8 of each class. -/
def mergeFirsts (a b : List FirstFault) : List FirstFault :=
  let l := (a ++ b).foldr insertFirst []
  (List.range 8).flatMap (fun c => (l.filter (fun f => f.cls == c)).take 8)

/-- The root merges a package's report (R327). -/
def Report.merge (a b : Report) : Report where
  counts := Vector.ofFn (fun i => satAdd a.counts[i] b.counts[i])
  firsts := mergeFirsts a.firsts b.firsts
  packet := earlierPacket a.packet b.packet
  lost := satAdd a.lost b.lost

/-- Nothing to report (R188). -/
def Edition.clean (e : Edition) : Bool :=
  e.state == .running && e.merged.counts.toList.all (· == 0) && e.killed == 0 && e.dropped == 0 && e.merged.lost == 0

/-- A NEXT request of the edition, or its answer, is in flight (R326). -/
def State.asksFor (s : State) (a ident : Nat) : Bool :=
  (s.root a).reqs.any (fun q => match q with
    | .next _ _ _ _ i _ => i == ident
    | .launch _ _ _ _ _ => false
    | .estat _ _ _ _ _ _ => false
    | .cancel _ _ _ _ _ => false) ||
  s.answers.any (fun x => x.asid == a && x.ident == some ident)

/-- The root takes in what the packages have counted (R327). -/
def Edition.gather (e : Edition) (ps : List Nat) : Edition :=
  { e with
    reported := (e.reported ++ ps).dedup
    merged := ps.foldl (fun m p => m.merge (e.reports.get Report.empty p)) e.merged
    reports := e.reports.filter (fun x => !ps.contains x.1) }

/-- The final record, then the tokens (R326, R193), and the host's entry (R337); editions that waited for it may begin
(R322). -/
def State.finish (s : State) (a : Nat) (e : Edition) : State :=
  let s := s.recordWrite a e.desc.word (recordBytes (if e.clean then 2 else 3) e.seq e.ident)
  let s := s.modEdition a e.ident (fun e => { e with state := .complete, cancels := [], gangOn := false, gangAsk := false })
  let s := s.tokenDone e.tile e.own e.tok none
  let s := e.cancels.foldl (fun (s : State) c => s.tokenDone c.1 c.2.1 c.2.2 none) s
  let s := s.editionEntry (s.root a).pkg a e.seq
  let s := (s.partPkgs a).foldl (fun (s : State) p => s.makeEligible a p) s
  s.rootSettle a

/-- R327: a package's report is merged; when every index is accounted for, every report is there and no request is in
flight, the root writes the final record (R326). -/
def execPackageReport (s : State) : Host.Outcome State Fault Refusal :=
  let a := s.ev.asid
  match s.edition a s.ev.ident with
  | none => .next s
  | some e =>
    if e.state = .complete then .next s
    else
      let e := e.gather (if e.quietAt s.ev.pkg && !e.reported.contains s.ev.pkg then [s.ev.pkg] else [])
      let s := s.modEdition a e.ident (fun _ => e)
      if e.over && e.reporters.all (fun q => e.reported.contains q) && !s.asksFor a e.ident then
        let e := e.gather (e.reports.map (·.1))
        .next ((s.modEdition a e.ident (fun _ => e)).finish a e)
      else .next s

end Sys2Proof.Machine
end

