-- ==== Sys2Proof/Machine/HostQueue.lean ====
section
/-! DEFINITION. What the host writes to BAR0 (R365), the doorbell latch of P4 (R369), and the taking of commands
from their queues (R364, R366, R367). -/
namespace Sys2Proof.Machine

/-! ## Bring-up and power of a package -/

/-- clk of 1 ms (R4). -/
abbrev clkPerMs : Nat := 1600000

/-! ## Taking commands (R366, R367) -/

/-- The steps of the repair, secure and power commands, by action, request or state (R366). -/
def repairStep (action : Nat) : Option Instr :=
  match action with
  | 1 => some .repairTileRow
  | 2 => some .repairMacro
  | 3 => some .repairLp6Channel
  | 4 => some .repairLane
  | 5 => some .repairPackageBypass
  | 6 => some .repairFrameRetire
  | _ => none

def secureStep (request : Nat) : Option Instr :=
  match request with
  | 1 => some .secureSetDebugLevel
  | 2 => some .secureLoadKey
  | 3 => some .secureZeroKey
  | _ => none

def powerStep (state : Nat) : Option Instr :=
  match state with
  | 0 => some .powerP0
  | 2 => some .powerP2
  | 3 => some .powerP3
  | 4 => some .powerP4
  | _ => none

/-- The step of a command, or the status that turns it away: 1 without a row, 2 for an action, request or state
that its row does not have. -/
def commandStep (w : List W64) : Except Nat Instr :=
  let w1 := (w.getD 1 0).toNat
  let sub (x : Option Instr) : Except Nat Instr := match x with
    | some e => .ok e
    | none => .error 2
  match field (w.getD 0 0).toNat 63 56 with
  | 0x01 => .ok .cmdActive
  | 0x02 => .ok .cmdTensor
  | 0x03 => .ok .cmdPlatetag
  | 0x04 => .ok .cmdFrame
  | 0x05 => .ok .cmdContext
  | 0x06 => .ok .cmdRelease
  | 0x07 => sub (repairStep (field w1 7 0))
  | 0x08 => sub (secureStep (field w1 3 0))
  | 0x09 => sub (powerStep (field w1 2 0))
  | 0x0A => .ok .cmdAttest
  | 0x0B => .ok .cmdSealed
  | 0x0C => .ok .cmdYield
  | 0x0D => .ok .cmdResetcore
  | _ => .error 1

/-- Opcodes that only function 0 may issue (R366). -/
def pfOnly (op : Nat) : Bool := [0x05, 0x06, 0x07, 0x08, 0x09, 0x0B, 0x0C, 0x0D].contains op

/-- The doublewords of some bytes. -/
def dwords (bs : List Byte) : List W64 :=
  (List.range (bs.length / 8)).map (fun i => BitVec.ofNat 64 (leNat ((bs.drop (8 * i)).take 8)))

/-- The queue may give its next command (R365, R367, R371). -/
def Package.ready (x : Package) (f q : Nat) : Bool :=
  let n := x.fn f
  let c := n.queue q
  x.done 6 && x.pstate != 4 && x.coreLive 0 && n.even && c.en && !c.blocked && c.head != c.tail

/-- Where the next command of a queue stands in `State.mem`. -/
def CmdQueue.slot (c : CmdQueue) : Nat := 2 ^ 64 + (c.base.toNat + 64 * (c.head.toNat % 2 ^ (4 + c.size))) % 2 ^ 64

/-- A host read of n bytes completes poisoned. -/
def State.hostPoisoned (s : State) (bus n : Nat) : Bool := s.poisoned (2 ^ 64 + bus % 2 ^ 64) n

/-- A step of a power command of a package that is still to come. -/
def Turn.powers (p : Nat) (x : Turn) : Bool :=
  match x with
  | .happen .powerP0 a | .happen .powerP2 a | .happen .powerP3 a | .happen .powerP4 a => a.pkg == p
  | _ => false

/-- The step of a command follows; a security change goes before a power change that has arrived with it (R313). -/
def State.postCommand (s : State) (op : Nat) (e : Instr) (x : EvArg) : State :=
  if op = 0x08 then
    { s with agenda := s.agenda.takeWhile (fun y => !y.powers x.pkg) ++ .happen e x ::
        s.agenda.dropWhile (fun y => !y.powers x.pkg) }
  else s.post e x

/-- The pending-kick bit of a queue is set: core 1 has a command of it to journal (R373). -/
def Package.kick (x : Package) (key : Nat) : Package :=
  { x with kicks := if x.kicks.contains key then x.kicks else x.kicks ++ [key] }

/-- Take the next command of a queue, if there is one and its core is live. The queue's kick bit is set when core 1 is handed
the command, or would be (R373). `bad`: the host read of the command fails (DESIGN CHOICE, log entry 30). -/
def State.takeCommand (s : State) (p f q : Nat) (bad : HostStatus) (operands : Bool) : State :=
  let x := s.pkg p
  if x.ready f q = false then s
  else
    let c := (x.fn f).queue q
    let w := dwords (Memory.readN s.mem c.slot 64)
    let d := (w.getD 0 0).toNat
    let op := field d 63 56
    let core := opCore op
    if x.coreLive core = false ∨ (d.testBit 48 ∧ x.coreLive 5 = false) then
      if core = 1 then s.modPkg p (·.kick (16 * f + q)) else s
    else
      let s := s.modFn p f (fun n => n.modQueue q (fun c => { c with head := c.head + 1, blocked := true }))
      let refuse (n : Nat) : State := s.cmdDone p f q core (field d 47 32) n 0
      if (bad ≠ .ok ∧ operands = false) ∨ s.poisoned c.slot 64 then refuse 8
      else if pfOnly op && f != 0 then refuse 1
      else
        match commandStep w with
        | .error n => refuse n
        | .ok e =>
          (if core = 1 then s.modPkg p (·.kick (16 * f + q)) else s).postCommand op e
            { pkg := p, n := f, k := q, words := w, status := bad }

/-- A doorbell value: at most the ring size ahead of the head; the surplus is one error event with status 2
(R365). -/
def State.ringDoorbell (s : State) (p f q : Nat) (v : W32) : State :=
  let c := (s.fn p f).queue q
  let past := decide (2 ^ (4 + c.size) < (v - c.head).toNat)
  let tail := if past then c.head + BitVec.ofNat 32 (2 ^ (4 + c.size)) else v
  let s := s.modFn p f (fun x => x.modQueue q (fun c => { c with tail := tail }))
  if past then s.hostOpen p f 2 q (some 2) else s

/-- Every queue of a function is looked at. -/
def State.lookQueues (s : State) (p f : Nat) : State :=
  (s.fn p f).queues.foldl (fun (s : State) (e : Nat × CmdQueue) => s.post .doorbell { pkg := p, n := f, k := e.1, flag := true }) s

/-! ## BAR0 (R365) -/

/-- The register of a queue at an offset: queue and offset within it. -/
def queueReg (off : Nat) : Option (Nat × Nat) :=
  if 0x1000 ≤ off ∧ off < 0x1400 then some ((off - 0x1000) / 0x40, (off - 0x1000) % 0x40) else none

/-- evsize and even are written; the ring that is enabled takes what waits, and the queues go on (R371). Event rings
may be enabled from bring-up step 6 on (R376) (DESIGN CHOICE, log entry 31). -/
def State.writeEven (s : State) (p f : Nat) (v : W64) : State :=
  let on := v.getLsbD 4 && (s.pkg p).done 6
  let s := s.modFn p f (fun x => { x with even := on, evsize := field v.toNat 3 0 })
  if on then (s.drainRing p f).lookQueues p f else s

/-- qbase, or qen and qsize: base and size keep their values while the queue is enabled. -/
def CmdQueue.write (c : CmdQueue) (off : Nat) (v : W64) : CmdQueue :=
  match off with
  | 0x00 => if c.en then c else { c with base := v }
  | 0x08 => if c.en then { c with en := v.getLsbD 4 } else { c with en := v.getLsbD 4, size := field v.toNat 3 0 }
  | _ => c

/-- A write to BAR0 of a function takes effect (R365). -/
def State.bar0Write (s : State) (p f off : Nat) (v : W64) : State :=
  match off with
  | 0x08 => s.modFn p f (fun x => { x with evbase := v })
  | 0x10 => s.writeEven p f v
  | 0x20 => (s.modFn p f (fun x => { x with evtail := v })).drainRing p f
  | 0x30 => s.modFn p f (fun x => { x with evovf := x.evovf &&& ~~~(v.setWidth 16) })
  | _ =>
    match queueReg off with
    | some (q, 0x10) => (s.ringDoorbell p f q (v.setWidth 32)).post .doorbell { pkg := p, n := f, k := q, flag := true }
    | some (q, o) =>
      (s.modFn p f (fun x => x.modQueue q (fun c => c.write o v))).post .doorbell { pkg := p, n := f, k := q, flag := true }
    | none => s

/-- What a register of a queue reads as; qtail is write-only (R365). -/
def CmdQueue.read (c : CmdQueue) (off : Nat) : W64 :=
  match off with
  | 0x00 => c.base
  | 0x08 => BitVec.ofNat 64 ((if c.en then 16 else 0) + c.size % 16)
  | 0x18 => c.head.setWidth 64
  | _ => 0

/-- What a register of function `f` reads as; unlisted offsets read 0 (R365). -/
def Fn.read (x : Fn) (f off : Nat) : W64 :=
  match off with
  | 0x00 => BitVec.ofNat 64 (f % 256)
  | 0x08 => x.evbase
  | 0x10 => BitVec.ofNat 64 ((if x.even then 16 else 0) + x.evsize % 16)
  | 0x18 => x.evhead
  | 0x20 => x.evtail
  | 0x28 => x.evlost
  | 0x30 => x.evovf.setWidth 64
  | _ =>
    match queueReg off with
    | some (q, o) => (x.queue q).read o
    | none => 0

/-- What the host reads at an offset of BAR0 of a function; none while nothing answers: before bring-up step 2, and until
the wake from P4 has ended (R365, R369, R376). It changes nothing. -/
def State.bar0Read (s : State) (p f off : Nat) : Option W64 :=
  let x := s.pkg p
  if x.done 2 = false ∨ 256 ≤ f ∨ x.pstate = 4 ∨ x.waking then none else some ((x.fn f).read f off)

/-- What the physical function's status register reads: the number of the bring-up step that failed, else 0; R365 gives it no
offset (R376; DESIGN CHOICE, log entry 33). -/
def Package.statusReg (x : Package) : Nat := if x.failed then x.step else 0

/-! ## The doorbell latch (R369) -/

/-- The queue whose doorbell stands at an offset. -/
def tailReg (off : Nat) : Option Nat :=
  match queueReg off with
  | some (q, 0x10) => some q
  | _ => none

/-- A latched tail: a later one replaces it in its place. -/
def Package.latchTail (x : Package) (key : Nat) (v : W32) : Package :=
  if x.tails.any (fun e => e.1 == key) then
    { x with tails := x.tails.map (fun (e : Nat × W32) => if e.1 = key then (key, v) else e) }
  else { x with tails := x.tails ++ [(key, v)] }

/-- Another write is kept, up to 64, or discarded and counted. -/
def Package.latchOther (x : Package) (f off : Nat) (v : W64) : Package :=
  if x.writes.length < 64 then { x with writes := x.writes ++ [(f, off, v)] } else { x with discards := x.discards + 1 }

/-- The latch holds no write. -/
def Package.latchEmpty (x : Package) : Bool := x.writes.isEmpty && x.tails.isEmpty

/-- A write taken by the latch. -/
def Package.latch (x : Package) (f off : Nat) (v : W64) : Package :=
  match tailReg off with
  | some q => x.latchTail (16 * f + q) (v.setWidth 32)
  | none => x.latchOther f off v

/-- The exit from P4, 2 ms long, starts (R379). -/
def State.startWake (s : State) (p : Nat) : State :=
  (s.modPkg p (fun x => { x with waking := true })).later (2 * clkPerMs) .powerExitComplete { pkg := p, k := 4 }

/-- The latch takes a write, and the first one starts the exit from P4. -/
def State.latchWrite (s : State) (p f off : Nat) (v : W64) : State :=
  let first := !(s.pkg p).waking
  let s := s.modPkg p (fun x => x.latch f off v)
  if first then s.startWake p else s

/-- A write to BAR0: to the latch in P4 and while waking, until core 0 is live; during the replay, as long as what it would
overtake is not replayed (R369) (DESIGN CHOICE, log entry 31). -/
def State.bar0 (s : State) (p f off : Nat) (v : W64) : State :=
  let x := s.pkg p
  if x.done 2 = false ∨ 256 ≤ f then s
  else if x.pstate = 4 then s.latchWrite p f off v
  else if x.waking = false then s.bar0Write p f off v
  else if x.coreLive 0 = false then s.modPkg p (fun x => x.latch f off v)
  else
    match tailReg off with
    | some q =>
      if x.tails.any (fun e => e.1 == 16 * f + q) then s.modPkg p (fun x => x.latchTail (16 * f + q) (v.setWidth 32))
      else s.bar0Write p f off v
    | none => if x.writes.isEmpty then s.bar0Write p f off v else s.modPkg p (fun x => x.latchOther f off v)

/-! ## Steps -/

/-- R365, R367: a doorbell write of queue `k` of function `n`; with `flag`, the device goes on taking commands.
`status` is how the host answers the read of the command, or, with `lane` 1, those of its operands. -/
def execDoorbell (s : State) : Host.Outcome State Fault Refusal :=
  let x := s.ev
  if x.flag then .next (s.takeCommand x.pkg x.n x.k .ok false)
  else if x.k < 16 then
    let s := s.bar0 x.pkg x.n (0x1010 + 0x40 * x.k) x.value
    .next (if x.status = .ok then s else s.takeCommand x.pkg x.n x.k x.status (x.lane == 1))
  else .next s

/-- R369: a write to BAR0 offset `k` of function `n` in P4 is kept and starts the wake. -/
def execDoorbellLatch (s : State) : Host.Outcome State Fault Refusal :=
  let x := s.ev
  .next (if (s.pkg x.pkg).pstate = 4 ∧ x.n < 256 then s.latchWrite x.pkg x.n x.k x.value else s)

/-- R369: one latched item is applied: the other writes first, then the tails; then the latch is clear and the
discarded writes are one error event. -/
def execLatchReplay (s : State) : Host.Outcome State Fault Refusal :=
  let p := s.ev.pkg
  let x := s.pkg p
  if x.waking = false ∨ x.pstate = 4 ∨ x.coreLive 0 = false then .next s
  else
    match x.writes, x.tails with
    | (f, off, v) :: rest, _ =>
      .next (((s.modPkg p (fun x => { x with writes := rest })).bar0Write p f off v).post .latchReplay { pkg := p })
    | [], (key, v) :: rest =>
      let s := s.modPkg p (fun x => { x with tails := rest })
      .next ((s.bar0Write p (key / 16) (0x1010 + 0x40 * (key % 16)) (v.setWidth 64)).post .latchReplay { pkg := p })
    | [], [] =>
      let s := s.modPkg p (fun x => { x with waking := false, discards := 0 })
      if x.discards = 0 then .next s
      else .next (s.hostOpen p 0 2 0 none)

/-- R371: the host has consumed events: slots are free for a summary and held completions. -/
def execEvtailWrite (s : State) : Host.Outcome State Fault Refusal :=
  .next (s.bar0 s.ev.pkg s.ev.n 0x20 s.ev.value)

/-- R371: even and evsize. -/
def execEventRingEnable (s : State) : Host.Outcome State Fault Refusal :=
  .next (s.bar0 s.ev.pkg s.ev.n 0x10 s.ev.value)

/-- R365: a write to the register at offset `k`. -/
def execBar0RegisterWrite (s : State) : Host.Outcome State Fault Refusal :=
  .next (s.bar0 s.ev.pkg s.ev.n s.ev.k s.ev.value)

end Sys2Proof.Machine
end

