-- ==== Sys2Proof/Machine/Invalidate.lean ====
section
/-! DEFINITION. Invalidations of translations (R343, R348) and what waits for a translation (R249, R341). -/
namespace Sys2Proof.Machine

/-- A hold on the translation of an address within some bytes. -/
def Hold.missIn (lo n : Nat) : Hold → Bool
  | .storeMiss ea k => decide (lo < ea.toNat + k) && decide (ea.toNat < lo + n)
  | .xlate va => decide (lo ≤ va.toNat) && decide (va.toNat < lo + n)
  | .fetch va => decide (lo ≤ va.toNat) && decide (va.toNat < lo + n)
  | _ => false

/-- The context of a supervisor's or strand's translation. -/
def Die.supWake (x : Die) (a lo n : Nat) : Die :=
  if x.svasid.toNat = a then
    { x with sups := x.sups.map (fun e => match e.2.hold with
      | some h => if h.missIn lo n then (e.1, { e.2 with hold := none }) else e
      | none => e) }
  else x

/-- The address of a range of a context's that an engine's operation waits for. -/
def Engine.stuckIn (e : Engine) (a lo n : Nat) : Option W64 :=
  if (e.current.map (·.asid)) = some a then e.stuck.filter (fun va => decide (lo ≤ va.toNat) && decide (va.toNat < lo + n))
  else none

/-- Operations of an engine that wait for a page go on. -/
def Engine.unstick (e : Engine) (a lo n : Nat) : Engine :=
  if (e.stuckIn a lo n).isSome then { e with stuck := none } else e

/-- The page that an engine's operation waits for is refused to it (R249, R349). -/
def Engine.deny (e : Engine) (a lo n : Nat) : Engine :=
  match e.stuckIn a lo n with
  | some va => { e with stuck := none, denied := e.denied ++ [BitVec.ofNat 64 (va.toNat / 4096 * 4096)] }
  | none => e

/-- An engine of the tile waits for a page. -/
def Tile.engineStuck (w : Tile) : Bool := w.forme.stuck.isSome || w.copy.stuck.isSome

/-- Both engines of a tile look at what they have begun. -/
def State.enginesGo (s : State) (t : Nat) : State :=
  (s.post .formeOpStart { tile := t }).post .copyOpStart { tile := t }

/-- What waits on a die for a range of a context's addresses translates again. -/
def State.wakeXlate (s : State) (d a lo n : Nat) : State :=
  let s := s.modDie d (fun x => x.supWake a lo n)
  let here := (s.tiles.map (·.1)).filter (fun t => t / 256 == d)
  here.foldl (fun (s : State) t =>
    let s := s.wake t (fun st h => st.asid == a && h.missIn lo n)
    let go := (s.tile t).engineStuck
    let s := s.modTile t (fun w => { w with forme := w.forme.unstick a lo n, copy := w.copy.unstick a lo n })
    if go then s.enginesGo t else s) s

/-- Stores of a die's tiles that have used translations of a range are registered, in order (R343). -/
def State.registerUsed (s : State) (d a lo n : Nat) : State :=
  let used (e : StoreEnt) : Bool := e.asid == a && !e.registered && decide (e.addr.toNat < lo + n) &&
    decide (lo < e.addr.toNat + e.data.length)
  ((s.tiles.filter (fun (e : Nat × Tile) => e.1 / 256 == d && e.2.sb.any used)).map (·.1)).foldl
    (fun (s : State) t => s.registerAll t a) s

/-- The dirty logs of a die's tiles are merged (R348). -/
def State.mergeDie (s : State) (d : Nat) : State :=
  ((s.tiles.filter (fun (e : Nat × Tile) => e.1 / 256 == d && !e.2.dirty.isEmpty)).map (·.1)).foldl
    (fun (s : State) t => s.mergeDirty t) s

/-- Drop the TLB entries of a context that overlap a range, on one die (R343). -/
def State.dropRange (s : State) (d a lo n : Nat) : State :=
  let keep (l : List TlbEnt) : List TlbEnt :=
    l.filter (fun e => !(e.asid == a && decide (e.va < lo + n) && decide (lo < e.va + e.size)))
  let s := s.modDie d (fun x => { x with tlb := keep x.tlb })
  { s with tiles := s.tiles.map (fun (e : Nat × Tile) =>
    if e.1 / 256 = d then (e.1, { e.2 with tlb := keep e.2.tlb }) else e) }

/-- What an invalidation waits for: the buffered stores that used the dropped entries are registered, and the logs merged into the
tables as they stood when the writes were logged (R343, R348). -/
def State.settleUsed (s : State) (d a lo n : Nat) : State := (s.registerUsed d a lo n).mergeDie d

/-- The address that a held WAITV has translated (R173). -/
def Strand.waitsAt (st : Strand) : Option W64 :=
  match st.hold, decodeWords st.fetch.word st.fetch.word2 with
  | some (.waitv _ _ _), .ok (.waitv a _ _) => some (st.rd a)
  | _, _ => none

/-- Held WAITVs and host accesses not yet performed that used a translation of a range are sent back to translate (R343). -/
def State.retranslate (s : State) (d a lo n : Nat) : State :=
  let within (va : W64) : Bool := decide (lo ≤ va.toNat) && decide (va.toNat < lo + n)
  let hit (p : Packet) : Bool := p.ref.die == d && p.asid == a && p.store.isNone && p.answer.isNone &&
    decide (p.addr.toNat < lo + n) && decide (lo < p.addr.toNat + (p.segs.map (·.2)).sum)
  let gone := s.net.filter hit
  let back (st : Strand) (h : Hold) : Bool := match h with
    | .host k => gone.any (fun p => p.n == k && p.uid == st.uid)
    | _ => false
  let s := { s with net := s.net.filter (fun p => !hit p) }
  let s := s.modDie d (fun x => { x with sups := x.sups.map (fun e =>
    if (e.2.hold.map (back e.2)).getD false then (e.1, { e.2 with hold := none }) else e) })
  ((s.tiles.map (·.1)).filter (fun t => t / 256 == d)).foldl (fun (s : State) t =>
    s.wake t (fun st h => back st h || (st.asid == a && (st.waitsAt.map within).getD false))) s

/-- An invalidation of a range of a context's addresses on a die (R343): held accesses translate again. -/
def State.invalidate (s : State) (d a lo n : Nat) : State :=
  (((s.settleUsed d a lo n).dropRange d a lo n).retranslate d a lo n).wakeXlate d a lo n

end Sys2Proof.Machine
end

