-- ==== Sys2Proof/Machine/VecConv.lean ====
section
/-! DEFINITION. Meanings of the conversions VCVT, VQNT and VDQ (R222 to R229). -/
namespace Sys2Proof

/-- Bits of an element (R222); an MX image's elements are bytes. -/
def Fmt.bits : Fmt → Nat
  | .i8 => 8
  | .i4 => 4
  | .mx8 => 8
  | .f8 => 8
  | .bf => 16
  | .f => 32
  | .w => 32

/-- Elements of a format in a register, paired with another (R222). -/
def Fmt.elems (x other : Fmt) : Nat :=
  match x with
  | .mx8 => if other = .bf then 64 else 32
  | _ => 1024 / x.bits

end Sys2Proof
namespace Sys2Proof.Machine

/-- Element j of a source register, exact (R223, R38); subnormals flushed under z. -/
def srcElem (x : Fmt) (z : Bool) (v : VWord) (j : Nat) : FVal :=
  let e := lane v x.bits j
  match x with
  | .i8 => FVal.ofInt (sx 8 e)
  | .i4 => FVal.ofInt (sx 4 e)
  | .w => FVal.ofInt (sx 32 e)
  | .f8 => FVal.ofF8 (BitVec.ofNat 8 e)
  | .bf => FVal.ofBf (BitVec.ofNat 16 (if z then flushIn 7 e else e))
  | .f => FVal.ofF32 (BitVec.ofNat 32 (if z then flushIn 23 e else e))
  | .mx8 => mxVal (BitVec.ofNat 8 e) (BitVec.ofNat 8 (lane v 8 (64 + j / 32)))

/-- INV of reading an element of a block whose scale code is 0xFF (R38). -/
def srcInv (x : Fmt) (v : VWord) (j : Nat) : W64 :=
  if x = .mx8 ∧ lane v 8 (64 + j / 32) = 0xFF then flInv else 0

/-- An element at a destination format, with flags (R223). -/
def dstElem (x : Fmt) (z sat : Bool) (v : FVal) : Nat × W64 :=
  let int (w : Nat) (lo hi : Int) : Nat × W64 :=
    let r := v.toSat lo hi
    (intBits w r.1, r.2)
  match x with
  | .i8 => int 8 (-128) 127
  | .i4 => int 4 (-8) 7
  | .w => int 32 (-(2 ^ 31)) (2 ^ 31 - 1)
  | .f8 => let r := v.toF8 sat; (r.1.toNat, r.2)
  | .bf => let r := v.toBf z; (r.1.toNat, r.2)
  | .f => let r := v.toF32 z; (r.1.toNat, r.2)
  | .mx8 => (0, 0)

/-- Elements 0 to e − 1 converted under a predicate; the others are 0 (R222). -/
def convert (m : Team) (d : VReg) (p : PReg) (w e : Nat) (f : Nat → Nat × W64) : Team :=
  let rs := (List.range (1024 / w)).map (fun j =>
    if e ≤ j then (0, 0)
    else if (m.pred p).getLsbD j then f j
    else (lane (m.vr d) w j, 0))
  (m.setV d (packLanes w (rs.map (·.1)))).flag (rs.foldl (fun (a : W64) x => a ||| x.2) 0)

/-- The MX register image of a source (R224): bytes and flags. -/
def mxImage (src : Fmt) (z : Bool) (v : VWord) (p : PWord) : List Byte × W64 :=
  let n := src.elems .mx8 / 32
  let blocks := (List.range n).map (fun b => mxQuant ((List.range 32).map (fun i =>
    if p.getLsbD (32 * b + i) then some (srcElem src z v (32 * b + i)) else none)))
  let elems := blocks.flatMap (·.1)
  let scales := blocks.map (·.2.1)
  (elems ++ List.replicate (64 - elems.length) 0 ++ scales, blocks.foldl (fun (a : W64) b => a ||| b.2.2) 0)

/-- Quantise into an MX register image. -/
def toMx (m : Team) (d a : VReg) (src : Fmt) (z : Bool) (p : PReg) : Team :=
  let r := mxImage src z (m.vr a) (m.pred p)
  (m.setV d (packLanes 8 (r.1.map (·.toNat)))).flag r.2

/-- R222 to R224 (DEDUCED, log entry 39). -/
def execVcvt (d a : VReg) (z sat : Bool) (src : Fmt) (p : PReg) (dst : Fmt) (s : State) :
    Host.Outcome State Fault Refusal :=
  s.vecTeam [d, a] (fun m =>
    if dst = .mx8 then toMx m d a src z p
    else
      let v := m.vr a
      convert m d p dst.bits (Nat.min (src.elems dst) (dst.elems src)) (fun j =>
        let r := dstElem dst z sat (srcElem src z v j)
        (r.1, r.2 ||| srcInv src v j)))

/-! ## Parameter blocks (R225, R226) -/

/-- A parameter block of VQNT and VDQ. -/
structure QBlock where
  z : Bool
  src : Option Fmt
  mul : W32
  map : W64
  k0 : Nat
  ok : Bool
  deriving DecidableEq, Repr

/-- Format of a code (R120). -/
def fmtOf (c : Nat) : Option Fmt :=
  match c with
  | 0 => some .i8
  | 1 => some .i4
  | 2 => some .mx8
  | 3 => some .f8
  | 4 => some .bf
  | 5 => some .f
  | 6 => some .w
  | _ => none

/-- The fields of a block; `ok` holds when the reserved ones are 0 (R225). -/
def QBlock.parse (bs : List Byte) : QBlock where
  z := (dwordAt bs 0).testBit 35
  src := fmtOf (field (dwordAt bs 0) 34 32)
  mul := BitVec.ofNat 32 (dwordAt bs 0)
  map := BitVec.ofNat 64 (dwordAt bs 8)
  k0 := field (dwordAt bs 0x10) 31 0
  ok := field (dwordAt bs 0) 63 36 == 0 && field (dwordAt bs 0x10) 63 32 == 0 && dwordAt bs 0x18 == 0

/-- The checks of R226. -/
def QBlock.check (b : QBlock) (dequant : Bool) (dst : Fmt) : Bool :=
  let srcOk := match b.src with
    | some x => if dequant then x == .i8 || x == .i4 || x == .mx8 || x == .w else x == .bf || x == .f
    | none => false
  b.ok && srcOk && (b.map == 0 || (dst == .i8 && b.k0 % 64 == 0))

/-- The address of the bitmap word (R226). -/
def QBlock.mapAddr (b : QBlock) : W64 := b.map + BitVec.ofNat 64 (b.k0 / 8)

/-- Read a checked local operand of n bytes. -/
def State.localBytes (s : State) (st : Strand) (tile : Nat) (ea : W64) (n align : Nat) : Got (List Byte) :=
  match s.ownSpad tile st.asid ea n align with
  | .error c => .stop (s.raise st c ea)
  | .ok off => s.readOwn st ea off n

/-- The block and the bitmap word D (R225, R226): faults of their addresses come first. -/
def State.qblock (s : State) (st : Strand) (tile : Nat) (g : GReg) (dequant : Bool) (dst : Fmt) :
    Got (QBlock × W64) :=
  (s.localBytes st tile (st.rd g) 32 32).andThen (fun s bs =>
    let b := QBlock.parse bs
    let word : Got W64 :=
      if b.map ≠ 0 ∧ dst = .i8 then
        (s.localBytes st tile b.mapAddr 8 8).andThen (fun s w => .go s (BitVec.ofNat 64 (leNat w)))
      else .go s 0
    word.andThen (fun s w =>
      if b.check dequant dst then .go s (b, w) else .stop (s.raise st fcVecParam (st.rd g))))

/-! ## VQNT, VDQ -/

/-- round_half_even(x × m) with what cannot be an integer kept: the integer, an infinity by sign, or none
for a NaN (R227). -/
inductive QVal where
  | int (i : Int)
  | inf (neg : Bool)
  | nan
  deriving DecidableEq, Repr

def quantVal (x m : FVal) : QVal :=
  match x.mul m with
  | .nan _ => .nan
  | .inf s => .inf s
  | .fin s n d => .int (FVal.toIntRne (.fin s n d))

/-- Clamp to ±lim with SAT (R35). -/
def QVal.clamp (q : QVal) (lim : Int) : Int × W64 :=
  match q with
  | .nan => (0, flInv)
  | .inf s => (if s then -lim else lim, flSat)
  | .int i => satInt (-lim) lim i

/-- The emitted elements of one source element: one, or the two halves of a duplicated channel (R227). -/
def emitQuant (dst : Fmt) (dup : Bool) (q : QVal) : List Int × W64 :=
  if dup then
    let r := q.clamp 254
    ([-((-r.1) / 2), r.1 / 2], r.2)
  else
    let r := q.clamp (if dst = .i8 then 127 else 7)
    ([r.1], r.2)

/-- R227 over all source elements. -/
def quantise (m : Team) (d a : VReg) (b : QBlock) (src dst : Fmt) (word : W64) (p : PReg) : Team :=
  let v := m.vr a
  let mul := FVal.ofF32 (if b.z then BitVec.ofNat 32 (flushIn 23 b.mul.toNat) else b.mul)
  let rs := (List.range (1024 / src.bits)).map (fun j =>
    let q := if (m.pred p).getLsbD j then quantVal (srcElem src b.z v j) mul else .int 0
    emitQuant dst (b.map != 0 && word.getLsbD j) q)
  let out := rs.flatMap (·.1)
  (m.setV d (packLanes dst.bits (out.map (intBits dst.bits)))).flag (rs.foldl (fun (f : W64) x => f ||| x.2) 0)

/-- R227, R228 -/
def execVqnt (d a : VReg) (g : GReg) (p : PReg) (dst : Fmt) (s : State) : Host.Outcome State Fault Refusal :=
  s.vec [d, a] (fun st t _ =>
    (s.qblock st t g false dst).finish (fun s x =>
      match x.1.src with
      | none => s.raise st fcVecParam (st.rd g)
      | some src =>
        (s.modTeam t (fun m =>
          if dst = .mx8 then toMx m d a src x.1.z p else quantise m d a x.1 src dst x.2 p)).retire st))

/-- One element of VDQ (R229). -/
def dequant (b : QBlock) (src dst : Fmt) (v : VWord) (j : Nat) : Nat × W64 :=
  let x := srcElem src false v j
  let mul := FVal.ofF32 (if b.z then BitVec.ofNat 32 (flushIn 23 b.mul.toNat) else b.mul)
  let y := if src = .mx8 then x else x.mul mul
  let r := dstElem dst b.z true y
  (r.1, r.2 ||| srcInv src v j ||| invOf [x, mul] y)

/-- R229 -/
def execVdq (d a : VReg) (g : GReg) (p : PReg) (dst : Fmt) (s : State) : Host.Outcome State Fault Refusal :=
  s.vec [d, a] (fun st t _ =>
    (s.qblock st t g true dst).finish (fun s x =>
      match x.1.src with
      | none => s.raise st fcVecParam (st.rd g)
      | some src =>
        (s.modTeam t (fun m => convert m d p dst.bits (Nat.min (src.elems dst) (dst.elems src))
          (dequant x.1 src dst (m.vr a)))).retire st))

end Sys2Proof.Machine
end

