-- ==== Sys2Proof/Machine/Engine.lean ====
section
/-! DEFINITION. Meanings of the engine instructions at the issuing strand: wait mask, token, queue room, and the
acceptance checks in their stages (R245, R246, R250, R254, R276). -/
namespace Sys2Proof.Machine

/-! ## Checks -/

/-- A failed check: fault code and address. -/
abbrev Check := Option (Byte × W64)

/-- Rank of a fault within a stage (R276). -/
def stageRank (c : Byte) : Nat :=
  if c = fcAddress then 0 else if c = fcContext then 1 else if c = fcBounds then 2 else if c = fcMisalign then 3 else 4

/-- The fault of a stage: the first-ranked, the first of equals. -/
def stageOf (l : List Check) : Check :=
  l.foldl (fun (a : Check) c => match a, c with
    | none, c => c
    | a, none => a
    | some x, some y => if stageRank y.1 < stageRank x.1 then some y else some x) none

/-- An engine-parameter check. -/
def need (ok : Bool) : Check := if ok then none else some (fcEngParam, 0)

/-- n bytes of the tile's own scratchpad at a local address, aligned (R245, R211); no bytes, no check (DESIGN CHOICE, log
entry 61). -/
def State.chkOwn (s : State) (tile asid : Nat) (ea : W64) (n align : Nat) : Check :=
  if n = 0 then none
  else
    match s.ownSpad tile asid ea n align with
    | .ok _ => none
    | .error c => some (c, ea)

/-- Rows of n bytes at a pitch. -/
def State.chkRows (s : State) (tile asid : Nat) (ea : W64) (pitch rows n align : Nat) : Check :=
  stageOf ((List.range rows).map (fun i => s.chkOwn tile asid (ea + BitVec.ofNat 64 (i * pitch)) n align))

/-- Stop on a failed check. -/
def State.pass (s : State) (st : Strand) (c : Check) : Got Unit :=
  match c with
  | none => .go s ()
  | some x => .stop (s.raise st x.1 x.2)

/-- The canonical place of a checked local address. -/
def State.ownOff (s : State) (tile asid : Nat) (ea : W64) : W64 :=
  match s.ownSpad tile asid ea 1 1 with
  | .ok off => tileSpace tile off
  | .error _ => ea

/-- A local operand of n bytes: checked in stage 1, with the checks given when it fails, then read. -/
def State.block (s : State) (st : Strand) (tile : Nat) (ea : W64) (n align : Nat) (more : List Check) :
    Got (List Byte) :=
  let c := s.chkOwn tile st.asid ea n align
  (s.pass st (if c.isSome then stageOf (c :: more) else none)).andThen (fun s _ => s.localBytes st tile ea n align)

/-! ## Tensor handles (R250 to R252) -/

/-- A tensor-table entry from its bytes (R251). -/
def Tensor.parse (bs : List Byte) : Tensor where
  base := BitVec.ofNat 64 (dwordAt bs 0)
  dim1 := field (dwordAt bs 8) 63 32
  dim0 := field (dwordAt bs 8) 31 0
  pitch := dwordAt bs 0x10
  sbase := BitVec.ofNat 64 (dwordAt bs 0x18)
  spitch := field (dwordAt bs 0x20) 63 32
  grp := field (dwordAt bs 0x20) 31 16
  valid := (dwordAt bs 0x28).testBit 63
  asid := field (dwordAt bs 0x28) 51 40
  format := field (dwordAt bs 0x28) 39 36
  rd := (dwordAt bs 0x28).testBit 35
  wr := (dwordAt bs 0x28).testBit 34

/-- A handle that passes R250: in the table, valid, of the context, of an allowed format and permission. -/
def State.handle (s : State) (d a h : Nat) (formats : List Nat) (write : Bool) : Option Tensor :=
  let c := s.ctx d a
  let t := Tensor.parse (Memory.readN s.mem (c.ttbase + 64 * h) 64)
  if h < c.ttlen ∧ t.valid ∧ t.asid = a ∧ formats.contains t.format ∧ (if write then t.wr else t.rd) then some t
  else none

/-- Stop with the handle fault. -/
def State.needHandle (s : State) (st : Strand) (tile h : Nat) (formats : List Nat) (write : Bool) : Got Tensor :=
  match s.handle (tile / 256) st.asid h formats write with
  | some t => .go s t
  | none => .stop (s.raise st fcHandle 0)

/-- Twice the bytes of an element (R252). -/
def Tensor.half (t : Tensor) : Nat :=
  match t.format with
  | 2 => 1
  | 5 => 4
  | 6 => 8
  | _ => 2

/-- K-groups of a ternary tensor (R31). -/
def Tensor.kgs (t : Tensor) : Nat := (t.dim0 + 319) / 320

/-- Rows and elements per row as the copy engine counts them (R252). -/
def Tensor.rows (t : Tensor) : Nat := if t.format = 0 then t.dim1 * t.kgs else t.dim1
def Tensor.elems (t : Tensor) : Nat := if t.format = 0 then (Nat.min t.dim0 320 + 4) / 5 else t.dim0

/-! ## Plates and expected states (R253 to R256) -/

/-- The K extent of a plate (R255). -/
def Geo.kx (g : Geo) : Nat := Nat.min (320 * g.kg) (g.k - 320 * g.j0)

/-- Duplicated channels below K′ (R262). -/
def dupsOf (dup : List Nat) (g : Geo) : List Nat := dup.filter (fun k => decide (k < g.kx))

/-- What acceptance sees of a chase (R254). -/
def Tile.expected (w : Tile) (a k : Nat) : Option Expect :=
  let e := w.expects.get Expect.reset k
  if e.set && e.asid == a then some e else none

/-- Change the expected state of a chase. -/
def State.expect (s : State) (t k : Nat) (f : Expect → Expect) : State :=
  s.modTile t (fun w => { w with expects := w.expects.put Expect.reset k (f (w.expects.get Expect.reset k)) })

/-- The geometry fields of a parameter block (R256). -/
def Geo.parse (handle : Nat) (bs : List Byte) : Geo where
  handle := handle
  n0 := field (dwordAt bs 8) 63 32
  j0 := field (dwordAt bs 8) 31 0
  cols := field (dwordAt bs 0x10) 31 16
  kg := field (dwordAt bs 0x10) 15 8
  ng := field (dwordAt bs 0x10) 7 0
  k := 0

/-- The limits of a geometry that need no handle (R256). -/
def Geo.limits (g : Geo) : Bool :=
  decide (1 ≤ g.kg) && decide (g.kg ≤ 64) && decide (1 ≤ g.ng) && decide (g.ng ≤ 64) &&
    decide (g.kg * g.ng ≤ 64) && decide (1 ≤ g.cols) && decide (g.cols ≤ 64 * g.ng)

/-- Those that need K and the columns of the handle (R255, R256). -/
def Geo.fits (g : Geo) (t : Tensor) : Bool :=
  decide (g.j0 + g.kg ≤ t.kgs) && g.kg == (Nat.min (320 * g.kg) (t.dim0 - 320 * g.j0) + 319) / 320 &&
    decide (g.n0 + g.cols ≤ t.dim1)

/-! ## Issue (R246) -/

/-- Which queues an operation enters. -/
inductive Where where
  | forme | copy | both
  deriving DecidableEq, Repr

/-- A queue holds two operations (R246 step 3). -/
def Tile.noRoom (w : Tile) (x : Where) : Bool :=
  match x with
  | .forme => decide (2 ≤ w.forme.queue.length)
  | .copy => decide (2 ≤ w.copy.queue.length)
  | .both => decide (2 ≤ w.forme.queue.length) || decide (2 ≤ w.copy.queue.length)

/-- The operation enters its queue; an idle engine starts it in the next clk (R246 step 5, R247). -/
def State.enqueue (s : State) (t : Nat) (x : Where) (o : EngOp) : State :=
  let add (e : Engine) : Engine := { e with queue := e.queue ++ [o] }
  let a : EvArg := { tile := t }
  match x with
  | .forme => (s.modTile t (fun w => { w with forme := add w.forme })).later 1 .formeOpStart a
  | .copy => (s.modTile t (fun w => { w with copy := add w.copy })).later 1 .copyOpStart a
  | .both => (s.modTile t (fun w => { w with forme := add w.forme, copy := add w.copy })).later 1 .directCastStart a

/-- An engine instruction (R246): `accept` makes the checks of its stages and gives the operation. -/
def State.engineOp (s : State) (tok : TokReg) (wait : Byte) (dest : State → Strand → Nat → Where)
    (accept : State → Strand → Nat → Got Op) : Host.Outcome State Fault Refusal :=
  s.withCur (fun st => s.withTeam st (fun tile m =>
    (s.waitMask st wait (.token wait)).andThen (fun s _ =>
      let st := { st with passed := some st.fetch.start }
      (s.tokenFree st tok).andThen (fun s _ =>
        if (s.tile tile).noRoom (dest s st tile) then .stop (s.holdCur st .engine)
        else accept s st tile))
    |>.finish (fun s op =>
      let x := dest s st tile
      let (s, st) := s.tokenPend st tok none
      let o : EngOp := ⟨s.fresh, tok, st.uid, m.asid, m.ident, m.block, op⟩
      ({ s with fresh := s.fresh + 1 }.retire st).enqueue tile x o)))

/-- Operations of the forme engine, and of the copy engine. -/
def toForme (_ : State) (_ : Strand) (_ : Nat) : Where := .forme
def toCopy (_ : State) (_ : Strand) (_ : Nat) : Where := .copy

/-- A chase number in gB (R245). -/
def chaseOk (v : W64) : Bool := decide (v.toNat < 32)

/-- Bytes from an offset on are 0. -/
def zeroFrom (bs : List Byte) (off : Nat) : Bool := (bs.drop off).all (· == 0)

/-! ## Forme instructions -/

/-- The block of FSET and FSCL: geometry and reserved fields (R256). -/
def fsetReserved (bs : List Byte) : Bool :=
  field (dwordAt bs 0) 47 0 == 0 && field (dwordAt bs 0x10) 63 32 == 0 && zeroFrom bs 0x18

/-- R256 -/
def execFset (t : TokReg) (wait : Byte) (a b : GReg) (s : State) : Host.Outcome State Fault Refusal :=
  s.engineOp t wait toForme (fun s st tile =>
    (s.block st tile (st.rd a) 64 64 []).andThen (fun s bs =>
      let h := field (dwordAt bs 0) 63 48
      let g := Geo.parse h bs
      let c := (st.rd b).toNat
      (s.pass st (need (chaseOk (st.rd b) && fsetReserved bs && g.limits))).andThen (fun s _ =>
        (s.needHandle st tile h [0] false).andThen (fun s x =>
          (s.pass st (need (g.fits x))).andThen (fun s _ =>
            let g := { g with k := x.dim0 }
            .go (s.expect tile c (fun e => ⟨true, st.asid, g, e.dup⟩)) (.fset c g x))))))

/-- K indices of the set bits of a bitmap, ascending. -/
def bitmapOf (bs : List Byte) : List Nat :=
  (List.range (8 * bs.length)).filter (fun k => (bs.getD (k / 8) 0).getLsbD (k % 8))

/-- R259 -/
def execFmap (t : TokReg) (wait : Byte) (a b c : GReg) (s : State) : Host.Outcome State Fault Refusal :=
  s.engineOp t wait toForme (fun s st tile =>
    let n := (st.rd c).toNat
    let ok := decide (1 ≤ n) && decide (n ≤ 64)
    (s.pass st (s.chkOwn tile st.asid (st.rd a) (if ok then 40 * n else 8) 8)).andThen (fun s _ =>
      (s.pass st (need (ok && chaseOk (st.rd b)))).andThen (fun s _ =>
        (s.localBytes st tile (st.rd a) (40 * n) 8).andThen (fun s bs =>
          let dup := bitmapOf bs
          let k := (st.rd b).toNat
          let full := (List.range n).any (fun j => decide (32 < dup.countP (fun x => x / 320 == j)))
          (s.pass st (need (!full))).andThen (fun s _ =>
            if ((s.tile tile).expected st.asid k).isSome then .stop (s.raise st fcPlate 0)
            else .go (s.expect tile k (fun _ => ⟨false, st.asid, Geo.none, dup⟩)) (.fmap k dup))))))

/-- The parameter block of FMM and FMMT (R261). -/
def FmmBlk.parse (bs : List Byte) : FmmBlk where
  chase := field (dwordAt bs 0) 36 32
  rows := field (dwordAt bs 0) 31 0
  spitch := field (dwordAt bs 8) 63 32
  opitch := field (dwordAt bs 8) 31 0
  oscale := BitVec.ofNat 32 (field (dwordAt bs 0x10) 63 32)
  act := field (dwordAt bs 0x10) 7 6
  out := field (dwordAt bs 0x10) 5 4
  z := (dwordAt bs 0x10).testBit 3
  acc := field (dwordAt bs 0x10) 2 0
  mxaddr := BitVec.ofNat 64 (dwordAt bs 0x18)
  mxpitch := field (dwordAt bs 0x20) 63 32

/-- Reserved fields, M and the formats (R261; act 10 is no format of FMMT, R265). -/
def FmmBlk.ok (b : FmmBlk) (bs : List Byte) (transposed : Bool) : Bool :=
  field (dwordAt bs 0) 63 37 == 0 && field (dwordAt bs 0x10) 31 8 == 0 && field (dwordAt bs 0x20) 31 0 == 0 &&
    zeroFrom bs 0x28 && decide (b.rows ≤ 65536) && b.act != 3 && !(b.act == 2 && (transposed || b.out == 0))

/-- Bytes of an output element; none in the accumulator mode. -/
def FmmBlk.outSize (b : FmmBlk) : Nat :=
  match b.out with
  | 1 => 2
  | 2 => 4
  | 3 => 1
  | _ => 0

/-- Bytes of an activation row of FMM (R262), of an input row of FMMT (R265). -/
def rowBytes (b : FmmBlk) (e : Expect) (transposed : Bool) : Nat :=
  let n := if transposed then e.geo.cols else e.geo.kx
  match b.act with
  | 0 => if transposed then n else n + (dupsOf e.dup e.geo).length
  | 1 => (n + 1) / 2
  | _ => n

/-- Stage 6 of FMM and FMMT (R261, R265); FMMT takes INT4 on a chase with duplicated channels (DESIGN CHOICE, log entry 61). -/
def State.fmmChecks (s : State) (st : Strand) (tile : Nat) (b : FmmBlk) (e : Expect) (src dst : W64)
    (transposed : Bool) : Check :=
  let outs := if transposed then e.geo.kx else e.geo.cols
  let size := b.outSize
  stageOf [s.chkRows tile st.asid src b.spitch b.rows (rowBytes b e transposed) 1,
    (if b.act = 2 then s.chkRows tile st.asid b.mxaddr b.mxpitch b.rows ((e.geo.kx + 31) / 32) 1 else none),
    (if size = 0 then none else s.chkRows tile st.asid dst b.opitch b.rows (outs * size) size),
    (if size ≠ 0 ∧ (b.opitch % size ≠ 0 ∨ dst.toNat % size ≠ 0) then some (fcMisalign, dst) else none),
    need (b.out != 0 || decide (b.rows * outs ≤ 512)),
    need (transposed || b.act == 0 || (dupsOf e.dup e.geo).isEmpty)]

/-- FMM and FMMT at acceptance. -/
def State.acceptFmm (s : State) (st : Strand) (tile : Nat) (a src dst : W64) (transposed : Bool) : Got Op :=
  (s.block st tile a 64 64 []).andThen (fun s bs =>
    let b := FmmBlk.parse bs
    (s.pass st (need (b.ok bs transposed))).andThen (fun s _ =>
      match (s.tile tile).expected st.asid b.chase with
      | none => .stop (s.raise st fcPlate 0)
      | some e =>
        (s.pass st (s.fmmChecks st tile b e src dst transposed)).andThen (fun s _ =>
          .go s (.fmm { b with mxaddr := s.ownOff tile st.asid b.mxaddr } (s.ownOff tile st.asid src)
            (s.ownOff tile st.asid dst) transposed))))

/-- R261 -/
def execFmm (t : TokReg) (wait : Byte) (a b c : GReg) (s : State) : Host.Outcome State Fault Refusal :=
  s.engineOp t wait toForme (fun s st tile => s.acceptFmm st tile (st.rd a) (st.rd b) (st.rd c) false)

/-- R265 -/
def execFmmt (t : TokReg) (wait : Byte) (a b c : GReg) (s : State) : Host.Outcome State Fault Refusal :=
  s.engineOp t wait toForme (fun s st tile => s.acceptFmm st tile (st.rd a) (st.rd b) (st.rd c) true)

/-- R266; the geometry limits are an engine-parameter fault, any other difference from the chase plate-state (DESIGN CHOICE, log
entry 61). -/
def execFscl (t : TokReg) (wait : Byte) (a b : GReg) (s : State) : Host.Outcome State Fault Refusal :=
  s.engineOp t wait toForme (fun s st tile =>
    (s.block st tile (st.rd a) 64 64 []).andThen (fun s bs =>
      let h := field (dwordAt bs 0) 63 48
      let g := Geo.parse h bs
      let c := (st.rd b).toNat
      (s.pass st (need (chaseOk (st.rd b) && fsetReserved bs && g.limits))).andThen (fun s _ =>
        (s.needHandle st tile h [0] false).andThen (fun s x =>
          match (s.tile tile).expected st.asid c with
          | none => .stop (s.raise st fcPlate 0)
          | some e =>
            if { g with k := e.geo.k } = e.geo then .go s (.fscl c e.geo x) else .stop (s.raise st fcPlate 0)))))

/-- A chase that another context holds, set or by its duplication map, is left alone (R267; DESIGN CHOICE, log entry 61). -/
def Expect.foreign (e : Expect) (a : Nat) : Bool := e.asid != a && (e.set || e.dup != [])

/-- R267 -/
def execFclr (t : TokReg) (wait : Byte) (a : GReg) (s : State) : Host.Outcome State Fault Refusal :=
  s.engineOp t wait toForme (fun s st tile =>
    let v := (st.rd a).toNat
    (s.pass st (need (decide (v < 2 ^ 32)))).andThen (fun s _ =>
      let clear (s : State) (k : Nat) : State :=
        if v.testBit k then s.expect tile k (fun e => if e.foreign st.asid then e else Expect.reset) else s
      .go ((List.range 32).foldl clear s) (.fclr (BitVec.ofNat 32 v))))

/-- R268 -/
def execFprb (t : TokReg) (wait : Byte) (a b : GReg) (s : State) : Host.Outcome State Fault Refusal :=
  s.engineOp t wait toForme (fun s st tile =>
    (s.pass st (s.chkOwn tile st.asid (st.rd a) 192 64)).andThen (fun s _ =>
      (s.pass st (need (chaseOk (st.rd b)))).andThen (fun s _ =>
        .go s (.fprb (st.rd b).toNat (s.ownOff tile st.asid (st.rd a))))))

end Sys2Proof.Machine
end

