-- ==== Sys2Proof/Machine/Copy.lean ====
section
/-! DEFINITION. Meanings of the copy-engine instructions at the issuing strand (R269 to R273, R275). -/
namespace Sys2Proof.Machine

/-- Formats a copy moves: all but the reserved ones (R251). -/
def anyFormat : List Nat := [0, 1, 2, 3, 4, 5, 6, 7]

/-- R269; a scale address is looked at for MXINT8 only (DESIGN CHOICE, log entry 61). -/
def execCpy (t : TokReg) (wait : Byte) (a b c : GReg) (s : State) : Host.Outcome State Fault Refusal :=
  s.engineOp t wait toCopy (fun s st tile =>
    (s.block st tile (st.rd a) 64 64 []).andThen (fun s bs =>
      let w0 := dwordAt bs 0
      let toH := w0.testBit 32
      let rows := field w0 31 0
      let c0 := field (dwordAt bs 8) 63 32
      let cols := field (dwordAt bs 8) 31 0
      let dpitch := field (dwordAt bs 0x10) 63 32
      let sa := BitVec.ofNat 64 (dwordAt bs 0x18)
      let row0 := (st.rd c).toNat
      (s.pass st (need (field w0 47 33 == 0 && field (dwordAt bs 0x10) 31 0 == 0 && zeroFrom bs 0x20))).andThen (fun s _ =>
        (s.needHandle st tile (field w0 63 48) anyFormat toH).andThen (fun s x =>
          let scales := x.format == 3 && sa != 0
          (s.pass st (stageOf [
            s.chkRows tile st.asid (st.rd b) dpitch rows (cols * x.half / 2) 1,
            (if scales then s.chkRows tile st.asid sa 64 rows ((cols + 31) / 32) 1 else none),
            need (decide (row0 + rows ≤ x.rows) && decide (c0 + cols ≤ x.elems) &&
              (x.format != 2 || (c0 % 2 == 0 && cols % 2 == 0)) && (!scales || c0 % 32 == 0))])).andThen (fun s _ =>
            .go s (.cpy x toH rows row0 c0 cols dpitch (s.ownOff tile st.asid (st.rd b))
              (if scales then s.ownOff tile st.asid sa else 0)))))))

/-- The tile list of a CPYR block (R270). -/
def cpyrTile (bs : List Byte) (i : Nat) : Nat := leNat ((bs.drop (0x40 + 4 * i)).take 4)

/-- R270 -/
def execCpyr (t : TokReg) (wait : Byte) (a b : GReg) (s : State) : Host.Outcome State Fault Refusal :=
  s.engineOp t wait toCopy (fun s st tile =>
    (s.block st tile (st.rd a) 128 64 []).andThen (fun s bs =>
      let chunk := field (dwordAt bs 0) 63 32
      let len := field (dwordAt bs 0) 31 0
      let dbase := field (dwordAt bs 8) 20 0
      let n := field (dwordAt bs 0x10) 4 0
      let list := (List.range 16).map (cpyrTile bs)
      let inside (u : Nat) : Bool := decide (u < 2 ^ 19) && s.inPartition (tile / 256) st.asid u
      let outside := (list.take n).any (fun u => decide (u < 2 ^ 19) && !inside u)
      (s.pass st (stageOf [
        (if outside then some (fcContext, 0) else none),
        s.chkOwn tile st.asid (st.rd b) len 1,
        need (chunk != 0 && chunk % 64 == 0 && len % 64 == 0 && dbase % 64 == 0 && decide (1 ≤ n) && decide (n ≤ 16) &&
          field (dwordAt bs 8) 63 21 == 0 && field (dwordAt bs 0x10) 63 5 == 0 && zeroFrom (bs.take 0x40) 0x18 &&
          list.all (fun u => decide (u < 2 ^ 19)) && (list.drop n).all (· == 0))])).andThen (fun s _ =>
        .go s (.cpyr (s.ownOff tile st.asid (st.rd b)) chunk len dbase (list.take n)))))

/-- R271. The list is checked in the stage of the block; beside a block that fails, at its first index (R276; DEDUCED, log
entry 54). -/
def execCpyg (t : TokReg) (wait : Byte) (a b c : GReg) (s : State) : Host.Outcome State Fault Refusal :=
  s.engineOp t wait toCopy (fun s st tile =>
    (s.block st tile (st.rd a) 64 64 [s.chkOwn tile st.asid (st.rd b) 4 4]).andThen (fun s bs =>
      let w0 := dwordAt bs 0
      let rows := field w0 31 0
      let c0 := field (dwordAt bs 8) 63 32
      let cols := field (dwordAt bs 8) 31 0
      let dpitch := field (dwordAt bs 0x10) 63 32
      (s.pass st (s.chkOwn tile st.asid (st.rd b) (4 * rows) 4)).andThen (fun s _ =>
        (s.pass st (need (field w0 47 32 == 0 && field (dwordAt bs 0x10) 31 0 == 0 && zeroFrom bs 0x18))).andThen (fun s _ =>
          (s.needHandle st tile (field w0 63 48) anyFormat false).andThen (fun s x =>
            (s.pass st (stageOf [
              s.chkRows tile st.asid (st.rd c) dpitch rows (cols * x.half / 2) 1,
              need (decide (c0 + cols ≤ x.elems) && (x.format != 2 || (c0 % 2 == 0 && cols % 2 == 0)))])).andThen
              (fun s _ => .go s (.cpyg x rows c0 cols dpitch (s.ownOff tile st.asid (st.rd b))
                (s.ownOff tile st.asid (st.rd c)))))))))

/-- R272 -/
def execCfil (t : TokReg) (wait : Byte) (a b c : GReg) (s : State) : Host.Outcome State Fault Refusal :=
  s.engineOp t wait toCopy (fun s st tile =>
    let dst := st.rd a
    let n := (st.rd b).toNat
    let virt := decide (dst.toNat < 2 ^ 56)
    (s.pass st (stageOf [
      (if virt then none else s.chkOwn tile st.asid dst n 1),
      (if dst.toNat % 8 = 0 then none else some (fcMisalign, dst)),
      need (n % 8 == 0 && decide (n < 2 ^ 32))])).andThen (fun s _ =>
      .go s (.cfil (if virt then dst else s.ownOff tile st.asid dst) n (st.rd c))))

/-- The direct bit of a CAST whose block can be read: it takes room in both queues (R246 step 3, R273). -/
def castWhere (a : GReg) (s : State) (st : Strand) (tile : Nat) : Where :=
  match s.ownSpad tile st.asid (st.rd a) 64 64 with
  | .ok off => if (BitVec.ofNat 64 (leNat (s.loadBytes tile st false [(.spad tile off, 8)]).2)).getLsbD 5 then .both
      else .copy
  | .error _ => .copy

/-- The threshold of CAST: 0x00 selects 0.5 (R273). -/
def thetaOf (b : Byte) : Byte := if b = 0 then 0x30 else b

/-- R273 -/
def execCast (t : TokReg) (wait : Byte) (a b c : GReg) (s : State) : Host.Outcome State Fault Refusal :=
  s.engineOp t wait (castWhere a) (fun s st tile =>
    (s.block st tile (st.rd a) 64 64 []).andThen (fun s bs =>
      let w0 := dwordAt bs 0
      let src := field w0 63 48
      let dst := field w0 47 32
      let th := BitVec.ofNat 8 (field w0 31 24)
      let direct := w0.testBit 5
      let chase := field w0 4 0
      let g := Geo.parse src bs
      let first := (st.rd b).toNat
      let count := (st.rd c).toNat
      (s.pass st (need (field w0 23 6 == 0 && zeroFrom bs 0x18 && !th.getLsbD 7 && th != 0x7F &&
        (if direct then dst == 0 && field (dwordAt bs 0x10) 63 32 == 0 && g.limits
         else dwordAt bs 8 == 0 && dwordAt bs 0x10 == 0)))).andThen (fun s _ =>
        (s.needHandle st tile src [5] false).andThen (fun s x =>
          if direct then
            (s.pass st (need (g.fits x))).andThen (fun s _ =>
              let g := { g with k := x.dim0 }
              .go (s.expect tile chase (fun e => ⟨true, st.asid, g, e.dup⟩)) (.castDirect x (thetaOf th) chase g))
          else
            (s.needHandle st tile dst [0] true).andThen (fun s y =>
              (s.pass st (need (y.dim0 == x.dim0 && y.dim1 == x.dim1 &&
                decide (first + count ≤ x.dim1 * x.kgs)))).andThen (fun s _ =>
                .go s (.cast x y (thetaOf th) first count)))))))

/-- R275 -/
def execCqnt (t : TokReg) (wait : Byte) (a b c : GReg) (s : State) : Host.Outcome State Fault Refusal :=
  s.engineOp t wait toCopy (fun s st tile =>
    (s.block st tile (st.rd a) 64 64 []).andThen (fun s bs =>
      let w0 := dwordAt bs 0
      let row0 := (st.rd b).toNat
      let rows := (st.rd c).toNat
      (s.pass st (need (field w0 31 1 == 0 && zeroFrom bs 8))).andThen (fun s _ =>
        (s.needHandle st tile (field w0 63 48) [5, 6] false).andThen (fun s x =>
          (s.needHandle st tile (field w0 47 32) anyFormat true).andThen (fun s y =>
            (s.pass st (need (y.dim0 == x.dim0 && y.dim1 == x.dim1 && decide (row0 + rows ≤ x.dim1) &&
              (y.format == 3 || ((y.format == 1 || y.format == 2) && y.grp != 0))))).andThen (fun s _ =>
              .go s (.cqnt x y row0 rows (w0.testBit 0))))))))

end Sys2Proof.Machine
end

