-- ==== Sys2Proof/Machine/EngineRun.lean ====
section
/-! DEFINITION. What the engines do with an operation, as a whole, when it starts (R247, R249, R255 to R275,
R358, R359). -/
namespace Sys2Proof.Machine

/-- An engine's access: done, waiting for a page, or the error that ends the operation (R249). -/
inductive Eng (α : Type) where
  | ok (s : State) (a : α)
  | miss (va : Nat)
  | fail (s : State) (err : W64)

def Eng.andThen {α β : Type} (x : Eng α) (f : State → α → Eng β) : Eng β :=
  match x with
  | .ok s a => f s a
  | .miss va => .miss va
  | .fail s e => .fail s e

/-- For whom an operation runs: its tile, its team, and the pages refused to it. -/
structure EngCtx where
  tile : Nat
  asid : Nat
  ident : Nat
  block : Nat
  denied : List W64
  deriving DecidableEq, Repr

/-- Only the first error of an operation is reported (R249). -/
def Eng.first {α : Type} (x : Eng α) (err : Option W64) : Eng α :=
  match x with
  | .fail s e => .fail s (err.getD e)
  | .ok s a => .ok s a
  | .miss va => .miss va

/-- Error word (R249) (DEDUCED, log entry 38). -/
def errWord (code detail : Nat) : W64 := BitVec.ofNat 64 (code * 2 ^ 56 + detail % 2 ^ 40)

/-- Detail of codes 0x08 and 0x09: the access less the operand's base (R249). -/
def lessBase (va : Nat) (base : W64) : Nat := (va + 2 ^ 64 - base.toNat) % 2 ^ 64

/-- The translation of an engine's page (R249, R349): `at` is the first byte of the access. -/
def State.engPage (s : State) (c : EngCtx) (va start : Nat) (write : Bool) (base : W64) : Eng TlbEnt :=
  let bad (s : State) : Eng TlbEnt := .fail s (errWord 8 (lessBase start base))
  let chk (s : State) (e : TlbEnt) : Eng TlbEnt :=
    if (if write then pteW e.leaf else pteR e.leaf) = false then bad s
    else if s.migrating [(leafLoc e.leaf va, 1)] then .miss va
    else .ok s e
  if 2 ^ 56 ≤ va then bad s
  else
    match s.xlate c.tile c.asid va with
    | some (s, e) => chk s e
    | none =>
      match s.fill (c.tile / 256) c.asid va with
      | .entry s e => match s.xlate c.tile c.asid va with
        | some (s, e) => chk s e
        | none => chk s e
      | .conflict f pa tag => bad (s.clashNotice (c.tile / 256) c.asid va f pa tag)
      | .absent => if c.denied.contains (BitVec.ofNat 64 (va / 4096 * 4096)) then bad s else .miss va

/-- The package that a place belongs to; none for host memory. -/
def Loc.package (l : Loc) : Option Nat := l.die.map (· / 4)

/-- Frame-class bytes would leave their package otherwise than through the marker (R316). -/
def State.egress (s : State) (src dst : List (Loc × Nat)) : Bool :=
  src.any (fun e => s.frameClass [e] && dst.any (fun f => f.1.package != e.1.package))

/-- Read device virtual bytes page by page; `dst` is where they go (R316). -/
def State.engRead (fuel : Nat) (s : State) (c : EngCtx) (dst : List (Loc × Nat)) (va n start : Nat) (base : W64) :
    Eng (List Byte) :=
  match fuel with
  | 0 => .ok s []
  | fuel + 1 =>
    if n = 0 then .ok s []
    else
      (s.engPage c va start false base).andThen (fun s e =>
        let room := Nat.min n (e.va + e.size - va)
        let segs := [(leafLoc e.leaf va, room)]
        if s.egress segs dst then .fail s (errWord 8 (lessBase start base))
        else if s.segsPoisoned segs then .fail s (errWord 9 (lessBase start base))
        else (State.engRead fuel s c dst (va + room) (n - room) start base).andThen (fun s bs =>
          .ok s (s.readSegs c.asid segs ++ bs)))

/-- An access read as one. -/
def State.devRead (s : State) (c : EngCtx) (va n : Nat) (base : W64) : Eng (List Byte) :=
  State.engRead (n / 4096 + 2) s c [] va n va base

/-- Write device virtual bytes page by page: bytes written stay (R249); dirty pages are logged (R347); `src` is where they come
from (R316). -/
def State.engWrite (fuel : Nat) (s : State) (c : EngCtx) (src : List (Loc × Nat)) (va : Nat) (bs : List Byte) (start : Nat)
    (base : W64) : Eng Unit :=
  match fuel with
  | 0 => .ok s ()
  | fuel + 1 =>
    if bs.isEmpty then .ok s ()
    else
      (s.engPage c va start true base).andThen (fun s e =>
        let room := Nat.min bs.length (e.va + e.size - va)
        let dst := [(leafLoc e.leaf va, room)]
        if s.egress src dst then .fail s (errWord 8 (lessBase start base))
        else
        let s := match s.logDirty c.tile [e] with
          | some s => s
          | none => ((s.mergeDirty c.tile).logDirty c.tile [e]).getD s
        let s := s.writeSegs (.engine c.tile) c.asid va dst (bs.take room)
        State.engWrite fuel s c src (va + room) (bs.drop room) start base)

def State.devWrite (s : State) (c : EngCtx) (va : Nat) (bs : List Byte) (base : W64) : Eng Unit :=
  State.engWrite (bs.length / 4096 + 2) s c [] va bs va base

/-- The offset of a canonical local address. -/
def ownOffset (a : W64) : Nat := a.toNat % 2 ^ 21

/-- Where a byte of the grant of the operation's own team is: never a line of another team (R248, R354). -/
def State.opPlace (s : State) (c : EngCtx) (off : Nat) : Place :=
  let w := s.tile c.tile
  let mine (m : Team) : Bool := m.is c.asid c.ident c.block
  if (s.die (c.tile / 256)).resetting then .reset
  else if (w.team.map (fun m => mine m && decide (off < m.grant))).getD false then .bank
  else
    match w.swapped.find? (fun x => mine x.team) with
    | some x => x.place off
    | none => s.place c.tile c.asid off

/-- Read local bytes; a poisoned line fails the operation (R362). -/
def State.spadRead (s : State) (c : EngCtx) (a : W64) (off n : Nat) : Eng (List Byte) :=
  let o := ownOffset a + off
  let ps := (List.range n).map (fun i => (o + i, s.opPlace c (o + i)))
  if ps.any (fun p => s.placePoisoned c.tile p.1 p.2) then .fail s (errWord 9 off)
  else .ok s (ps.map (fun p => s.readPlace c.tile p.1 p.2))

/-- Write local bytes, in the bank or, when the team is away, in its image (R248, R354). -/
def State.spadWrite (s : State) (c : EngCtx) (a : W64) (off : Nat) (bs : List Byte) : State :=
  let o := ownOffset a + off
  if bs.isEmpty then s
  else s.storePlaced (.engine c.tile) c.tile c.asid (some c.ident) (tileSpace c.tile o) c.tile o
    ((List.range bs.length).map (fun i => s.opPlace c (o + i))) bs

/-- A step for each index, in order, with an accumulator. -/
def engLoop {α β : Type} (l : List β) (s : State) (a : α) (f : State → α → β → Eng α) : Eng α :=
  match l with
  | [] => .ok s a
  | x :: r => (f s a x).andThen (fun s a => engLoop r s a f)

/-- The same up to the first failure, whose error comes with what the steps had given by then. -/
def engUntil {α β : Type} (l : List β) (s : State) (a : α) (f : State → α → β → Eng (α × Option W64)) :
    Eng (α × Option W64) :=
  match l with
  | [] => .ok s (a, none)
  | x :: r => match f s a x with
    | .ok s (a, none) => engUntil r s a f
    | .ok s (a, some e) => .ok s (a, some e)
    | .miss va => .miss va
    | .fail s e => .ok s (a, some e)

/-- A step that gives `a` and then makes its accesses: what it gave stays when one of them fails. -/
def Eng.keeping {α : Type} (x : Eng Unit) (a : α) : Eng (α × Option W64) :=
  match x with
  | .ok s _ => .ok s (a, none)
  | .miss va => .miss va
  | .fail s e => .ok s (a, some e)

/-- The end of an operation: the machine, its error and flags, its busy time, the clk from its end to the token's completion,
and the chase that it sets then (R257). -/
structure OpEnd where
  s : State
  err : Option W64
  flags : W64
  busy : Nat
  tail : Nat
  chase : Option (Nat × Chase)

/-- Waiting for a page, or ended. -/
inductive Ran where
  | wait (va : Nat)
  | done (r : OpEnd)

/-- An operation with no flags and no tail. -/
def Ran.plain (s : State) (err : Option W64) (busy : Nat) : Ran := .done ⟨s, err, 0, busy, 0, none⟩

/-- End an access sequence as an operation of a busy time. -/
def Eng.ran (x : Eng (Option W64)) (busy : Nat) : Ran :=
  match x with
  | .ok s e => .plain s e busy
  | .miss va => .wait va
  | .fail s e => .plain s (some e) busy

/-! ## Chases -/

def State.chase (s : State) (t k : Nat) : Chase := (s.tile t).chases.get Chase.reset k
def State.setChase (s : State) (t k : Nat) (c : Chase) : State :=
  s.modTile t (fun w => { w with chases := w.chases.put Chase.reset k c })

/-- A chase left unset, with its duplication map (R257, R259). -/
def Chase.unset (asid : Nat) (dup : List Nat) : Chase := { Chase.reset with asid := asid, dup := dup }

/-- A group as read or cast: trits in K order, scale. -/
abbrev Group := List Int × BitVec 16

/-- Groups of a plate in ascending ordinal: (column, K-group, ordinal) (R257). -/
def plateGroups (g : Geo) (kgs : Nat) : List (Nat × Nat × Nat) :=
  (List.range g.cols).flatMap (fun n => (List.range g.kg).map (fun a => (n, a, (g.n0 + n) * kgs + g.j0 + a)))

/-- Bits of a trit cell: its digit (R29; DESIGN CHOICE, log entry 17). -/
def cellCode (t : Int) : Nat := if t = 0 then 0 else if 0 < t then 1 else 2
def cellTrit (c : Nat) : Int := tritOf c

/-- The trit of a local row and column of a macro, from the groups read (keyed by column · kg + a). -/
def trit (gs : List Group) (g : Geo) (m k col : Nat) : Int :=
  let a := m % g.kg
  let n := 64 * (m / g.kg) + col
  if n < g.cols then ((gs.getD (n * g.kg + a) ([], 0)).1).getD k 0 else 0

/-- The cells of a row. -/
def rowCells (gs : List Group) (g : Geo) (m k : Nat) : BitVec 128 :=
  BitVec.ofNat 128 ((List.range 64).foldr (fun c x => cellCode (trit gs g m k c) + 4 * x) 0)

/-- Row-map entries of a macro with the cells of their rows (R257, R258). -/
def macroRows (gs : List Group) (g : Geo) (dup : List Nat) (m : Nat) : List (BitVec 16 × BitVec 128) :=
  (List.range 320).flatMap (fun k =>
    let c := rowCells gs g m k
    if c = 0 then []
    else if (dupsOf dup g).contains (320 * (m % g.kg) + k) then
      [(BitVec.ofNat 16 (2 ^ 15 + k), c), (BitVec.ofNat 16 (2 ^ 15 + 2 ^ 14 + k), c)]
    else [(BitVec.ofNat 16 (2 ^ 15 + k), c)])

/-- Parity of a row's cells (R358). -/
def cellParity (c : BitVec 128) : Bool := (List.range 128).foldl (fun x i => x ^^ c.getLsbD i) false

/-- The check word of a macro (R359): 320 rows of 16 bytes. -/
def macroCheck (cells : Nat → BitVec 128) : W32 :=
  crc32c ((List.range 320).flatMap (fun i => leBytes 16 (cells i).toNat))

/-- Kerning and row maps: the set chase, or the first macro that overflows (R257). -/
def buildChase (asid : Nat) (g : Geo) (dup : List Nat) (gs : List Group) : Except Nat Chase :=
  let used := g.kg * g.ng
  let rows := (List.range used).map (macroRows gs g dup)
  match (List.range used).find? (fun m => decide (320 < (rows.getD m []).length)) with
  | some m => .error m
  | none =>
    let flat := (List.range used).flatMap (fun m =>
      ((rows.getD m []).zipIdx).map (fun e => (320 * m + e.2, e.1.1, e.1.2)))
    .ok {
      state := .set
      asid := asid
      geo := g
      dup := dup
      rows := flat.map (fun e => (e.1, e.2.1))
      scales := ((List.range used).flatMap (fun m => (List.range 64).filterMap (fun c =>
        let n := 64 * (m / g.kg) + c
        let v := (gs.getD (n * g.kg + m % g.kg) ([], 0)).2
        if n < g.cols ∧ v ≠ 0 then some (64 * m + c, v) else none)))
      cells := flat.map (fun e => (e.1, e.2.2))
      parity := (flat.filter (fun e => cellParity e.2.2)).map (fun e => (e.1, true))
      check := (List.range used).filterMap (fun m =>
        let r := rows.getD m []
        let w := macroCheck (fun i => (r.getD i (0, 0)).2)
        if w = 0 then none else some (m, w)) }

/-- Physical rows of a macro (R258): its valid entries, in order. -/
def Chase.macroMap (c : Chase) (m : Nat) : List (Nat × BitVec 16) :=
  c.rows.filter (fun e => e.1 / 320 == m)

/-- Row time (R264). -/
def Chase.rowTime (c : Chase) (planes : Nat) : Nat :=
  (List.range (c.geo.kg * c.geo.ng)).foldl
    (fun t m => Nat.max t (((c.macroMap m).length + 31) / 32 * planes)) planes

/-- The trit of a physical row and column. -/
def Chase.trit (c : Chase) (key col : Nat) : Int :=
  cellTrit (((c.cells.get 0 key) >>> (2 * col)).toNat % 4)

/-! ## FSET, FMAP, FSCL, FCLR, FPRB -/

/-- The scale record of an ordinal, its seq checked (R33). -/
def State.record (s : State) (c : EngCtx) (t : Tensor) (o : Nat) : Eng (Option (BitVec 16)) :=
  (s.devRead c ((t.sbase.toNat + 4 * o) % 2 ^ 64) 4 t.sbase).andThen (fun s bs =>
    let v := leNat bs
    .ok s (if v / 2 ^ 16 = o % 2 ^ 16 then some (BitVec.ofNat 16 v) else none))

/-- One group of a plate: bytes, code check, record (R257). -/
def State.readGroup (s : State) (c : EngCtx) (t : Tensor) (o : Nat) : Eng Group :=
  let kg := Nat.min 320 (t.dim0 - 320 * (o % t.kgs))
  (s.devRead c ((t.base.toNat + o * t.pitch) % 2 ^ 64) ((kg + 4) / 5) t.base).andThen (fun s bs =>
    if bs.any (fun b => decide (243 ≤ b.toNat)) then .fail s (errWord 1 o)
    else (s.record c t o).andThen (fun s r =>
      match r with
      | none => .fail s (errWord 2 o)
      | some v => .ok s ((bs.flatMap (fun b => (t5Trits b).getD [])).take kg, v)))

/-- The end of FSET and of a direct CAST: the chase built from the groups is set when the operation ends; until then, and on a
failure, it stays unset (R257). -/
def State.setPlate (s : State) (c : EngCtx) (k : Nat) (g : Geo) (gs : List Group) (err : Option W64) (flags : W64) (busy : Nat) :
    Ran :=
  match buildChase c.asid g (s.chase c.tile k).dup gs with
  | .ok x => .done ⟨s, err, flags, busy, 0, some (k, x)⟩
  | .error m => .done ⟨s, some (err.getD (errWord 4 m)), flags, busy, 0, none⟩

/-- R257, R260 -/
def State.runFset (s : State) (c : EngCtx) (k : Nat) (g : Geo) (t : Tensor) : Ran :=
  let groups := plateGroups g t.kgs
  match engUntil groups s [] (fun s acc x => (s.readGroup c t x.2.2).andThen (fun s v => .ok s (acc ++ [v], none))) with
  | .miss va => .wait va
  | .fail s e => .plain s (some e) groups.length
  | .ok s (gs, some e) => .plain s (some e) (gs.length + 1)
  | .ok s (gs, none) => s.setPlate c k g gs none 0 (groups.length + 40)

/-- R266 -/
def State.runFscl (s : State) (c : EngCtx) (k : Nat) (g : Geo) (t : Tensor) : Ran :=
  let x := s.chase c.tile k
  let groups := plateGroups g t.kgs
  if x.state = .unset ∨ x.asid ≠ c.asid then .plain s (some (errWord 5 k)) (groups.length + 4)
  else
    let r := engLoop groups s ([] : List (BitVec 16)) (fun s acc e =>
      (s.record c t e.2.2).andThen (fun s r =>
        match r with
        | none => .fail s (errWord 2 e.2.2)
        | some v => .ok s (acc ++ [v])))
    match r with
    | .miss va => .wait va
    | .fail s e => .plain s (some e) (groups.length + 4)
    | .ok s l =>
      let scales := (List.range (g.kg * g.ng)).flatMap (fun m => (List.range 64).filterMap (fun col =>
        let n := 64 * (m / g.kg) + col
        let v := l.getD (n * g.kg + m % g.kg) 0
        if n < g.cols ∧ v ≠ 0 then some (64 * m + col, v) else none))
      .plain (s.setChase c.tile k { x with scales := scales }) none (groups.length + 4)

/-- A chase that another context holds, set or by its duplication map, is left alone (R267; DESIGN CHOICE, log entry 61). -/
def Chase.foreign (x : Chase) (a : Nat) : Bool := x.asid != a && (x.state != .unset || x.dup != [])

/-- R267 -/
def State.runFclr (s : State) (c : EngCtx) (mask : W32) : Ran :=
  let clear (s : State) (k : Nat) : State :=
    if mask.getLsbD k && !(s.chase c.tile k).foreign c.asid then
      (s.setChase c.tile k Chase.reset).modTile c.tile (fun w =>
        { w with active := if w.active = some k then none else w.active })
    else s
  .plain ((List.range 32).foldl clear s) none 4

/-- The record of FPRB (R268). -/
def probe (x : Chase) (a : Nat) : List Byte :=
  if x.state = .unset ∨ x.asid ≠ a then List.replicate 192 0
  else
    let g := x.geo
    let st := if x.state = .set then 1 else 2
    let count (m : Nat) : Nat := if m < g.kg * g.ng then (x.macroMap m).length else 0
    leBytes 8 (st * 2 ^ 62 + x.asid * 2 ^ 40 + g.cols * 2 ^ 16 + g.kg * 2 ^ 8 + g.ng) ++
      leBytes 8 (g.n0 * 2 ^ 32 + g.j0) ++
      leBytes 8 (g.handle * 2 ^ 48 + (dupsOf x.dup g).length * 2 ^ 24 + x.rowTime 8 * 2 ^ 8 + x.rowTime 4) ++
      List.replicate 40 0 ++ (List.range 64).flatMap (fun m => leBytes 2 (count m))

/-! ## FMM and FMMT -/

/-- Elements of a local row: INT8, INT4 (R34). -/
def elemAt (act : Nat) (bs : List Byte) (i : Nat) : Int :=
  if act = 1 then
    let b := (bs.getD (i / 2) 0).toNat
    sx 4 (if i % 2 = 0 then b % 16 else b / 16)
  else (bs.getD i 0).toInt

/-- The expanded position of a plate index (R262). -/
def expandPos (dups : List Nat) (k : Nat) : Nat := k + dups.countP (fun d => decide (d < k))

/-- The element a row-map entry names (R258, R262). -/
def driven (act : Nat) (dups : List Nat) (a : Nat) (bs : List Byte) (e : BitVec 16) : Int :=
  let k := 320 * a + e.toNat % 512
  let pos := if act = 0 then expandPos dups k + (if e.getLsbD 14 then 1 else 0) else k
  elemAt act bs pos

/-- P_a of FMM for INT8 and INT4 (R263). -/
def partialInt (x : Chase) (dups : List Nat) (act : Nat) (bs : List Byte) (a n : Nat) : Int :=
  let m := n / 64 * x.geo.kg + a
  (x.macroMap m).foldl (fun s e => s + x.trit e.1 (n % 64) * driven act dups a bs e.2) 0

/-- P_a of FMM for MXINT8: exact (R263, R38). -/
def partialMx (x : Chase) (bs scales : List Byte) (a n : Nat) : FVal :=
  let m := n / 64 * x.geo.kg + a
  (x.macroMap m).foldl (fun s e =>
    let k := 320 * a + e.2.toNat % 512
    let t := x.trit e.1 (n % 64)
    let v := mxVal (bs.getD k 0) (scales.getD (k / 32) 0)
    if t = 0 then s else s.add (if 0 < t then v else v.neg)) (FVal.ofInt 0) |>.plusZero

/-- P_b of FMMT (R265): first halves only. -/
def partialT (x : Chase) (act : Nat) (bs : List Byte) (b k : Nat) : Int :=
  let m := b * x.geo.kg + k / 320
  match (x.macroMap m).find? (fun e => e.2.toNat % 512 == k % 320 && !e.2.getLsbD 14) with
  | none => 0
  | some e => (List.range 64).foldl (fun s c =>
      if 64 * b + c < x.geo.cols then s + x.trit e.1 c * elemAt act bs (64 * b + c) else s) 0

/-- One scaled term: facc := rne(facc + rne(scale × P)) with flags (R49, R43). -/
def scaledStep (z : Bool) (acc : FVal × W64) (sc p : FVal) : FVal × W64 :=
  let x := sc.mul p
  let r := x.toF32 z
  let y := FVal.ofF32 r.1
  let w := acc.1.add y
  let q := w.toF32 z
  (FVal.ofF32 q.1, acc.2 ||| r.2 ||| q.2 ||| invOf [sc, p] x ||| invOf [acc.1, y] w)

/-- The scaled output of an element: bytes and flags (R263). -/
def scaledOut (b : FmmBlk) (acc : FVal × W64) : List Byte × W64 :=
  match b.out with
  | 1 => let r := acc.1.toBf b.z; (leBytes 2 r.1.toNat, acc.2 ||| r.2)
  | 2 => let r := acc.1.toF32 b.z; (leBytes 4 r.1.toNat, acc.2)
  | _ =>
    let o := FVal.ofF32 (if b.z then BitVec.ofNat 32 (flushIn 23 b.oscale.toNat) else b.oscale)
    let x := acc.1.mul o
    let r := x.toF32 b.z
    let q := (FVal.ofF32 r.1).toSat (-127) 127
    ([BitVec.ofInt 8 q.1], acc.2 ||| r.2 ||| q.2 ||| invOf [acc.1, o] x)

/-- The scale of a macro column, as FMM reads it (R33, R43). -/
def Chase.scale (x : Chase) (z : Bool) (a n : Nat) : FVal :=
  let v := x.scales.get 0 (64 * (n / 64 * x.geo.kg + a) + n % 64)
  FVal.ofBf (if z then BitVec.ofNat 16 (flushIn 7 v.toNat) else v)

/-- Partials of one output element, in the order of its groups, with the scale each takes. -/
def partials (x : Chase) (b : FmmBlk) (transposed : Bool) (dups : List Nat) (bs mx : List Byte) (j : Nat) :
    List (FVal × FVal) :=
  if transposed then
    (List.range x.geo.ng).map (fun g => (FVal.ofInt 1, FVal.ofInt (partialT x b.act bs g j)))
  else
    (List.range x.geo.kg).map (fun a => (x.scale b.z a j,
      if b.act = 2 then partialMx x bs mx a j else FVal.ofInt (partialInt x dups b.act bs a j)))

/-- The sum of exact integer partials (mode 00). -/
def sumPartials (l : List (FVal × FVal)) : Int := l.foldl (fun s e => s + e.2.toIntRne) 0

/-- Change a team wherever it is: on its tile or swapped out from it. -/
def State.modTeamOf (s : State) (t a i b : Nat) (f : Team → Team) : State :=
  s.modTile t (fun w => { w with
    team := w.team.map (fun m => if m.is a i b then f m else m)
    swapped := w.swapped.map (fun x => if x.team.is a i b then { x with team := f x.team } else x) })

/-- One row of results in the accumulator (R263 mode 00). -/
def Team.accRow (m : Team) (n base : Nat) (l : List Int) : Team :=
  (l.zipIdx).foldl (fun (m : Team) e =>
    let old := m.acGet n (base + e.2)
    let r := satInt (-(2 ^ 31 : Int)) (2 ^ 31 - 1) (old.toInt + e.1)
    let m := { m with ac := m.ac.put 0 (512 * n + base + e.2) (BitVec.ofInt 32 r.1) }
    if r.2 = 0 then m else m.flag (flSat ||| acsatBit n)) m

/-- Whether a block of the row's scale bytes reads as zeros (R38) (DEDUCED, log entry 39). -/
def mxInv (b : FmmBlk) (mx : List Byte) : W64 := if b.act = 2 && mx.any (· == 0xFF) then flInv else 0

/-- One activation row (R262, R263, R265). -/
def State.fmmRow (s : State) (c : EngCtx) (o : EngOp) (b : FmmBlk) (src dst : W64) (transposed : Bool) (x : Chase)
    (fl : W64) (r : Nat) : Eng W64 :=
  let dups := dupsOf x.dup x.geo
  let outs := if transposed then x.geo.kx else x.geo.cols
  let n := rowBytes b ⟨true, c.asid, x.geo, x.dup⟩ transposed
  (s.spadRead c src (r * b.spitch) n).andThen (fun s bs =>
    (if b.act = 2 then s.spadRead c b.mxaddr (r * b.mxpitch) ((x.geo.kx + 31) / 32) else .ok s []).andThen (fun s mx =>
      let ps (j : Nat) : List (FVal × FVal) := partials x b transposed dups bs mx j
      if b.out = 0 then
        let l := (List.range outs).map (fun j => sumPartials (ps j))
        .ok (s.modTeamOf c.tile o.asid o.ident o.block (fun m => m.accRow b.acc (r * outs) l)) fl
      else
        let rs := (List.range outs).map (fun j =>
          scaledOut b ((ps j).foldl (fun acc e => scaledStep b.z acc e.1 e.2) (FVal.ofInt 0, 0)))
        let fl := rs.foldl (fun (f : W64) e => f ||| e.2) (fl ||| mxInv b mx)
        .ok (s.spadWrite c dst (r * b.opitch) (rs.flatMap (·.1))) fl))

/-- The macros that hold a row whose parity does not match its cells (R358). -/
def Chase.badParity (x : Chase) : List Nat :=
  ((x.rows.filter (fun e => cellParity (x.cells.get 0 e.1) != x.parity.get false e.1)).map (fun e => e.1 / 320)).dedup

/-- A plate-suspect notice (R356 kind 9). -/
def State.suspectNotice (s : State) (t a k m cause : Nat) : State :=
  s.notice (t / 256) a (noticeBytes 9 t (k * 2 ^ 8 + m) s.podTime.toNat cause)

/-- R263 to R265, R358 (DEDUCED, log entry 38). -/
def State.runFmm (s : State) (c : EngCtx) (o : EngOp) (b : FmmBlk) (src dst : W64) (transposed : Bool) : Ran :=
  let x := s.chase c.tile b.chase
  if b.rows = 0 then .plain s none 1
  else
    let planes := if b.act = 1 then 4 else 8
    let switch := if (s.tile c.tile).active = some b.chase then 0 else 24
    let s := s.modTile c.tile (fun w => { w with active := some b.chase })
    if x.state = .unset ∨ x.asid ≠ c.asid then
      .done ⟨s, some (errWord 5 b.chase), 0, switch + b.rows * (if transposed then 8 * planes else planes), 20, none⟩
    else
    let busy := switch + b.rows * (if transposed then 8 * planes else x.rowTime planes)
    let (s, x) : State × Chase := match x.badParity with
      | [] => (s, x)
      | l =>
        let y : Chase := { x with state := .suspect }
        (l.foldl (fun (s : State) m => s.suspectNotice c.tile c.asid b.chase m 2) (s.setChase c.tile b.chase y), y)
    let err := if x.state = ChaseState.suspect then some (errWord 6 b.chase) else none
    match engUntil (List.range b.rows) s (0 : W64) (fun s fl r =>
      ((s.fmmRow c o b src dst transposed x fl r).first err).andThen (fun s fl => .ok s (fl, none))) with
    | .miss va => .wait va
    | .fail s e => .done ⟨s, some e, 0, busy, 20, none⟩
    | .ok s (fl, none) => .done ⟨s, err, fl, busy, 20, none⟩
    | .ok s (fl, some e) => .done ⟨s, some e, fl, busy, 20, none⟩

/-! ## Copies (R269 to R272) -/

/-- Lines of 64 bytes that n bytes take. -/
def linesOf (n : Nat) : Nat := (n + 63) / 64

/-- Scratchpad lines that n bytes from an offset on touch. -/
def linesAt (off n : Nat) : Nat := if n = 0 then 0 else (off % 64 + n + 63) / 64

/-- Scratchpad lines of rows at a pitch: the copy engine moves one of them a clk (R269). -/
def rowLines (a : W64) (pitch rows n : Nat) : Nat :=
  (List.range rows).foldl (fun k i => k + linesAt (ownOffset a + i * pitch) n) 0

/-- Address of element c0 of a row (R252). -/
def Tensor.elemVa (t : Tensor) (row c0 : Nat) : Nat := (t.base.toNat + row * t.pitch + c0 * t.half / 2) % 2 ^ 64

/-- Address of the scale byte of an element's block (R251). -/
def Tensor.scaleVa (t : Tensor) (row c0 : Nat) : Nat := (t.sbase.toNat + row * t.spitch + c0 / 32) % 2 ^ 64

/-- Bytes from memory to the scratchpad, or back; frame-class bytes stay in their package (R316). -/
def State.moveRow (s : State) (c : EngCtx) (toHandle : Bool) (va : Nat) (base : W64) (a : W64) (off n : Nat) :
    Eng Unit :=
  let own : List (Loc × Nat) := [(.spad c.tile (ownOffset a + off), n)]
  if toHandle then
    (s.spadRead c a off n).andThen (fun s bs => State.engWrite (n / 4096 + 2) s c own va bs va base)
  else (State.engRead (n / 4096 + 2) s c own va n va base).andThen (fun s bs => .ok (s.spadWrite c a off bs) ())

/-- R269. The whole source is read when the copy starts, one of the values that R93 allows (DESIGN CHOICE, log entry 54). -/
def State.runCpy (s : State) (c : EngCtx) (t : Tensor) (toHandle : Bool) (rows row0 c0 cols dpitch : Nat)
    (spad sa : W64) : Ran :=
  let n := cols * t.half / 2
  let r := engLoop (List.range rows) s () (fun s _ i =>
    (s.moveRow c toHandle (t.elemVa (row0 + i) c0) t.base spad (i * dpitch) n).andThen (fun s _ =>
      if sa = 0 then .ok s ()
      else s.moveRow c toHandle (t.scaleVa (row0 + i) c0) t.sbase sa (64 * i) ((cols + 31) / 32)))
  (r.andThen (fun s _ => .ok s none)).ran (Nat.max 1 (rowLines spad dpitch rows n +
    (if sa = 0 then 0 else rowLines sa 64 rows ((cols + 31) / 32))))

/-- Chunks of a tile-list entry: (source offset, destination offset, bytes) (R270). -/
def chunksOf (chunk len dbase n j : Nat) : List (Nat × Nat × Nat) :=
  ((List.range ((len + chunk - 1) / chunk)).filter (fun i => i % n == j)).map (fun i =>
    (i * chunk, dbase + i / n * chunk, Nat.min chunk (len - i * chunk)))

/-- The grant of an operation's own team on its tile, else the context's (R248). -/
def State.opGrant (s : State) (c : EngCtx) : Option Nat :=
  let w := s.tile c.tile
  let mine (m : Team) : Bool := m.is c.asid c.ident c.block
  match w.team.filter mine, w.swapped.find? (fun x => mine x.team) with
  | some m, _ => some m.grant
  | none, some x => some x.team.grant
  | none, none => w.grantOf c.asid

/-- A tile takes the chunks if its own check passes (R270, R25); on the operation's own tile the grant is its team's (R248). -/
def State.takesChunks (s : State) (u : Nat) (c : EngCtx) (l : List (Nat × Nat × Nat)) : Bool :=
  let g := if u = c.tile then s.opGrant c else (s.tile u).grantOf c.asid
  l.all (fun e => g.any (fun g => decide (e.2.1 + e.2.2 ≤ g)))

/-- Write bytes into another tile's scratchpad, or into that of the operation's own team (R248). -/
def State.chunkWrite (s : State) (c : EngCtx) (u off : Nat) (bs : List Byte) : State :=
  if u = c.tile then s.spadWrite c (tileSpace u off) 0 bs
  else s.storeAt (.engine c.tile) c.tile c.asid (some c.ident) (tileSpace u off) (.spad u off) bs

/-- R270. The chunks of one list entry are read after those of the entries before it, which decides the first error and what is
written before it (DESIGN CHOICE, log entry 61). -/
def State.runCpyr (s : State) (c : EngCtx) (src : W64) (chunk len dbase : Nat) (tiles : List Nat) : Ran :=
  let r := engLoop (List.range tiles.length) s (none : Option W64) (fun s err j =>
    let u := tiles.getD j 0
    let l := chunksOf chunk len dbase tiles.length j
    if s.takesChunks u c l then
      (engLoop l s err (fun s err e =>
        if s.egress [(.spad c.tile (ownOffset src + e.1), e.2.2)] [(.spad u e.2.1, e.2.2)] then
          .fail s (errWord 8 (e.2.1 - dbase))
        else (s.spadRead c src e.1 e.2.2).andThen (fun s bs => .ok (s.chunkWrite c u e.2.1 bs) err))).first err
    else .ok s (match err with
      | some e => some e
      | none => some (errWord 10 j)))
  r.ran (Nat.max 1 (linesAt (ownOffset src) len))

/-- R271 -/
def State.runCpyg (s : State) (c : EngCtx) (t : Tensor) (rows c0 cols dpitch : Nat) (list dst : W64) : Ran :=
  let n := cols * t.half / 2
  let r := engLoop (List.range rows) s (none : Option W64) (fun s err i =>
    ((s.spadRead c list (4 * i) 4).andThen (fun s bs =>
      let row := leNat bs
      if t.rows ≤ row then .ok s (match err with
        | some e => some e
        | none => some (errWord 7 i))
      else (s.moveRow c false (t.elemVa row c0) t.base dst (i * dpitch) n).andThen (fun s _ => .ok s err))).first err)
  r.ran (Nat.max 1 (rowLines dst dpitch rows n))

/-- The bytes of a pattern repeated over n bytes, a multiple of 8 (R272). -/
def patternBytes (pat : W64) (n : Nat) : List Byte := (List.range (n / 8)).flatMap (fun _ => leBytes 8 pat.toNat)

/-- Fill page by page: the failing page's first byte is the detail (R249, R272). -/
def State.fillPages (fuel : Nat) (s : State) (c : EngCtx) (va n : Nat) (pat base : W64) : Eng Unit :=
  match fuel with
  | 0 => .ok s ()
  | fuel + 1 =>
    if n = 0 then .ok s ()
    else
      let m := Nat.min n (4096 - va % 4096)
      (s.devWrite c va (patternBytes pat m) base).andThen (fun s _ => State.fillPages fuel s c (va + m) (n - m) pat base)

/-- R272 -/
def State.runCfil (s : State) (c : EngCtx) (dst : W64) (n : Nat) (pat : W64) : Ran :=
  if dst.toNat < 2 ^ 56 then
    ((State.fillPages (n / 4096 + 2) s c dst.toNat n pat dst).andThen (fun s _ => .ok s none)).ran (Nat.max 1 (linesOf n))
  else .plain (s.spadWrite c dst 0 (patternBytes pat n)) none (Nat.max 1 (linesAt (ownOffset dst) n))

/-! ## The casting unit (R273, R274) -/

/-- A cast group: its trits and scale, whether it held a NaN or an infinity (R274), and its flags: a sum or a scale that
overflows sets OVF (R43). -/
def castGroup (th : Byte) (ws : List (BitVec 16)) : Group × Bool × W64 :=
  let xs := ws.map FVal.ofBf
  let bad := xs.any (fun x => match x with
    | .fin _ _ _ => false
    | .inf _ => true
    | .nan _ => true)
  if bad then ((ws.map (fun _ => 0), 0), true, 0)
  else
    let sum := xs.foldl (fun (a : FVal × W64) x =>
      let r := (a.1.add x.abs).toF32
      (FVal.ofF32 r.1, a.2 ||| r.2)) (FVal.ofInt 0, 0)
    let sc := match sum.1 with
      | .fin f n d => FVal.ofF32 (FVal.fin f n (d * Nat.max 1 ws.length)).toF32.1
      | x => x
    let lim := (FVal.ofF8 th).mul sc
    let t (x : FVal) : Int := if lim.ltNum x.abs then (match x with
        | .fin true _ _ => -1
        | _ => 1) else 0
    ((xs.map t, sc.toBf.1), false, sum.2 ||| sc.toBf.2)

/-- T5 bytes of a group; padding positions are 0 (R29, R32). -/
def groupBytes (l : List Int) : List Byte :=
  (List.range ((l.length + 4) / 5)).map (fun i => t5Byte ((l.drop (5 * i)).take 5))

/-- Read and cast the group of an ordinal. -/
def State.castOne (s : State) (c : EngCtx) (t : Tensor) (th : Byte) (o : Nat) : Eng (Group × Bool × W64) :=
  let n := o / t.kgs
  let j := o % t.kgs
  let kg := Nat.min 320 (t.dim0 - 320 * j)
  (s.devRead c ((t.base.toNat + n * t.pitch + 640 * j) % 2 ^ 64) (2 * kg) t.base).andThen (fun s bs =>
    .ok s (castGroup th ((List.range kg).map (fun k => BitVec.ofNat 16 (leNat ((bs.drop (2 * k)).take 2))))))

/-- The first latent NaN is the error (R249). -/
def latent (err : Option W64) (bad : Bool) (o : Nat) : Option W64 :=
  match err with
  | some e => some e
  | none => if bad then some (errWord 3 o) else none

/-- The casting unit reads 64 latent bytes a clk (R274). -/
def castTime (t : Tensor) (l : List Nat) : Nat :=
  l.foldl (fun k o => k + linesOf (2 * Nat.min 320 (t.dim0 - 320 * (o % t.kgs)))) 0

/-- R273 memory mode -/
def State.runCast (s : State) (c : EngCtx) (src dst : Tensor) (th : Byte) (first count : Nat) : Ran :=
  let busy := Nat.max 1 (castTime src ((List.range count).map (first + ·)))
  match engUntil (List.range count) s ((none : Option W64), (0 : W64)) (fun s acc i =>
      let o := first + i
      (s.castOne c src th o).andThen (fun s g =>
        ((s.devWrite c ((dst.base.toNat + o * dst.pitch) % 2 ^ 64) (groupBytes g.1.1) dst.base).andThen (fun s _ =>
          s.devWrite c ((dst.sbase.toNat + 4 * o) % 2 ^ 64)
            (leBytes 4 (o % 2 ^ 16 * 2 ^ 16 + g.1.2.toNat)) dst.sbase)).keeping
          (latent acc.1 g.2.1 o, acc.2 ||| g.2.2))) with
  | .miss va => .wait va
  | .fail s e => .plain s (some e) busy
  | .ok s ((err, fl), last) => .done ⟨s, err <|> last, fl, busy, 0, none⟩

/-- R273 direct mode: the chase is set from the cast groups. -/
def State.runDirect (s : State) (c : EngCtx) (t : Tensor) (th : Byte) (k : Nat) (g : Geo) : Ran :=
  let groups := plateGroups g t.kgs
  let busy := castTime t (groups.map (·.2.2)) + 40
  match engUntil groups s (([] : List Group), (none : Option W64), (0 : W64)) (fun s acc x =>
      (s.castOne c t th x.2.2).andThen (fun s r =>
        .ok s ((acc.1 ++ [r.1], latent acc.2.1 r.2.1 x.2.2, acc.2.2 ||| r.2.2), none))) with
  | .miss va => .wait va
  | .fail s e => .plain s (some e) busy
  | .ok s ((_, err, fl), some e) => .done ⟨s, some (err.getD e), fl, busy, 0, none⟩
  | .ok s ((gs, err, fl), none) => s.setPlate c k g gs err fl busy

/-! ## CQNT (R275) -/

/-- Source elements of a row. -/
def rowVals (format : Nat) (z : Bool) (bs : List Byte) (n : Nat) : List FVal :=
  (List.range n).map (fun k =>
    if format = 5 then
      let v := leNat ((bs.drop (2 * k)).take 2)
      FVal.ofBf (BitVec.ofNat 16 (if z then flushIn 7 v else v))
    else
      let v := leNat ((bs.drop (4 * k)).take 4)
      FVal.ofF32 (BitVec.ofNat 32 (if z then flushIn 23 v else v)))

/-- A group of grouped INT8 or INT4: integers, scale, flags (R275); with z a subnormal scale is flushed (R43). -/
def quantGroup (qmax : Nat) (z : Bool) (l : List FVal) : List Int × BitVec 16 × W64 :=
  let bad := l.any (fun x => match x with
    | .fin _ _ _ => false
    | .inf _ => true
    | .nan _ => true)
  if bad then (l.map (fun _ => 0), 0, flInv)
  else
    let (s, f0) := ((maxAbs l).divFin (FVal.ofInt qmax)).toBf z
    if s.toNat % 2 ^ 15 = 0 then (l.map (fun _ => 0), 0, f0)
    else
      let rs := l.map (fun x => (x.divFin (FVal.ofBf s)).toSat (-qmax) qmax)
      (rs.map (·.1), s, rs.foldl (fun (f : W64) r => f ||| r.2) f0)

/-- Pieces of a list. -/
def pieces {α : Type} (fuel n : Nat) (l : List α) : List (List α) :=
  match fuel with
  | 0 => []
  | fuel + 1 => if l.isEmpty then [] else l.take n :: pieces fuel n (l.drop n)

/-- Bytes of INT8 or INT4 elements of a row; the unused nibble of an odd row is 0 (DESIGN CHOICE, log entry 18). -/
def packRow (format : Nat) (l : List Int) : List Byte :=
  if format = 2 then (List.range ((l.length + 1) / 2)).map (fun i =>
    BitVec.ofNat 8 (intBits 4 (l.getD (2 * i) 0) + 16 * intBits 4 (l.getD (2 * i + 1) 0)))
  else l.map (BitVec.ofInt 8)

/-- One row of CQNT. To MXINT8 it writes the elements of the row, none of the padding past its end (R39, R275; DESIGN CHOICE, log
entry 54). The flags are those of the groups quantised, whether or not their writes succeed (R47). -/
def State.cqntRow (s : State) (c : EngCtx) (src dst : Tensor) (z : Bool) (fl : W64) (r : Nat) : Eng (W64 × Option W64) :=
  let n := src.dim0
  (s.devRead c (src.elemVa r 0) (n * src.half / 2) src.base).andThen (fun s bs =>
    let vals := rowVals src.format z bs n
    if dst.format = 3 then
      let qs := (pieces (n + 1) 32 vals).map (fun p =>
        let q := mxQuant ((List.range 32).map (fun i => p[i]?))
        (q.1.take p.length, q.2.1, q.2.2))
      ((s.devWrite c (dst.elemVa r 0) (qs.flatMap (·.1)) dst.base).andThen (fun s _ =>
        s.devWrite c (dst.scaleVa r 0) (qs.map (·.2.1)) dst.sbase)).keeping
          (qs.foldl (fun (f : W64) q => f ||| q.2.2) fl)
    else
      let qmax := if dst.format = 1 then 127 else 7
      let qs := (pieces (n + 1) dst.grp vals).map (quantGroup qmax z)
      ((s.devWrite c (dst.elemVa r 0) (packRow dst.format (qs.flatMap (·.1))) dst.base).andThen (fun s _ =>
        engLoop qs.zipIdx s () (fun s _ q =>
          let o := r * ((n + dst.grp - 1) / dst.grp) + q.2
          s.devWrite c ((dst.sbase.toNat + 4 * o) % 2 ^ 64) (leBytes 4 (o % 2 ^ 16 * 2 ^ 16 + q.1.2.1.toNat))
            dst.sbase))).keeping (qs.foldl (fun (f : W64) q => f ||| q.2.2) fl))

/-- R275 -/
def State.runCqnt (s : State) (c : EngCtx) (src dst : Tensor) (row0 rows : Nat) (z : Bool) : Ran :=
  let busy := Nat.max 1 (rows * linesOf (src.dim0 * src.half / 2))
  match engUntil (List.range rows) s (0 : W64) (fun s fl i => s.cqntRow c src dst z fl (row0 + i)) with
  | .miss va => .wait va
  | .fail s e => .plain s (some e) busy
  | .ok s (fl, err) => .done ⟨s, err, fl, busy, 0, none⟩

/-- What an operation does when it starts: FSET and a direct CAST leave their chase unset until kerning ends (R257, R273). -/
def State.opBegins (s : State) (t : Nat) (o : EngOp) : State :=
  let unset (k : Nat) : State := s.setChase t k (Chase.unset o.asid (s.chase t k).dup)
  match o.op with
  | .fset k _ _ => unset k
  | .castDirect _ _ k _ => unset k
  | _ => s

/-- The whole of an operation. -/
def State.runOp (s : State) (t : Nat) (denied : List W64) (o : EngOp) : Ran :=
  let c : EngCtx := ⟨t, o.asid, o.ident, o.block, denied⟩
  match o.op with
  | .fset k g x => s.runFset c k g x
  | .fmap k dup => .plain (s.setChase t k (Chase.unset o.asid dup)) none 8
  | .fmm b src dst tr => s.runFmm c o b src dst tr
  | .fscl k g x => s.runFscl c k g x
  | .fclr m => s.runFclr c m
  | .fprb k dst => .plain (s.spadWrite c dst 0 (probe (s.chase t k) o.asid)) none 4
  | .cpy x h r r0 c0 cols dp sp sa => s.runCpy c x h r r0 c0 cols dp sp sa
  | .cpyr src ch len db tiles => s.runCpyr c src ch len db tiles
  | .cpyg x r c0 cols dp l d => s.runCpyg c x r c0 cols dp l d
  | .cfil d n p => s.runCfil c d n p
  | .cast x y th f n => s.runCast c x y th f n
  | .castDirect x th k g => s.runDirect c x th k g
  | .cqnt x y r0 r z => s.runCqnt c x y r0 r z

end Sys2Proof.Machine
end

