-- ==== Sys2Proof/Machine/EngineSteps.lean ====
section
/-! DEFINITION. Steps of the engines: starting operations, completing tokens (R247, R248, R273), the proofing
scrub (R359), and the exchange of VXCH (R215). -/
namespace Sys2Proof.Machine

/-- One of the two engines. -/
def Tile.engine (w : Tile) (forme : Bool) : Engine := if forme then w.forme else w.copy
def Tile.setEngine (w : Tile) (forme : Bool) (e : Engine) : Tile :=
  if forme then { w with forme := e } else { w with copy := e }

/-- The step that starts an engine's next operation. -/
def engineStep (forme : Bool) : Instr := if forme then .formeOpStart else .copyOpStart

/-- Accesses of the issuing strand before the instruction that are still to perform (R93). -/
def Tile.priorOpen (w : Tile) (o : EngOp) : Bool := w.openBefore ⟨o.uid, o.n⟩

/-- An engine may start its oldest operation: its busy time has ended, and none that it has begun goes on (R247, R249). -/
def Engine.idleAt (e : Engine) (clk : Nat) : Bool := (decide (e.busyUntil < clk) || e.busyUntil == 0) && e.current.isNone

/-- An operation that accesses memory or scratchpad: the others wait for no access of the strand (R93). -/
def Op.accesses : Op → Bool
  | .fmap _ _ => false
  | .fclr _ => false
  | .fmm b _ _ _ => b.rows != 0
  | _ => true

/-- The accumulator that an operation writes is not readable yet (R239). -/
def Tile.acUnread (w : Tile) (o : EngOp) (clk : Nat) : Bool :=
  match o.op, w.team with
  | .fmm b _ _ _, some m =>
    b.out == 0 && b.rows != 0 && m.is o.asid o.ident o.block && decide (clk < m.regAt.get 0 (56 + b.acc))
  | _, _ => false

/-- What an operation that has begun waits for, in engine order: accesses of its strand before it (R93), the result of a dense
instruction in its accumulator (R239), the tokens of another team's operations (R248). The wait adds to no busy time (DESIGN
CHOICE, log entry 54). -/
def Tile.opHeld (w : Tile) (o : EngOp) (clk : Nat) : Bool :=
  (o.op.accesses && w.priorOpen o) || w.acUnread o clk ||
    (w.forme.done ++ w.copy.done).any (fun d => !(d.asid == o.asid && d.ident == o.ident && d.block == o.block))

/-- A held operation's page is asked for (R249). -/
def State.engineWait (s : State) (t : Nat) (forme : Bool) (o : EngOp) (va : Nat) : State :=
  let page := BitVec.ofNat 64 va
  (s.modTile t (fun w => w.setEngine forme { w.engine forme with stuck := some page })).later 1 .pageWalk
    { die := t / 256, asid := o.asid, value := page }

/-- What an executed operation leaves to complete. -/
def EngOp.finished (o : EngOp) (r : OpEnd) (clk : Nat) (direct : Bool) : EngDone where
  n := o.n
  tok := o.tok
  asid := o.asid
  ident := o.ident
  block := o.block
  due := clk + r.busy - 1 + r.tail
  err := r.err
  flags := r.flags
  direct := direct
  chase := r.chase
  ac := match o.op with
    | .fmm b _ _ _ => if b.out = 0 then some b.acc else none
    | _ => none

/-- An engine's head operation begins: it leaves the queue (R247). -/
def Engine.take (e : Engine) (o : EngOp) : Engine := { e with queue := e.queue.drop 1, current := some o }

/-- An engine whose operation has run. -/
def Engine.began (e : Engine) (d : EngDone) (busy clk : Nat) : Engine :=
  { e with current := none, busyUntil := clk + busy - 1, done := e.done ++ [d], stuck := none, denied := [] }

/-- The steps that follow a run: the next start, the completion. -/
def State.afterStart (s : State) (t : Nat) (forme : Bool) (d : EngDone) (busy : Nat) : State :=
  let x : EvArg := { tile := t }
  let s := s.later busy (engineStep forme) x
  if d.due ≤ s.clk then s.post .engineTokenComplete x else s.later (d.due - s.clk) .engineTokenComplete x

def Op.isDirect : Op → Bool
  | .castDirect _ _ _ _ => true
  | _ => false

/-- Run the operation that an engine has begun, unless it still waits (R247, R249). -/
def State.engineRun (s : State) (t : Nat) (forme : Bool) (o : EngOp) : State :=
  let w := s.tile t
  if (w.engine forme).stuck.isSome then s
  else if w.opHeld o s.clk then s.later 1 (engineStep forme) { tile := t }
  else
    let s := s.opBegins t o
    match s.runOp t (w.engine forme).denied o with
    | .wait va => s.engineWait t forme o va
    | .done r =>
      let d := o.finished r s.clk false
      let clk := s.clk
      (r.s.modTile t (fun w => w.setEngine forme ((w.engine forme).began d r.busy clk))).afterStart t forme d r.busy

/-- Go on with the operation an engine has begun, or start its oldest one, if it can start (R247). -/
def State.engineStart (s : State) (t : Nat) (forme : Bool) : State :=
  let e := (s.tile t).engine forme
  match e.current, e.queue with
  | some o, _ => if o.op.isDirect then s.post .directCastStart { tile := t } else s.engineRun t forme o
  | none, [] => s
  | none, o :: _ =>
    if e.idleAt s.clk = false then s
    else if o.op.isDirect then s.post .directCastStart { tile := t }
    else
      ((s.modTile t (fun w => w.setEngine forme ((w.engine forme).take o))).wake t (fun _ h => h == .engine)).engineRun
        t forme o

/-- R247 -/
def execFormeOpStart (s : State) : Host.Outcome State Fault Refusal := .next (s.engineStart s.ev.tile true)

/-- R247 -/
def execCopyOpStart (s : State) : Host.Outcome State Fault Refusal := .next (s.engineStart s.ev.tile false)

/-- Run a direct CAST that both engines have begun (R273). -/
def State.directRun (s : State) (t : Nat) (o : EngOp) : State :=
  let w := s.tile t
  if w.forme.stuck.isSome then s
  else if w.opHeld o s.clk then s.later 1 .directCastStart { tile := t }
  else
    let s := s.opBegins t o
    match s.runOp t w.forme.denied o with
    | .wait va => s.engineWait t true o va
    | .done r =>
      let d := o.finished r s.clk true
      let clk := s.clk
      let s := r.s.modTile t (fun w =>
        { w with forme := w.forme.began d r.busy clk, copy := w.copy.began d r.busy clk })
      (s.later r.busy .copyOpStart { tile := t }).afterStart t true d r.busy

/-- R273: it starts when both engines have ended every earlier busy time, and leaves both queues. -/
def execDirectCastStart (s : State) : Host.Outcome State Fault Refusal :=
  let t := s.ev.tile
  let w := s.tile t
  match w.forme.current, w.forme.queue, w.copy.queue with
  | some o, _, _ => if o.op.isDirect then .next (s.directRun t o) else .next s
  | none, o :: _, p :: _ =>
    if o.op.isDirect && p.n == o.n && w.forme.idleAt s.clk && w.copy.idleAt s.clk then
      .next (((s.modTile t (fun w => { w with forme := w.forme.take o, copy := w.copy.take o })).wake t
        (fun _ h => h == .engine)).directRun t o)
    else .next s
  | none, _, _ => .next s

/-- A chase may have been set or cleared: tiles may have become eligible for a tagged edition (R323). -/
def State.retag (s : State) (t : Nat) : State :=
  if s.roots.any (fun (r : Nat × Root) => r.2.editions.any (fun e => e.desc.tag != 0 && e.state == .running)) then
    s.post .blockDeal { die := t / 256 }
  else s

/-- A token completes: the chase it sets (R257), flags (R47), the token (R249), accumulators free (R210), and what waits for
it. -/
def State.finishOp (s : State) (t : Nat) (d : EngDone) : State :=
  let s := match d.chase with
    | some (k, x) => s.setChase t k x
    | none => s
  let s := s.modTeamOf t d.asid d.ident d.block (fun m => m.flag d.flags)
  let s := s.tokenDone t (.team d.asid d.ident d.block) d.tok d.err
  let s := s.wake t (fun _ h => h == .exchange)
  let w := s.tile t
  let late := (w.team.map (·.noExchange)).getD false && w.forme.quiet && w.copy.quiet
  let s := if late then s.later 8 .accTokenExchange { tile := t } else s
  ((s.blockCheck d.asid d.ident d.block).retag t).post .engineTokenComplete { tile := t }

/-- The oldest executed operation of an engine whose completion is due. -/
def Engine.ripe (e : Engine) (clk : Nat) : Option EngDone :=
  match e.done with
  | d :: _ => if d.due ≤ clk then some d else none
  | [] => none

/-- R247: tokens complete in the order of acceptance, a direct CAST's in that of both engines. -/
def execEngineTokenComplete (s : State) : Host.Outcome State Fault Refusal :=
  let t := s.ev.tile
  let w := s.tile t
  let dropF (w : Tile) : Tile := { w with forme := { w.forme with done := w.forme.done.drop 1 } }
  let dropC (w : Tile) : Tile := { w with copy := { w.copy with done := w.copy.done.drop 1 } }
  match w.forme.ripe s.clk, w.copy.ripe s.clk with
  | some d, c =>
    if d.direct = false then .next ((s.modTile t dropF).finishOp t d)
    else
      match c with
      | some e =>
        if e.direct && e.n == d.n then .next ((s.modTile t (fun w => dropC (dropF w))).finishOp t d)
        else if e.direct = false then .next ((s.modTile t dropC).finishOp t e)
        else .next s
      | none => .next s
  | none, some e => if e.direct = false then .next ((s.modTile t dropC).finishOp t e) else .next s
  | none, none => .next s

/-! ## The proofing scrub (R359) -/

/-- The place after a row: (chase · 64 + macro) · 320 + row. -/
def scrubNext (n : Nat) : Nat := (n + 1) % (32 * 64 * 320)

/-- The next place from one on that lies in a used macro of a set chase. -/
def Tile.scrubPlace (w : Tile) (n : Nat) : Option Nat :=
  let used (k m : Nat) : Bool :=
    let c := w.chases.get Chase.reset k
    c.state == .set && decide (m < c.geo.kg * c.geo.ng)
  if used (n / 20480) (n / 320 % 64) then some n
  else
    let start := n / 320 + 1
    ((List.range 2048).map (fun i => (start + i) % 2048)).find? (fun x => used (x / 64) (x % 64)) |>.map (· * 320)

/-- R359: one macro row in a clk in which the forme engine is idle; the last row of a macro compares, and core 3 reports a
mismatch to the host and proposes macro sparing (R360, R378; the target as log entry 34 packs it). -/
def execProofingScrub (s : State) : Host.Outcome State Fault Refusal :=
  let t := s.ev.tile
  let w := s.tile t
  if w.forme.idleAt s.clk && w.forme.queue.isEmpty then
    match w.scrubPlace w.scrub with
    | none => .next s
    | some n =>
      let s := s.modTile t (fun w => { w with scrub := scrubNext n })
      if n % 320 ≠ 319 then .next s
      else
        let k := n / 20480
        let m := n / 320 % 64
        let c := s.chase t k
        if macroCheck (fun i => c.cells.get 0 (320 * m + i)) = c.check.get 0 m then .next s
        else .next ((((s.setChase t k { c with state := .suspect }).suspectNotice t c.asid k m 1).hostEvent
          (t / 1024) 0 3 0 none 9 t).hostEvent (t / 1024) 0 5 0 none 2 (t * 2 ^ 13 + k * 2 ^ 8 + m))
  else .next s

/-! ## VXCH (R215) -/

/-- Write received bits into the active lanes. -/
def Team.receive (m : Team) (e : Exch) (src : VWord) : Team :=
  m.setV e.d (mergeLanes e.w (m.vr e.d) e.pred (fun j => (lane src e.w j, 0))).1

/-- One side of an exchange: the lanes are written, the count rises, the strand retires. -/
def State.exchanged (s : State) (t : Nat) (e : Exch) (src : VWord) : State :=
  let s := s.modTeam t (fun m => { m.receive e src with vxch := m.vxch + 1, exch := m.exch.drop 1 })
  let s := match s.strand (.tile t e.slot) with
    | some st => s.complete (.tile t e.slot) st
    | none => s
  s.wake t (fun _ h => h == .exchange)

/-- The exchange fault of the VXCHs waiting on a tile. -/
def State.exchangeFault (s : State) (t : Nat) : State :=
  match s.team t with
  | none => s
  | some m =>
    let s := s.modTeam t (fun m => { m with exch := [] })
    let s := m.exch.foldl (fun (s : State) e =>
      match s.strand (.tile t e.slot) with
      | some st => s.trap (.tile t e.slot) st fcExchange (TrapInfo.at 0 0)
      | none => s) s
    s.wake t (fun _ h => h == .exchange)

/-- R215: the exchange is performed once both have issued and their bits have arrived; `flag` says that the mirror's block has completed. -/
def execVxchExchange (s : State) : Host.Outcome State Fault Refusal :=
  let t := s.ev.tile
  let u := mirror t
  match s.team t, s.team u with
  | some m, other =>
    match m.exch, other with
    | [], _ => .next s
    | e :: _, some k =>
      if s.ev.flag then .next (s.exchangeFault t)
      else
        match k.exch with
        | [] => .next s
        | f :: _ =>
          if m.asid = k.asid ∧ m.ident = k.ident ∧ m.vxch = k.vxch ∧ e.there ≤ s.clk ∧ f.there ≤ s.clk then
            .next (((s.exchanged t e f.src).exchanged u f e.src).post .vxchExchange { tile := t })
          else .next s
    | _, none => if s.ev.flag then .next (s.exchangeFault t) else .next s
  | none, _ => .next s

end Sys2Proof.Machine
end

