-- ==== Sys2Proof/Machine/Preempt.lean ====
section
/-! DEFINITION. Time slices (R329 to R334): the yield request, forced pre-emption, resumption; gang slices (R335 to
R337); the all-asleep fault (R74, R357). -/
namespace Sys2Proof.Machine

/-! ## The yield request (R329) -/

/-- A candidate of equal or higher class of any context waits for the tile. -/
def State.contested (s : State) (t : Nat) : Bool :=
  (s.waitingFor t).any (fun c => decide (classOf (s.tile t).anchored ≤ c.cls))

/-- R329, first reason: residence has reached the quantum while a candidate waits. -/
def execQuantumExpiry (s : State) : Host.Outcome State Fault Refusal :=
  let t := s.ev.tile
  match s.team t with
  | none => .next s
  | some m =>
    if !m.yreq && (s.tile t).preemptible && decide ((s.ctx (t / 256) m.asid).q ≤ m.residence) && s.contested t then
      .next (s.setYreq t)
    else .next s

/-- R329, third reason: the team has been asleep for 4096 clk while a candidate waited. -/
def execAsleepYieldTimeout (s : State) : Host.Outcome State Fault Refusal :=
  let t := s.ev.tile
  match s.team t with
  | none => .next s
  | some m =>
    if !m.yreq && (s.tile t).preemptible && decide (4096 ≤ m.asleepFor) && !(s.waitingFor t).isEmpty then
      .next (s.setYreq t)
    else .next s

/-! ## Forced pre-emption (R330, R332) -/

/-- Atomics of the strands of a team that have performed and whose answer is on its way: they are not held (R141). -/
def Tile.underWay (w : Tile) (p : Packet) : Bool :=
  p.store.isNone && w.anchored.any (fun e => e.2.uid == p.uid) && p.answer.isSome &&
    (match p.acc with
      | .atomic _ _ _ _ _ _ => true
      | .load _ _ _ => false
      | .again _ => false)

/-- The team stops issuing and leaves by the forced path (R332 steps 1, 2 and 4), once the results of the atomics that have
performed are written; held loads and atomics are abandoned (R141). -/
def State.forceOut (s : State) (t : Nat) : State :=
  let s := s.modTeam t (fun m => { m with stopping := true })
  let w := s.tile t
  let full := w.team.any (fun m => (s.saveIndex m.asid).isNone)
  if full || s.net.any w.underWay then s.later 1 .forcedPreemption { tile := t }
  else
    let s := { s with net := s.net.filter (fun p => p.store.isSome || !w.anchored.any (fun e => e.2.uid == p.uid)) }
    (s.leave t .forced []).barwTile t

/-- The team that a slice end forces out is the one that stands here, and its slice is over (R335). -/
def State.sliceOver (s : State) (m : Team) : Bool :=
  s.ev.flag && m.is s.ev.asid s.ev.ident s.ev.n && (s.edition m.asid m.ident).all (fun e => !e.gangOn)

/-- R332: with the request set and the deadline counter expired; `flag` forces the gang team it names out at its slice end
(R335). Without a free save record the swap waits (R334). -/
def execForcedPreemption (s : State) : Host.Outcome State Fault Refusal :=
  let t := s.ev.tile
  match s.team t with
  | none => .next s
  | some m =>
    if m.stopping then .next (s.forceOut t)
    else if ((s.tile t).preemptible && (s.sliceOver m || (m.yreq && m.count == some 0))) = false then .next s
    else if (s.saveIndex m.asid).isSome then .next (s.forceOut t)
    else if s.sliceOver m then .next (s.later 1 .forcedPreemption s.ev)
    else .next s

/-- R330: without a deadline, forced pre-emption takes effect floor(Q ÷ 16) clk after the request. -/
def execPreemptGraceExpiry (s : State) : Host.Outcome State Fault Refusal :=
  let t := s.ev.tile
  match s.team t with
  | none => .next s
  | some m =>
    if m.yreq && m.count.isNone && (s.tile t).preemptible && (s.saveIndex m.asid).isSome &&
        decide (m.yreqAt + (s.ctx (t / 256) m.asid).q / 16 ≤ s.clk) then .next (s.forceOut t)
    else .next s

/-- R332 step 3: the incoming team's accumulators and tokens are in place; its held instructions go on. -/
def execAccTokenExchange (s : State) : Host.Outcome State Fault Refusal :=
  let t := s.ev.tile
  let w := s.tile t
  if w.forme.quiet && w.copy.quiet then
    .next ((s.modTeam t (fun m => { m with noExchange := false })).wake t (fun _ h => h == .exchange))
  else .next s

/-- A strand of the saved team still has a store to register or replay (R332 step 2, R350). -/
def State.savePending (s : State) (t : Nat) (x : Saved) : Bool :=
  let mine (uid : Nat) : Bool := x.strands.any (fun e => e.2.uid == uid)
  (s.tile t).side.any (fun e => mine e.uid) || (s.tile t).sb.any (fun e => mine e.uid) ||
    (s.tile t).teamOps x.team.asid x.team.ident x.team.block

/-- R332 step 4, R333, R334: the record is complete, a forced one once the side log is clear. -/
def execSaveRecordWrite (s : State) : Host.Outcome State Fault Refusal :=
  let t := s.ev.tile
  match (s.tile t).savedAt s.ev.asid s.ev.n with
  | none => .next s
  | some x =>
    if x.final ∨ x.since ≠ s.ev.k then .next s
    else if s.savePending t x then .next (s.later 1 .saveRecordWrite s.ev)
    else
      let s := match x.path with
        | .compact => s
        | .forced => s.writeRecord x.pa (recordHead x t (s.podTimeAt x.since) ++
            x.strands.flatMap (recordSlot x none) ++ recordTeam x.team (2 ^ 32 - 1) (2 ^ 8 - 1) (2 ^ 8 - 1))
      let s := s.modTile t (fun w => { w with swapped := w.swapped.map (fun y =>
        if y.team.asid = x.team.asid ∧ y.idx = x.idx then { y with final := true } else y) })
      .next (s.post .blockDeal { die := t / 256 })

/-- R331: the team is back on its tile; a strand chosen for the all-asleep fault then freezes (R357). -/
def execTeamResume (s : State) : Host.Outcome State Fault Refusal :=
  let t := s.ev.tile
  let a := s.ev.asid
  if (s.tile t).incoming ≠ some (.saved s.ev.n a) then .next s
  else
    let s := s.modTile t (fun w => { w with incoming := none })
    match (s.tile t).savedAt a s.ev.n with
    | none => .next (s.post .blockDeal { die := t / 256 })
    | some x =>
      if (s.tile t).team.isSome then .next s
      else
        let s := (s.bringBack t x).bartCheck t
        if (s.root a).chosen.isSome then .next (s.post .allAsleepFault { asid := a }) else .next s

/-! ## Gang slices (R335, R336) -/

/-- The live gang edition that a step names, by identifier and sequence number. -/
def State.gang (s : State) (a ident seq : Nat) : Option Edition :=
  (s.edition a ident).filter (fun e => e.seq == seq && e.state != .complete && e.desc.gang)

/-- The quantum of a gang edition in clk. -/
def State.gangQ (s : State) (a : Nat) : Nat := (s.ctx (s.rootDie a) a).q

/-- The blocks of a gang edition are dealt whole, lowest index to lowest tile address (R335). -/
def State.gangDeal (s : State) (a : Nat) (e : Edition) : State :=
  if e.gangTiles ≠ [] ∨ e.state ≠ .running ∨ e.atRoot = [] then s
  else
    let tiles := (s.partTiles a).filter (fun t => s.eligible a t e.desc)
    if tiles.length < e.desc.total then s
    else
      let l := (tiles.take e.desc.total).zipIdx.map (fun x => (⟨x.2, x.1⟩ : Dealt))
      s.modEdition a e.ident (fun e => { e with
        gangTiles := l
        dealt := l
        atRoot := []
        folios := (l.map (fun x => x.tile / 1024)).dedup })

/-- Packages with gang tiles. -/
def Edition.gangPkgs (e : Edition) : List Nat := (e.gangTiles.map (fun x => x.tile / 1024)).dedup

/-- Whether the team of a tile is the gang team placed there. -/
def State.gangHere (s : State) (a : Nat) (e : Edition) (x : Dealt) : Bool :=
  ((s.team x.tile).map (fun m => m.is a e.ident x.idx)).getD false

/-- R335: `k` = 2 fixes the first slice, 2·L from now; 0 asks the teams on gang tiles for a yield L before a slice
starts; 1 asks the gang teams L before it ends. From then on no team takes a tile of the gang that the start or end of
the slice would ask to leave again (DESIGN CHOICE, log entry 43). -/
def execGangPreSliceRequest (s : State) : Host.Outcome State Fault Refusal :=
  let a := s.ev.asid
  match s.gang a s.ev.ident s.ev.n with
  | none => .next s
  | some e =>
    let l := s.gangQ a / 8
    let x : EvArg := { asid := a, ident := e.ident, n := e.seq }
    match s.ev.k with
    | 2 =>
      if e.gangStart.isSome then .next s
      else
        let ts := s.podTimeAt (s.clk + 2 * l)
        let s := s.modEdition a e.ident (fun e => { e with gangStart := some ts })
        .next ((s.later l .gangPreSliceRequest x).later (2 * l) .gangSliceStart x)
    | 1 =>
      let s := s.modEdition a e.ident (fun e => { e with gangAsk := e.gangOn })
      .next (e.gangTiles.foldl (fun (s : State) y => if s.gangHere a e y then s.setYreq y.tile else s) s)
    | _ =>
      let s := (s.gangDeal a e).modEdition a e.ident (fun e => { e with gangAsk := true })
      match s.gang a s.ev.ident s.ev.n with
      | none => .next s
      | some e =>
        .next (e.gangTiles.foldl (fun (s : State) y => if s.gangHere a e y then s else s.setYreq y.tile) s)

/-- No core takes over from core 1 on a package (R337). -/
def Package.gangReady (x : Package) : Bool :=
  match x.takeover with
  | some (1, _) => false
  | _ => true

/-- R335: the slice begins, unless core 7 is taking over (R337): the gang teams take their tiles. -/
def execGangSliceStart (s : State) : Host.Outcome State Fault Refusal :=
  let a := s.ev.asid
  match s.gang a s.ev.ident s.ev.n with
  | none => .next s
  | some e =>
    let q := s.gangQ a
    let x : EvArg := { asid := a, ident := e.ident, n := e.seq }
    let s := (((s.later (q - q / 8) .gangPreSliceRequest { x with k := 1 }).later q .gangSliceEnd x).later
      (2 * q - q / 8) .gangPreSliceRequest x).later (2 * q) .gangSliceStart x
    if (s.pkg (s.root a).pkg).gangReady = false then
      let s := s.modEdition a e.ident (fun e => { e with slice := e.slice + 1, gangAsk := false })
      .next ((e.gangTiles.map (fun y => y.tile / 256)).dedup.foldl
        (fun (s : State) d => s.post .blockDeal { die := d }) s)
    else
      let s := s.gangDeal a e
      let now := s.podTime
      let s := s.modEdition a e.ident (fun e => { e with
        gangOn := true
        gangAsk := false
        slice := e.slice + 1
        sliceAt := now
        timed := [] })
      match s.edition a e.ident with
      | none => .next s
      | some e =>
        let s := e.gangTiles.foldl (fun (s : State) y =>
          if s.gangHere a e y then s.modTeam y.tile (fun m => { m with begun := false }) else s) s
        .next ((e.gangTiles.map (fun y => y.tile / 256)).dedup.foldl
          (fun (s : State) d => s.post .blockDeal { die := d }) s)

/-- R335: the slice ends; gang teams that have not yielded are forced out. -/
def execGangSliceEnd (s : State) : Host.Outcome State Fault Refusal :=
  let a := s.ev.asid
  match s.gang a s.ev.ident s.ev.n with
  | none => .next s
  | some e =>
    let s := s.modEdition a e.ident (fun e => { e with gangOn := false, gangAsk := false })
    .next (e.gangTiles.foldl (fun (s : State) y =>
      if s.gangHere a e y then s.post .forcedPreemption
        { tile := y.tile, asid := a, ident := e.ident, n := y.idx, flag := true } else s) s)

/-- R336: the last gang team of a package starts at pod time `value`: late or on time. -/
def execGangLateNotice (s : State) : Host.Outcome State Fault Refusal :=
  let a := s.ev.asid
  let p := s.ev.pkg
  match s.gang a s.ev.ident s.ev.n with
  | none => .next s
  | some e =>
    let start := e.sliceAt
    if s.ev.value.toNat ≤ start.toNat then
      .next (s.modEdition a e.ident (fun e => { e with late := e.late.put 0 p 0 }))
    else
      let n := e.late.get 0 p + 1
      let s := s.modEdition a e.ident (fun e => { e with late := e.late.put 0 p n })
      let s := s.notice (4 * p) a (noticeBytes 2 (p + Nat.min n 65535 * 2 ^ 16) start.toNat
        (s.ev.value - start).toNat e.ident)
      if n = 2 then .next (s.hostEvent p 0 3 0 none 2 p) else .next s

/-! ## The all-asleep fault (R74, R357) -/

/-- A strand outside the slots counts as asleep (R23, R73). -/
def State.ctxStrands (s : State) (a : Nat) : List Strand :=
  s.tiles.flatMap (fun (e : Nat × Tile) =>
    (e.2.strands.map (·.2) ++ e.2.swapped.flatMap (fun x => x.strands.map (·.2))).filter (fun x => x.asid == a))

/-- Every strand of the context is asleep, and none issued in this clk (R74 item 1 and 8). -/
def State.allAsleep (s : State) (a : Nat) : Bool :=
  s.tiles.all (fun (e : Nat × Tile) =>
    e.2.strands.all (fun x => x.2.asid != a || (x.2.lastIssue != s.clk && s.asleepAt (.tile e.1 x.1) x.2)) &&
    e.2.swapped.all (fun x => x.team.asid != a || s.savedAsleep x) && e.2.dispatch.all (fun x => x.asid != a) &&
    e.2.incoming.isNone) &&
  s.transit.all (fun x => x.strand.asid != a) && s.actives.all (fun x => x.strand.asid != a)

/-- No access of the context is on its way, and no entry awaits replay (R74 items 3 and 6). -/
def State.netQuiet (s : State) (a : Nat) : Bool :=
  s.net.all (fun p => p.asid != a) &&
    s.tiles.all (fun (e : Nat × Tile) => e.2.sb.all (fun x => x.asid != a) && e.2.side.all (fun x => x.asid != a))

/-- No token of the context is pending: no engine operation and no answer of an imposer (R74 items 4 and 5); the tokens are
those of teams and strands that are still there (DESIGN CHOICE, log entry 53). -/
def State.tokensQuiet (s : State) (a : Nat) : Bool :=
  let idle (v : Vector Tok 8) : Bool := v.toList.all (fun k => !k.pending)
  let ops (e : Engine) : Bool := e.accepted.all (fun o => o.asid != a) && e.done.all (fun o => o.asid != a)
  s.answers.all (fun x => x.asid != a) && (s.root a).reqs.isEmpty &&
    s.tiles.all (fun (e : Nat × Tile) =>
      ops e.2.forme && ops e.2.copy && e.2.team.all (fun m => m.asid != a || idle m.toks) &&
      e.2.swapped.all (fun x => x.team.asid != a || idle x.team.toks) &&
      e.2.strands.all (fun x => x.2.asid != a || idle x.2.toks) &&
      (e.2.waiting ++ e.2.deque).all (fun x => x.asid != a || idle x.toks))

/-- An armed watch entry of the context carries the external flag (R74 item 7). -/
def State.extWatch (s : State) (a : Nat) : Bool :=
  s.dies.any (fun (e : Nat × Die) => e.2.frisket.any (fun x => x.1 / 256 == a && x.2.armed && x.2.ext))

/-- The all-asleep condition (R74). A context whose only strands wait for a light slot has none that R357 could choose, and never
meets it (DESIGN CHOICE, log entry 53). -/
def State.quietCtx (s : State) (a : Nat) : Bool :=
  !(s.ctxStrands a).isEmpty && s.allAsleep a && (s.root a).editions.all (fun e => e.undealt == 0) &&
    s.netQuiet a && s.tokensQuiet a && !s.extWatch a

/-- The anchored strand in the lowest slot of a block, on its tile or in its save. -/
def State.leadOf (s : State) (a i : Nat) (x : Dealt) : Option Strand :=
  let w := s.tile x.tile
  if (w.team.map (fun m => m.is a i x.idx)).getD false then w.anchored.head?.map (·.2)
  else ((w.swapped.find? (fun y => y.team.is a i x.idx)).bind (fun y => y.strands.head?)).map (·.2)

/-- The dealt block of lowest index that has an anchored strand. -/
def State.leadOfEdition (s : State) (a : Nat) (e : Edition) : Option Strand :=
  let l := e.dealt.filter (fun x => (s.leadOf a e.ident x).isSome)
  (l.find? (fun x => l.all (fun y => decide (x.idx ≤ y.idx)))).bind (s.leadOf a e.ident)

/-- The strand chosen for the fault (R357). -/
def State.chooseAsleep (s : State) (a : Nat) : Option Nat :=
  match ((s.root a).editions.filter (fun e => e.state != .complete)).findSome? (s.leadOfEdition a) with
  | some st => some st.uid
  | none => s.tiles.findSome? (fun (e : Nat × Tile) =>
      (e.2.strands.find? (fun x => x.2.asid == a)).map (fun x => x.2.uid))

/-- The chosen strand freezes with code 0x60, and the notice is posted (R357). -/
def State.freezeAsleep (s : State) (a t k : Nat) (st : Strand) : State :=
  let s := s.modRoot a (fun r => { r with chosen := none })
  let s := s.modTeam t (fun m => { m with bart := m.bart.filter (fun j => !(st.kind.isAnchored && j == k)) })
  (s.trap (.tile t k) st fcAsleep (TrapInfo.at 0 0)).notice (4 * (s.root a).pkg) a
    (noticeBytes 12 0 s.podTime.toNat (st.edition.getD 0xFFFFFF) t)

/-- R357: one strand is chosen; a swapped-out team is made resident first. -/
def execAllAsleepFault (s : State) : Host.Outcome State Fault Refusal :=
  let a := s.ev.asid
  match ((s.root a).chosen <|> s.chooseAsleep a) with
  | none => .next s
  | some uid =>
    match s.findUid uid with
    | some (.tile t k) =>
      match s.strand (.tile t k) with
      | some st =>
        if st.run = .running ∧ s.asleepAt (.tile t k) st then .next (s.freezeAsleep a t k st)
        else
          let st := match st.hold with
            | some (.queueSend _ _) => st
            | some (.queueRecv _ _) => st
            | some .bart => st
            | _ => { st with hold := if (s.root a).chosen = some uid then none else st.hold }
          .next ((s.modRoot a (fun r => { r with chosen := none })).setStrand (.tile t k) st)
      | none => .next s
    | _ =>
      let s := s.modRoot a (fun r => { r with chosen := some uid })
      match s.tiles.find? (fun (e : Nat × Tile) => e.2.swapped.any (fun x => x.strands.any (fun y => y.2.uid == uid))) with
      | some e => .next (s.post .blockDeal { die := e.1 / 256 })
      | none => .next s

end Sys2Proof.Machine
end

