-- ==== Sys2Proof/Machine/MemSteps.lean ====
section
/-! DEFINITION. Steps of the memory system: registration and its acknowledgement (R79, R80, R88, R94), accesses at
other tiles and at the host (R25, R164, R174), FENCE.H requests (R90), walks and the memory manager's decisions
(R341 to R349), the side log (R97, R98, R350), page migration (R352, R353), budget windows (R198). -/
namespace Sys2Proof.Machine

/-! ## Registration (R79) -/

/-- R79: a store or RADD reaches its home and is registered. -/
def execStoreRegistration (s : State) : Host.Outcome State Fault Refusal :=
  .next (s.registerNext s.ev.tile s.ev.n)

/-- The strands of a tile whose release actions are complete issue again, and so do loads and atomics that waited
for a store (R80, R86, R88). -/
def State.wakeStores (s : State) (t : Nat) : State :=
  s.modTile t (fun w => { w with strands := w.strands.map (fun e =>
    match e.2.hold with
    | some .release => if s.drained (.tile t e.1) e.2 then (e.1, { e.2 with hold := none }) else e
    | some .sideWord => (e.1, { e.2 with hold := none })
    | _ => e) })

/-- Blocks whose kill waits for stores on their way are looked at again (R193). -/
def State.checkKilled (s : State) : State :=
  s.tiles.foldl (fun (s : State) (e : Nat × Tile) =>
    let post (s : State) (m : Team) : State :=
      if m.killed then s.post .blockComplete { tile := e.1, asid := m.asid, ident := m.ident, n := m.block } else s
    let s := match e.2.team with
      | some m => post s m
      | none => s
    e.2.swapped.foldl (fun (s : State) x => post s x.team) s) s

/-- R285: the acknowledgement returns: the entry is gone, and what waited for it goes on, an arrival at a BARW
included (R172). -/
def execRegistrationAck (s : State) : Host.Outcome State Fault Refusal :=
  let t := s.ev.tile
  let n := s.ev.n
  let s := s.modTile t (fun w => { w with sb := w.sb.filter (fun x => !(x.n == n && x.registered)) })
  .next (((s.wakeStores t).barwTile t).checkKilled)

/-- R79: an owned word is evicted: ownership returns to the home, which has its registered bytes. -/
def execOwnedWordWriteback (s : State) : Host.Outcome State Fault Refusal :=
  let t := s.ev.tile
  let k := s.ev.k
  let d := 4 * k / 2 ^ 39
  if (s.die d).owner.find k = some t then
    .next ((s.modDie d (fun x => { x with owner := x.owner.del k })).modTile t (fun w => { w with l1 := w.l1.del k }))
  else .next s

/-! ## Other tiles (R25) and the host (R156, R164) -/

/-- The check of an access at its home tile (R25, R354), and poison (R362). -/
def State.arrivalCheck (s : State) (p : Packet) : Option Byte :=
  match p.segs with
  | (.spad u off, n) :: _ =>
    if (s.die (u / 256)).resetting then some fcContext
    else
      match (s.tile u).checkGrant p.asid off n with
      | .error c => some c
      | .ok _ => if s.spadPoisoned u p.asid off n then some fcPoison else none
  | _ => if s.segsPoisoned p.segs then some fcPoison else none

/-- The edition of an access's strand, which is held meanwhile (R351). -/
def State.packetEdition (s : State) (p : Packet) : Option Nat :=
  match s.strand p.ref with
  | some st => if st.uid = p.uid then st.edition else none
  | none => none

/-- An access is performed at its home: its answer. -/
def State.performAccess (s : State) (p : Packet) : State × Answer :=
  match p.acc, p.segs with
  | .load _ n _, segs => (s, .bytes ((s.readSegs p.asid segs).take n))
  | .again n, segs => (s, .bytes ((s.readSegs p.asid segs).take n))
  | .atomic op _ n _ v c, (l, _) :: _ =>
    let r := s.atomicAt p.ref.tileNo p.asid (s.packetEdition p) p.addr l op n v c
    (r.1, .bytes r.2)
  | .atomic _ _ _ _ _ _, [] => (s, .fault fcAddress)

/-- An atomic at its home comes after the earlier stores of its strand to that home (R88), or, under an armed watch, after all
of them (R94). -/
def State.mustWait (s : State) (p : Packet) : Bool :=
  match p.acc, p.segs with
  | .atomic _ _ _ _ _ _, (l, n) :: _ =>
    let all := (l.die.map (fun d => s.watchedAt d p.asid p.addr n)).getD false
    (s.tile p.ref.tileNo).sb.any (fun e => e.uid == p.uid && !e.registered && (all || e.goesTo l.home))
  | _, _ => false

/-- R25: an access reaches another tile and is checked and performed there; a store is registered. -/
def execRemoteAccessArrival (s : State) : Host.Outcome State Fault Refusal :=
  match s.net.find? (fun p => p.n == s.ev.n) with
  | none => .next s
  | some p =>
    match p.store with
    | some k =>
      let s := { s with net := s.net.filter (fun q => q.n != p.n) }
      .next (s.registerNext p.ref.tileNo k)
    | none =>
      if p.answer.isSome then .next s
      else if s.mustWait p then .next (s.later 1 .remoteAccessArrival s.ev)
      else
        let (s, ans) : State × Answer := match s.arrivalCheck p with
          | some c => (s, .fault c)
          | none => s.performAccess p
        let back := match p.segs with
          | (.spad u _, _) :: _ => meshDelay p.ref.tileNo u
          | _ => 0
        .next ({ s with net := s.net.map (fun (q : Packet) => if q.n = p.n then { q with answer := some ans } else q) }.afterClk
          back .remoteAnswer { n := p.n })

/-- A strand held on the answer to packet n, and its instruction's use of the bytes. -/
def State.useAnswer (s : State) (r : Ref) (st : Strand) (p : Packet) (ans : Answer) (bad : Byte) : State :=
  match ans with
  | .fault c => s.trap r st (if bad = 0 then c else bad) (TrapInfo.at 0 p.addr)
  | .bytes bs =>
    match p.acc with
    | .load d _ sg => s.retireOrd r (st.wr d (loadValue bs sg)) p.ord
    | .atomic _ d _ sg _ _ => s.retireOrd r (st.wr d (loadValue bs sg)) p.ord
    | .again _ => { s.setStrand r { st with hold := none } with data := s.data.filter (fun e => e.1 != st.uid) ++
        [(st.uid, bs)] }

/-- R25: the answer returns: the register is written, or the held strand traps at its instruction (R165). -/
def execRemoteAnswer (s : State) : Host.Outcome State Fault Refusal :=
  match s.net.find? (fun p => p.n == s.ev.n) with
  | none => .next s
  | some p =>
    match p.answer with
    | none => .next s
    | some ans =>
      let s := { s with net := s.net.filter (fun q => q.n != p.n) }
      match s.strand p.ref with
      | some st =>
        if st.uid = p.uid ∧ st.hold = some (.remote p.n) then .next (s.useAnswer p.ref st p ans 0) else .next s
      | none => .next s

/-- The fault of a host access that fails (R156, R164). -/
def Access.hostFault : Access → Byte
  | .atomic _ _ _ _ _ _ => fcAtomic
  | .load _ _ _ => fcHostAccess
  | .again _ => fcHostAccess

/-- Request `k` of a host access has completed: the packet with its bytes (R157). -/
def Packet.withPart (p : Packet) (k : Nat) (bs : List Byte) : Packet :=
  { p with parts := p.parts.filter (fun x => x.1 != k) ++ [(k, bs)] }

/-- The bytes of the completed requests, in address order. -/
def Packet.joined (p : Packet) : List Byte :=
  (List.range p.parts.length).flatMap (fun i => ((p.parts.find? (fun x => x.1 == i)).map (·.2)).getD [])

/-- R156, R157, R164: the completion of one request returns: data, the host-access fault of a load, or the atomic-target
fault; with the last one the strand has its bytes. -/
def execHostCompletion (s : State) : Host.Outcome State Fault Refusal :=
  match s.net.find? (fun p => p.n == s.ev.n) with
  | none => .next s
  | some p =>
    let drop : State := { s with net := s.net.filter (fun q => q.n != p.n) }
    match s.strand p.ref, (linePieces p.segs)[s.ev.k]? with
    | some st, some piece =>
      if st.uid = p.uid ∧ st.hold = some (.host p.n) then
        let bad := p.acc.hostFault
        if s.ev.status ≠ .ok ∨ s.segsPoisoned [piece] then .next (drop.useAnswer p.ref st p (.fault bad) bad)
        else
          match p.acc with
          | .atomic _ _ _ _ _ _ =>
            let r := drop.performAccess p
            .next (r.1.useAnswer p.ref st p r.2 bad)
          | _ =>
            let q := p.withPart s.ev.k (s.readSegs p.asid [piece])
            if q.parts.length = (linePieces p.segs).length then
              .next (drop.useAnswer p.ref st p (.bytes q.joined) bad)
            else .next { s with net := s.net.map (fun x => if x.n = p.n then q else x) }
      else .next drop
    | _, _ => .next drop

/-- Lines that a write of n bytes touches are poisoned (R361). -/
def State.poisonLines (s : State) (k n : Nat) : State :=
  let l := (List.range' (k / 64) ((k + n - 1) / 64 + 1 - k / 64)).filter (fun i => !s.poison.contains i)
  { s with poison := s.poison ++ l }

/-- The place of a key of memory below host memory. -/
def Loc.ofKey (k : Nat) : Loc :=
  if 2 ^ 64 ≤ k then .host (k - 2 ^ 64)
  else if 0xE000000000000000 ≤ k then
    .spad ((k - 0xE000000000000000) / 2 ^ 21) ((k - 0xE000000000000000) % 2 ^ 21)
  else .dev k

/-- R174, R196: a PCIe or fabric write by the host or another context is registered; into a scratchpad it is a wake
event of code 1; poisoned data poison the line, which core 3 reports (R361) (DESIGN CHOICE, log entry 47). A sealed
frame is not written (R346; DESIGN CHOICE, log entry 55). -/
def execHostWriteIngress (s : State) : Host.Outcome State Fault Refusal :=
  match s.ev.write with
  | none => .next s
  | some w =>
    let l := Loc.ofKey w.key
    let bad := s.ev.status == .poisoned
    let shut := match l with
      | .dev pa => s.sealedIn pa w.bytes.length
      | .spad _ _ => false
      | .host _ => false
    if shut then .next s else
    let s := s.doJobs [.write .external [(w.asid, w.addr.toNat)] l w.bytes]
    let s := match l with
      | .spad t _ => s.atEnd .wakeEvent { tile := t, k := 1 }
      | .dev _ => s
      | .host _ => s
    if bad then
      let d := (l.die).getD 0
      let s := (s.poisonLines w.key w.bytes.length).modDie d (fun x => { x with poisoned := x.poisoned + 1 })
      .next ((s.notice d w.asid (noticeBytes 13 0 (w.key / 64 * 64) 2 s.podTime.toNat)).hostEvent (d / 4) 0 3 0 none
        13 (w.key / 64 * 64))
    else .next s

/-- A store without one of its requests: the bytes of line piece `k` are gone (R157). -/
def StoreEnt.without (e : StoreEnt) (k : Nat) : StoreEnt :=
  let l := linePieces e.segs
  let before := ((l.take k).map (·.2)).sum
  let n := (l.getD k (.dev 0, 0)).2
  { e with
    addr := if k = 0 then e.addr + BitVec.ofNat 64 n else e.addr
    segs := l.eraseIdx k
    data := e.data.take before ++ e.data.drop (before + n) }

/-- R155, R157: the host refuses a posted write or a RADD, or one of its two requests: the store is lost, and the strand is
not trapped (R351). -/
def execHostWriteRefused (s : State) : Host.Outcome State Fault Refusal :=
  let t := s.ev.tile
  match (s.tile t).sb.find? (fun x => x.n == s.ev.n && !x.registered) with
  | none => .next s
  | some e =>
    match (linePieces e.segs)[s.ev.k]? with
    | some (.host _, _) =>
      let s := s.lostStore t e.asid e.edition e.addr .host
      let rest := e.without s.ev.k
      if rest.segs = [] then
        let s := s.modTile t (fun w => { w with sb := w.sb.map (fun x => if x.n = e.n then { x with registered := true } else x) })
        .next ((s.storeAcqDone t e.n).post .registrationAck { tile := t, n := e.n })
      else .next (s.modTile t (fun w => { w with sb := w.sb.map (fun x => if x.n = e.n then rest else x) }))
    | _ => .next s

/-! ## FENCE.H (R90) -/

/-- A tile answers a serialise request: unowned L1 words go, the context's strands acquire (R90). -/
def State.serialised (s : State) (t : Nat) (q : Serial) : State :=
  let now := s.podTime
  (s.modTile t (fun w => { w with
    l1 := w.l1.filter (fun e => e.2.owned)
    strands := w.strands.map (fun e => if e.2.asid = q.asid then (e.1, { e.2 with acq := now }) else e) })).post
    .serialiseAck { n := q.n, k := q.k }

/-- Tiles that enter reset acknowledge the requests that wait there (R169). -/
def State.ackSerials (s : State) (part : Nat → Bool) : State :=
  (s.tiles.filter (fun e => part e.1)).foldl (fun (s : State) e => e.2.serials.foldl (fun (s : State) q => s.serialised e.1 q) s) s

/-- The serialise requests at a tile, in order of arrival (R169): each registers the context's buffered stores, then waits
until the side log holds none (R90). Those that still wait stay. -/
def State.serveSerial (s : State) (t : Nat) (l : List Serial) : State × List Serial :=
  match l with
  | [] => (s, [])
  | q :: rest =>
    let s := s.registerAll t q.asid
    let w := s.tile t
    if w.side.any (fun e => e.asid == q.asid) || w.sb.any (fun e => e.asid == q.asid && !e.registered) then (s, l)
    else State.serveSerial (s.serialised t q) t rest

/-- R90: a serialise request arrives at a tile; with the flag of its operands, those that wait there are looked at again. -/
def execSerialiseRequest (s : State) : Host.Outcome State Fault Refusal :=
  let t := s.ev.tile
  let l := if s.ev.flag then (s.tile t).serials else (s.tile t).serials ++ [⟨s.ev.asid, s.ev.n, s.ev.k⟩]
  let r := s.serveSerial t l
  let s := r.1.modTile t (fun w => { w with serials := r.2 })
  if r.2.isEmpty then .next s else .next (s.later 1 .serialiseRequest { tile := t, flag := true })

/-- R90: an acknowledgement; with the last one the FENCE.H acquires and retires. -/
def execSerialiseAck (s : State) : Host.Outcome State Fault Refusal :=
  match s.findUid s.ev.k with
  | none => .next s
  | some r =>
    match s.strand r with
    | none => .next s
    | some st =>
      match st.hold with
      | some (.fence n acks) =>
        if n ≠ s.ev.n then .next s
        else if acks ≤ 1 then .next (s.retireAcq r st)
        else .next (s.setStrand r { st with hold := some (.fence n (acks - 1)) })
      | _ => .next s

/-! ## Translation (R341 to R349) -/

/-- An unsettled faulting entry of the side log on a range. -/
def SideEnt.waits (e : SideEnt) (a lo n : Nat) : Bool :=
  e.faulted && !e.settled && !e.discard && e.asid == a && decide (e.addr.toNat < lo + n) &&
    decide (lo < e.addr.toNat + e.data.length)

/-- Entries of a die's side logs on a range are settled one way; their tiles replay (R350). -/
def State.settleSide (s : State) (d a lo n : Nat) (discard : Bool) : State :=
  let hit := (s.tiles.filter (fun (e : Nat × Tile) => e.1 / 256 == d && e.2.side.any (fun x => x.waits a lo n))).map (·.1)
  hit.foldl (fun (s : State) t =>
    (s.modTile t (fun w => { w with side := w.side.map (fun x =>
      if x.waits a lo n then { x with settled := true, discard := discard } else x) })).post .sideLogReplay { tile := t }) s

/-- A strand held on a page that no one maps takes its fault (R349), a supervisor's store is lost (R350, R351; log entry 12); the
packet has the address it waits on, of a
page-crossing access the start of the missing page (DESIGN CHOICE, log entry 57). -/
def State.failMiss (s : State) (r : Ref) (st : Strand) : State :=
  match st.hold with
  | some (.xlate va) => s.trap r st fcPage (TrapInfo.at 0 va)
  | some (.fetch va) => s.trap r st fcInstrAccess (TrapInfo.at 0 va)
  | some (.storeMiss ea _) =>
    (s.lostStore (r.die * 256) (s.asidOf r st) none ea .unreplayable).complete r st
  | _ => s

/-- Every strand and engine of a die that waits for a range fails (R349). -/
def State.failRange (s : State) (d a lo n : Nat) : State :=
  let refs : List (Ref × Strand) := (s.tiles.filter (fun (e : Nat × Tile) => e.1 / 256 == d)).flatMap
    (fun (e : Nat × Tile) => (e.2.strands.filter (fun x => x.2.asid == a && (match x.2.hold with
      | some h => h.missIn lo n
      | none => false))).map (fun x => (Ref.tile e.1 x.1, x.2)))
  let sups : List (Ref × Strand) := if (s.die d).svasid.toNat = a then
      ((s.die d).sups.filter (fun x => match x.2.hold with
        | some h => h.missIn lo n
        | none => false)).map (fun x => (Ref.sup d x.1, x.2))
    else []
  let s := (refs ++ sups).foldl (fun (s : State) x => s.failMiss x.1 x.2) s
  let here := (s.tiles.filter (fun (e : Nat × Tile) => e.1 / 256 == d && e.2.engineStuck)).map (·.1)
  let s := here.foldl (fun (s : State) t =>
    (s.modTile t (fun w => { w with forme := w.forme.deny a lo n, copy := w.copy.deny a lo n })).enginesGo t) s
  s.settleSide d a lo n true

/-- R341: the walk fills the TLB, finds the page not present, or raises an attribute alias (R345, R346, R349). -/
def execPageWalk (s : State) : Host.Outcome State Fault Refusal :=
  let d := s.ev.die
  let a := s.ev.asid
  let va := s.ev.value.toNat
  match s.fill d a va with
  | .absent => .next (s.askManager d a va)
  | .conflict f pa tag => .next ((s.clashNotice d a va f pa tag).failRange d a (va / 4096 * 4096) 4096)
  | .entry s e =>
    let s := s.wakeXlate d a e.va e.size
    if pteW e.leaf then .next (s.settleSide d a e.va e.size false)
    else if s.tiles.any (fun (x : Nat × Tile) => x.1 / 256 == d && x.2.side.any (fun y => y.waits a e.va e.size)) then
      .next (s.askManager d a va)
    else .next s

/-- R343: the die agent invalidates a range of `n` bytes. -/
def execTlbRangedInvalidate (s : State) : Host.Outcome State Fault Refusal :=
  .next (s.invalidate s.ev.die s.ev.asid s.ev.value.toNat s.ev.n)

/-- Dies that have a context loaded. -/
def State.diesOf (s : State) (a : Nat) : List Nat :=
  (s.dies.filter (fun (e : Nat × Die) => (e.2.ctxs.get Ctx.absent a).valid)).map (·.1)

/-- The frame of a page as the tables stand, 0 when none. -/
def State.frameOf (s : State) (d a va : Nat) : Nat :=
  match s.walk d a va with
  | some f => ptePa f.pte
  | none => 0

/-- The page-mapped notice (R356 kind 3). -/
def State.mappedNotice (s : State) (d a reason va old new : Nat) : State :=
  s.notice d a (noticeBytes 3 reason va old new)

/-- Requests for a page leave the queues of every die. -/
def State.dropRequests (s : State) (a lo n : Nat) : State :=
  { s with dies := s.dies.map (fun (e : Nat × Die) => (e.1, { e.2 with mm := e.2.mm.filter (fun q =>
    !(q.asid == a && decide (lo ≤ q.va.toNat) && decide (q.va.toNat < lo + n))) })) }

/-- An entry is a leaf on a frame that a repair has retired, or on a retired channel (R378). -/
def State.retiredLeaf (s : State) (e : W64) : Bool :=
  let k := ptePa e / 4096
  let d := ptePa e / 2 ^ 39
  let x := s.pkg (d / 4)
  pteValid e && pteSize e != 7 && !pteHost e &&
    ((x.retired.any (fun r => decide (k ≤ r) && decide (r < k + pageBytes (pteSize e) / 4096))) ||
     (!x.channels.isEmpty && (List.range (pageBytes (pteSize e) / 4096)).any (fun i =>
        x.channels.contains (d % 4 * 2 ^ 32 + Config.channelOf (k + i)))))

/-- R349: the memory manager writes its entries and invalidates on every die; a mapped page is walked again, an
unresolvable one first settles what waits for it with faults (DESIGN CHOICE, log entry 44). -/
def execMmFaultDecision (s : State) : Host.Outcome State Fault Refusal :=
  match s.ev.decision with
  | none => .next s
  | some x =>
    if x.writes.any (fun w => s.retiredLeaf w.2) then .next s
    else
    let va := x.va.toNat
    let ds := s.diesOf x.asid
    let d := ds.headD 0
    let old := s.frameOf d x.asid va
    let before := (s.walk d x.asid va).map (fun f => pageBytes (pteSize f.pte))
    let s := x.writes.foldl (fun (s : State) w =>
      (s.writeAt .firmware (s.viewsOf (w.1 / 2 ^ 39) w.1) (.dev w.1) (leBytes 8 w.2.toNat)).1) s
    let size := ((s.walk d x.asid va).map (fun f => pageBytes (pteSize f.pte))).getD (before.getD 4096)
    let lo := va / size * size
    let s := if x.outcome = .unresolvable then ds.foldl (fun (s : State) e => s.failRange e x.asid lo size) s else s
    let s := ds.foldl (fun (s : State) e => s.invalidate e x.asid lo size) s
    let asks := ds.filter (fun e => (s.die e).mm.any (fun q =>
      q.asid == x.asid && decide (lo ≤ q.va.toNat) && decide (q.va.toNat < lo + size)))
    let s := s.dropRequests x.asid lo size
    match x.outcome with
    | .mapped =>
      let s := asks.foldl (fun (s : State) e => s.post .pageWalk { die := e, asid := x.asid, value := x.va }) s
      .next (s.mappedNotice d x.asid 1 lo old (s.frameOf d x.asid va))
    | .unmapped => .next (s.mappedNotice d x.asid 3 lo old 0)
    | .unresolvable => .next s

/-- R348: the log of a tile is merged into the page tables. -/
def execDirtyLogMerge (s : State) : Host.Outcome State Fault Refusal := .next (s.mergeDirty s.ev.tile)

/-! ## The side log (R97, R98, R350) -/

/-- The entry that is replayed next: the oldest of its strand, settled or only queued (R98). -/
def nextReplay (l : List SideEnt) (seen : List Nat) : Option SideEnt :=
  match l with
  | [] => none
  | e :: rest =>
    if seen.contains e.uid then nextReplay rest seen
    else if e.settled || e.discard || !e.faulted then some e
    else nextReplay rest (e.uid :: seen)

/-- Remove an entry. -/
def State.dropSide (s : State) (t n : Nat) : State :=
  s.modTile t (fun w => { w with side := w.side.filter (fun e => e.n != n) })

/-- An entry as a store of its strand, with the places it goes to. -/
def SideEnt.store (e : SideEnt) (segs : List (Loc × Nat)) : StoreEnt :=
  ⟨e.n, e.uid, e.asid, e.edition, e.addr, segs, e.data, e.kind, e.ord, false⟩

/-- A replayed entry is registered through the normal path (R79). -/
def State.registerSide (s : State) (t : Nat) (e : SideEnt) (segs : List (Loc × Nat)) : State :=
  let s := s.modTile t (fun w => { w with sb := w.sb ++ [e.store segs] })
  let s := s.storeL1 t segs (s.l1Bytes e.kind segs e.data)
  ((s.dropSide t e.n).registerNext t e.n)

/-- Replay or discard one entry; one whose page is missing or not writable waits again (R349). -/
def State.replayOne (s : State) (t : Nat) (e : SideEnt) : State :=
  let wait (s : State) (va : Nat) : State :=
    (s.modTile t (fun w => { w with side := w.side.map (fun x =>
      if x.n = e.n then { x with faulted := true, settled := false } else x) })).post .pageWalk
      { die := t / 256, asid := e.asid, value := BitVec.ofNat 64 va }
  let lose (s : State) : State := ((s.dropSide t e.n).lostStore t e.asid e.edition e.addr .unreplayable).storeAcqDone t e.n
  if e.discard then lose s
  else
    match Space.of e.addr with
    | .tile u off => s.registerSide t e [(.spad u off, e.data.length)]
    | .localOff off => s.registerSide t e [(.spad t off, e.data.length)]
    | .none => lose s
    | .virt =>
      match s.xlateRange t e.asid e.addr.toNat e.data.length with
      | .error va => wait s va
      | .ok (s, segs, ents) =>
        match ents.find? (fun x => !pteW x.leaf) with
        | some x => wait s (Nat.max x.va e.addr.toNat)
        | none =>
          match s.logDirty t ents with
          | some s => s.registerSide t e segs
          | none => (s.post .dirtyLogMerge { tile := t }).post .sideLogReplay { tile := t }

/-- Replay while an entry may be. -/
def State.replayAll (s : State) (t fuel : Nat) : State :=
  match fuel with
  | 0 => s
  | fuel + 1 =>
    match nextReplay (s.tile t).side [] with
    | none => s
    | some e => State.replayAll (s.replayOne t e) t fuel

/-- R350: entries are replayed or discarded; what their strands held on goes on (R97). -/
def execSideLogReplay (s : State) : Host.Outcome State Fault Refusal :=
  let t := s.ev.tile
  let s := s.replayAll t (s.tile t).side.length
  let s := (s.wakeStores t).wake t (fun _ h => h == .logFull)
  .next ((s.barwTile t).checkKilled)

/-! ## Page migration (R352, R353) -/

/-- R352: what the memory manager sets on a die: its threshold, and, when `clear` says so, the overflow bits and the
missed count at 0. -/
def Die.setMigration (x : Die) (threshold : Nat) (clear : Bool) : Die :=
  { x with
    migThreshold := threshold % 2 ^ 16
    migOver := if clear then [] else x.migOver
    migMissed := if clear then 0 else x.migMissed }

/-- R352: the memory manager takes the oldest notice; with a plan it migrates the page to a frame on `toDie`. With the
flag of its operands it sets the die's threshold instead (DESIGN CHOICE, log entry 44). -/
def execMigrationNoticeTake (s : State) : Host.Outcome State Fault Refusal :=
  let d := s.ev.die
  if s.ev.flag then .next (s.modDie d (fun y => y.setMigration s.ev.n (s.ev.k == 1)))
  else match (s.die d).migQueue with
  | [] => .next s
  | _ :: rest =>
    let s := s.modDie d (fun y => { y with migQueue := rest })
    match s.ev.plan with
    | none => .next s
    | some p =>
      if s.retiredLeaf p.newLeaf then .next s
      else
      let old := Memory.dword s.mem p.pteKey
      let m : Migration := ⟨p, ptePa old, ptePa p.newLeaf, pageBytes (pteSize old), 0, [], .copy⟩
      .next ((s.modDie d (fun y => { y with migrations := y.migrations ++ [m] })).post .pageMigration
        { die := d, n := p.pteKey })

/-- Change a migration, named by its leaf. -/
def State.modMigration (s : State) (d key : Nat) (f : Migration → Migration) : State :=
  s.modDie d (fun x => { x with migrations := x.migrations.map (fun m => if m.plan.pteKey = key then f m else m) })

/-- Copy the dirty lines again (R353). -/
def State.copyDirty (s : State) (m : Migration) : State :=
  m.dirty.foldl (fun (s : State) i => s.moveBytes (m.src + 64 * i) (m.dst + 64 * i) 64) s

/-- Ownership of a page's words returns from every L1 (R79, R353). -/
def State.recall (s : State) (d src size : Nat) : State :=
  let out (k : Nat) : Bool := decide (4 * k < src) || decide (src + size ≤ 4 * k)
  let s := s.modDie d (fun x => { x with owner := x.owner.filter (fun e => out e.1) })
  let s := { s with tiles := s.tiles.map (fun (e : Nat × Tile) =>
    (e.1, { e.2 with l1 := e.2.l1.filter (fun x => out x.1) })) }
  { s with dies := s.dies.map (fun (e : Nat × Die) => (e.1, { e.2 with rdc := e.2.rdc.filter (fun x => out x.1) })) }

/-- A place of the old frame, in the new one. -/
def Migration.move (m : Migration) (l : Loc) : Loc :=
  match l with
  | .dev pa => if m.src ≤ pa ∧ pa < m.src + m.size then .dev (pa - m.src + m.dst) else .dev pa
  | .spad t off => .spad t off
  | .host b => .host b

/-- A WAITV on a word of the page waits on it at its new home (R173, R353). -/
def State.moveWaiters (s : State) (m : Migration) : State :=
  s.mapStrands (fun st => match st.hold with
    | some (.waitv _ _ _) => true
    | _ => false) (fun st => match st.hold with
    | some (.waitv l n v) => { st with hold := some (.waitv (m.move l) n v) }
    | _ => st)

/-- Buffered stores on their way to the old frame are registered there: the invalidation waits for them (R343). -/
def State.registerFrame (s : State) (m : Migration) : State :=
  (s.tiles.map (·.1)).foldl (fun (s : State) t => s.registerWhere t (fun e => e.segs.any (fun x => m.move x.1 != x.1))) s

/-- The switch (R353): ownership recalled, the rest copied, the new leaf written and invalidated everywhere. -/
def State.switchPage (s : State) (d : Nat) (m : Migration) : State :=
  let s := s.registerFrame m
  let m := ((s.die d).migrations.find? (fun x => x.plan.pteKey == m.plan.pteKey)).getD m
  let s := (s.recall d m.src m.size).copyDirty m
  let key := m.plan.pteKey
  let s := s.modMigration d key (fun m => { m with dirty := [], phase := .switch })
  let s := (s.writeAt .firmware (s.viewsOf (key / 2 ^ 39) key) (.dev key) (leBytes 8 m.plan.newLeaf.toNat)).1
  let lo := m.plan.va.toNat / m.size * m.size
  let s := (s.diesOf m.plan.asid).foldl (fun (s : State) e => (s.mergeDie e).dropRange e m.plan.asid lo m.size) s
  let s := s.moveWaiters m
  s.later 1 .migrationRelease { die := d, n := key }

/-- R353: one phase of the migration whose leaf stands at `n`. -/
def execPageMigration (s : State) : Host.Outcome State Fault Refusal :=
  let d := s.ev.die
  match (s.die d).migrations.find? (fun m => m.plan.pteKey == s.ev.n) with
  | none => .next s
  | some m =>
    match m.phase with
    | .copy =>
      let s := s.moveBytes m.src m.dst m.size
      .next ((s.modMigration d s.ev.n (fun m => { m with copied := m.size / 64, phase := .recopy 0 })).later 1
        .pageMigration s.ev)
    | .recopy k =>
      if (k ≠ 0 ∧ m.dirty.length ≤ 16) ∨ 4 ≤ k then .next (s.switchPage d m)
      else
        let s := s.copyDirty m
        .next ((s.modMigration d s.ev.n (fun m => { m with dirty := [], phase := .recopy (k + 1) })).later 1
          .pageMigration s.ev)
    | .switch => .next s

/-- Strands of a die held on a range, in the order in which their holds began (R353). -/
def State.heldOn (s : State) (d a lo n : Nat) : List (Ref × Nat) :=
  let held (x : Strand) : Bool := (x.hold.map (·.missIn lo n)).getD false
  let tiles : List (Ref × Nat) := (s.tiles.filter (fun (e : Nat × Tile) => e.1 / 256 == d)).flatMap (fun (e : Nat × Tile) =>
    (e.2.strands.filter (fun x => x.2.asid == a && held x.2)).map (fun x => (Ref.tile e.1 x.1, x.2.since)))
  let sups : List (Ref × Nat) := if (s.die d).svasid.toNat = a then
      ((s.die d).sups.filter (fun x => held x.2)).map (fun x => (Ref.sup d x.1, x.2.since))
    else []
  tiles ++ sups

/-- Accesses that a migration held go on one after another, the longest held first (R353). -/
def State.staggerHeld (s : State) (l : List (Ref × Nat)) : State :=
  l.foldl (fun (s : State) x =>
    let rank := (l.filter (fun y => decide (y.2 < x.2))).length
    s.modStrand x.1 (fun st => st.notBefore (s.clk + 1 + rank))) s

/-- R353: held accesses translate again and perform at the new home, in order; the notice follows (R356). -/
def execMigrationRelease (s : State) : Host.Outcome State Fault Refusal :=
  let d := s.ev.die
  match (s.die d).migrations.find? (fun m => m.plan.pteKey == s.ev.n && m.phase == .switch) with
  | none => .next s
  | some m =>
    let s := s.modDie d (fun x => { x with migrations := x.migrations.filter (fun y => y.plan.pteKey != m.plan.pteKey) })
    let s := { s with tiles := s.tiles.map (fun (e : Nat × Tile) => (e.1, { e.2 with sb := e.2.sb.map (fun (x : StoreEnt) =>
      if x.registered then x else { x with segs := x.segs.map (fun (y : Loc × Nat) => (m.move y.1, y.2)) }) })) }
    let lo := m.plan.va.toNat / m.size * m.size
    let s := s.staggerHeld ((s.diesOf m.plan.asid).flatMap (fun e => s.heldOn e m.plan.asid lo m.size))
    let s := (s.diesOf m.plan.asid).foldl (fun (s : State) e => s.wakeXlate e m.plan.asid lo m.size) s
    .next (s.mappedNotice d m.plan.asid 2 lo m.src m.dst)

/-! ## Budget windows (R198) -/

/-- R198: a new window of entry `n` of the die's frisket begins. -/
def execBudgetWindowRoll (s : State) : Host.Outcome State Fault Refusal :=
  let d := s.ev.die
  match (s.die d).frisket.find s.ev.n with
  | none => .next s
  | some e =>
    if e.budget ≠ 0 ∧ e.armed ∧ e.winClk + e.window ≤ s.clk then
      let x := { e with winClk := e.winClk + e.window, winPod := s.podTimeAt (e.winClk + e.window), created := 0 }
      .next (s.modDie d (fun y => { y with frisket := y.frisket.ins s.ev.n x }))
    else .next s

end Sys2Proof.Machine
end

