-- ==== Sys2Proof/Machine/Watches.lean ====
section
/-! DEFINITION. Meanings of WATCH, UNWATCH and WQRY (R194 to R200). -/
namespace Sys2Proof.Machine

/-- The entry's fields (R195), as the WATCH of a number installs it at a clk. -/
def parseWatch (bs : List Byte) (clk : Nat) (now : W64) (inst : Nat) : Watch where
  base := BitVec.ofNat 64 (dwordAt bs 0)
  len := field (dwordAt bs 8) 30 0
  eng := (dwordAt bs 8).testBit 42
  ext := (dwordAt bs 8).testBit 41
  cls := BitVec.ofNat 2 (field (dwordAt bs 8) 40 39)
  target := BitVec.ofNat 2 (field (dwordAt bs 8) 38 37)
  queue := (dwordAt bs 8).testBit 36
  pred := BitVec.ofNat 3 (field (dwordAt bs 8) 35 33)
  wide := (dwordAt bs 8).testBit 32
  pc := BitVec.ofNat 64 (dwordAt bs 0x10)
  arg := BitVec.ofNat 64 (dwordAt bs 0x18)
  value := BitVec.ofNat 64 (dwordAt bs 0x20)
  tile := field (dwordAt bs 0x28) 18 0
  window := field (dwordAt bs 0x30) 47 16
  budget := field (dwordAt bs 0x30) 15 0
  armed := true
  overprint := false
  dropped := 0
  winClk := clk
  winPod := now
  created := 0
  inst := inst

/-- Reserved fields of an entry are 0 (R195). -/
def watchReserved (bs : List Byte) : Bool :=
  field (dwordAt bs 8) 63 43 == 0 && field (dwordAt bs 8) 31 31 == 0 && field (dwordAt bs 0x28) 63 19 == 0 &&
    field (dwordAt bs 0x30) 63 48 == 0 && dwordAt bs 0x38 == 0

/-- The watched range lies in device virtual space or in one scratchpad of the die (R195). -/
def watchRange (d : Nat) (base : W64) (len : Nat) : Bool :=
  match Space.of base with
  | .virt => decide (base.toNat + len ≤ 2 ^ 56)
  | .tile t off => t / 256 == d && decide (off + len ≤ spadSize)
  | .localOff _ => false
  | .none => false

/-- The check of an entry on a die (R195). -/
def watchOk (d : Nat) (bs : List Byte) (e : Watch) : Bool :=
  let size := if e.wide then 8 else 4
  watchReserved bs && decide (1 ≤ e.len) && decide (e.len ≤ 2 ^ 30) && e.base.toNat % size == 0 &&
    e.len % size == 0 && watchRange d e.base e.len && decide (e.pred.toNat ≤ 3) && e.target != 3 &&
    (e.target != 1 || e.tile / 256 == d) && (e.budget == 0 || e.window != 0) && e.pc.toNat % 4 == 0

/-- The lowest free index of a context's frisket on a die (R194). -/
def State.freeWatch (s : State) (d a : Nat) : Option Nat :=
  (List.range 256).find? (fun i => ((s.die d).frisket.find (256 * a + i)).isNone)

/-- R194 -/
def execWatch (d a : GReg) (s : State) : Host.Outcome State Fault Refusal :=
  s.withCur (fun st => s.userOnly st (fun t =>
    let ea := st.rd a
    (s.checked st ea 64 64).andThen (fun s x =>
      match s.takeData st.uid with
      | some (s, bs) => .go s bs
      | none => s.readData st ea 64 .relaxed x (.again 64) .addressFault)
    |>.finish (fun s bs =>
      let e := parseWatch bs s.clk s.podTime s.fresh
      if watchOk (t / 256) bs e = false then s.raise st fcWatch ea
      else
        match s.freeWatch (t / 256) st.asid with
        | none => s.retire (st.wr d allOnes64)
        | some i =>
          ({ s with fresh := s.fresh + 1 }.modDie (t / 256) (fun x => { x with
            frisket := x.frisket.ins (256 * st.asid + i) e })).retire
            (st.wr d (BitVec.ofNat 64 i)))))

/-- R199: the entry is free once the instruction retires. -/
def execUnwatch (a : GReg) (s : State) : Host.Outcome State Fault Refusal :=
  s.withCur (fun st => s.userOnly st (fun t =>
    let i := (st.rd a).toNat
    if 256 ≤ i then s.raise st fcWatch (st.rd a)
    else
      (s.modDie (t / 256) (fun x => { x with frisket := x.frisket.del (256 * st.asid + i) })).retire st))

/-- R200: the state of an entry. -/
def State.watchState (s : State) (d a i : Nat) : W64 :=
  match (s.die d).frisket.find (256 * a + i) with
  | none => 0
  | some e =>
    let n := (s.waitingImps (·.isWaitingImp e.inst none)).length
    BitVec.ofNat 64 (e.dropped % 2 ^ 32 * 2 ^ 32 + Nat.min n 255 * 2 ^ 8 + (if e.overprint then 4 else 0) +
      (if e.armed then 2 else 0) + 1)

/-- R200 -/
def execWqry (d a : GReg) (s : State) : Host.Outcome State Fault Refusal :=
  s.withCur (fun st => s.userOnly st (fun t =>
    let i := (st.rd a).toNat
    if 256 ≤ i then s.raise st fcWatch (st.rd a)
    else s.retire (st.wr d (s.watchState (t / 256) st.asid i))))

end Sys2Proof.Machine
end

