-- ==== Sys2Proof/Machine/System.lean ====
section
/-! DEFINITION. Meanings of TRAP, BRK, HALT, SRD and SWR (R117, R201 to R203, R300, R301). -/
namespace Sys2Proof.Machine

/-- R202: the strand freezes; its packet carries the code. -/
def execTrap (code : Byte) (s : State) : Host.Outcome State Fault Refusal :=
  s.withCur (fun st => s.trap s.cur st fcSoftware (TrapInfo.at code 0))

/-- R202 -/
def execBrk (code : Byte) (s : State) : Host.Outcome State Fault Refusal :=
  s.withCur (fun st => s.trap s.cur st fcBreak (TrapInfo.at code 0))

/-- R203: a user strand takes the privilege fault; a supervisor waits for a packet or a mailbox event. -/
def execHalt (s : State) : Host.Outcome State Fault Refusal :=
  s.withCur (fun st =>
    match s.cur with
    | .tile _ _ => s.raise st fcPrivilege 0
    | .sup d _ => if (s.die d).fhead ≠ (s.die d).ftail then s.retire st else s.holdCur st .halt)

/-- The undefined-instruction fault of an unassigned register number (R117, R123). -/
def State.badNumber (s : State) (st : Strand) : State := s.trap s.cur st fcUndefined (TrapInfo.at 4 0)

/-- Nothing runs on a die's tiles, and nothing waits there. -/
def State.dieIdle (s : State) (d : Nat) : Bool :=
  s.tiles.all (fun (e : Nat × Tile) => e.1 / 256 != d || (e.2.team.isNone && e.2.strands.isEmpty && e.2.waiting.isEmpty &&
    e.2.forme.quiet && e.2.copy.quiet))

/-- The power state of a die: in P0 its hardware enters P1 while its tiles are idle (R315, R379; DESIGN CHOICE, log entry 35). -/
def State.pstateOf (s : State) (d : Nat) : BitVec 3 :=
  if (s.die d).pstate = 0 ∧ s.dieIdle d then 1 else (s.die d).pstate

/-- Reading a privileged register of a die (R300) (DEDUCED, log entry 41). -/
def State.privReg (s : State) (d : Nat) (n : Nat) : Option W64 :=
  let x := s.die d
  let p := s.pkg (d / 4)
  match n with
  | 0x100 => some (BitVec.ofNat 64 (p.number.toNat * 4 + d % 4))
  | 0x101 => some (x.ctxtab.getD 0)
  | 0x102 => some (x.tiletab.getD 0)
  | 0x103 => some (x.fring.getD 0)
  | 0x105 => some (x.ftail.setWidth 64)
  | 0x106 => some (x.svasid.setWidth 64)
  | 0x107 => some (BitVec.ofNat 64 ((p.debug).toNat * 16 + p.sec.toNat))
  | 0x108 => some ((s.pstateOf d).setWidth 64)
  | 0x109 => some 0
  | _ => none

/-- R201, R117: every number but sys.fhead. -/
def execSrd (d : GReg) (n : BitVec 12) (s : State) : Host.Outcome State Fault Refusal :=
  s.withCur (fun st =>
    match n.toNat with
    | 0 => s.retire (st.wr d (s.status s.cur st))
    | 1 =>
      match st.kind, s.cur with
      | .anchored, .tile t _ =>
        match s.team t with
        | some m => s.retire (st.wr d m.aflags)
        | none => s.raise st fcNotAnchored 0
      | _, _ => s.raise st fcNotAnchored 0
    | 2 => s.retire (st.wr d (BitVec.ofNat 64 s.clk))
    | 3 => s.retire (st.wr d s.podTime)
    | k =>
      if k < 0x100 then s.badNumber st
      else
        match s.cur with
        | .tile _ _ => s.raise st fcPrivilege 0
        | .sup e _ =>
          match s.privReg e k with
          | some v => s.retire (st.wr d v)
          | none => s.badNumber st)

/-- Writing a privileged register (R300); read-only ones ignore it (R8). -/
def Die.setReg (x : Die) (n : Nat) (v : W64) : Option Die :=
  match n with
  | 0x100 => some x
  | 0x101 => some { x with ctxtab := some v }
  | 0x102 => some { x with tiletab := some v }
  | 0x103 => some { x with fring := some v }
  | 0x104 => some x
  | 0x106 => some { x with svasid := v.setWidth 12 }
  | 0x107 => some x
  | 0x108 => some x
  | _ => none

/-- R201, R117: every number but sys.ftail and sys.ctxload. -/
def execSwr (a : GReg) (n : BitVec 12) (s : State) : Host.Outcome State Fault Refusal :=
  s.withCur (fun st =>
    let v := st.rd a
    match n.toNat with
    | 0 => s.retire st
    | 1 =>
      match st.kind, s.cur with
      | .anchored, .tile t _ =>
        match s.team t with
        | some _ => (s.modTeam t (fun m => m.clearFlags v)).retire st
        | none => s.raise st fcNotAnchored 0
      | _, _ => s.raise st fcNotAnchored 0
    | k =>
      match s.cur with
      | .tile _ _ => if 4 ≤ k ∧ k < 0x100 then s.badNumber st else s.raise st fcPrivilege 0
      | .sup e _ =>
        if k < 4 then s.retire st
        else
          match (s.die e).setReg k v with
          | some x => ((s.setDie e x).post .faultPacketWrite { die := e }).retire st
          | none => s.badNumber st)

/-- R304: an SRD of sys.fhead acts as an acquire action. -/
def execSrdSysFhead (d : GReg) (s : State) : Host.Outcome State Fault Refusal :=
  s.withCur (fun st =>
    match s.cur with
    | .tile _ _ => s.raise st fcPrivilege 0
    | .sup e _ => s.retireAcq s.cur (st.wr d ((s.die e).fhead.setWidth 64)))

/-- R304: packets consumed; room in the ring lets a held packet be written. -/
def execSwrSysFtail (a : GReg) (s : State) : Host.Outcome State Fault Refusal :=
  s.withCur (fun st =>
    match s.cur with
    | .tile _ _ => s.raise st fcPrivilege 0
    | .sup e _ =>
      ((s.modDie e (fun x => { x with ftail := (st.rd a).setWidth 32 })).retire st).post .faultPacketWrite { die := e })

/-- A context entry read from the table in memory (R302). -/
def ctxAt (m : List Host.Cell) (pa : Nat) : Ctx :=
  let w (i : Nat) : Nat := (Memory.dword m (pa + 8 * i)).toNat
  { valid := (w 0).testBit 63
    frame := (w 0).testBit 62
    ceiling := BitVec.ofNat 2 (field (w 0) 61 60)
    quantum := field (w 0) 31 0
    ptroot := w 1
    ttbase := w 2
    ttlen := field (w 3) 16 0
    notice := w 4
    spill := w 5
    root := field (w 6) 40 32
    spillsize := field (w 6) 31 0
    save := w 7
    pkgmask := BitVec.ofNat 512 (leNat (Memory.readN m (pa + 0x40) 64)) }

/-- Load a context's entry and grants into a die, which invalidates every translation of the context there (R301, R343): what used
the old tables is settled under them first. ASID 0 names no context. -/
def State.loadCtx (s : State) (d a : Nat) : State :=
  match (s.die d).ctxtab, (s.die d).tiletab with
  | some cb, some tb =>
    if a = 0 then s
    else
      let c := ctxAt s.mem (cb.toNat + 128 * a)
      let g := BitVec.ofNat 256 (leNat (Memory.readN s.mem (tb.toNat + 32 * a) 32))
      let s := (s.settleUsed d a 0 (2 ^ 56)).modDie d (fun x => { x with
        ctxs := x.ctxs.put Ctx.absent a c
        grants := x.grants.put 0 a g })
      let s := (if c.valid then s.loadRoot a c.root else s).wakeSpill a
      ((s.dropRange d a 0 (2 ^ 56)).retranslate d a 0 (2 ^ 56)).wakeXlate d a 0 (2 ^ 56)
  | _, _ => s

/-- R301: reloads the context entry and tile-grant entry of an ASID into the die. -/
def execSwrSysCtxload (a : GReg) (s : State) : Host.Outcome State Fault Refusal :=
  s.withCur (fun st =>
    match s.cur with
    | .tile _ _ => s.raise st fcPrivilege 0
    | .sup e _ =>
      ((s.loadCtx e ((st.rd a).toNat % 4096)).retire st).post .blockDeal { die := e })

end Sys2Proof.Machine
end

