-- ==== Sys2Proof/Machine/Commands.lean ====
section
/-! DEFINITION. What every host command checks (R366, R367, R372), and the commands that touch contexts, tensors,
tags, frames of memory and tiles (R366, R368, R345, R346, R323, R329). -/
namespace Sys2Proof.Machine

/-! ## Checks (R366, R367) -/

/-- A command being executed: where it came from and its doublewords (R366). -/
structure Cmd where
  p : Nat
  f : Nat
  q : Nat
  w : List W64
  deriving DecidableEq, Repr

/-- A doubleword of a command as a number. -/
def Cmd.dw (c : Cmd) (i : Nat) : Nat := (c.w.getD i 0).toNat
def Cmd.op (c : Cmd) : Nat := field (c.dw 0) 63 56
def Cmd.signed (c : Cmd) : Bool := (c.dw 0).testBit 48
def Cmd.tag (c : Cmd) : Nat := field (c.dw 0) 47 32
def Cmd.asid (c : Cmd) : Nat := field (c.dw 0) 11 0

/-- Secure and power commands must be signed (R366). -/
def Cmd.mustSign (c : Cmd) : Bool := c.op == 0x08 || c.op == 0x09

/-- The fields common to all commands are well formed: flags, reserved bits, and doubleword 0x38. -/
def Cmd.headOk (c : Cmd) : Bool :=
  field (c.dw 0) 31 12 == 0 && field (c.dw 0) 55 49 == 0 &&
    (if c.op = 0x01 then !c.signed else c.signed || c.mustSign || c.dw 7 == 0)

/-- Doublewords from one on, up to 0x30, are 0. -/
def Cmd.zeroFrom (c : Cmd) (i : Nat) : Bool := (List.range' i (7 - i)).all (fun j => c.dw j == 0)

/-- The function owns the ASID (R366): function 0 owns all, and ASID 0 names no context. -/
def State.ownsAsid (s : State) (p f a : Nat) : Bool := a != 0 && (f == 0 || (s.pkg p).owners.get 0 a == f)

/-- The message that a signature covers: the command bytes with doubleword 0x38 as zero, and the nonce (R372). -/
def Cmd.message (c : Cmd) (nonce : BitVec 128) : List Byte :=
  (List.range 7).flatMap (fun i => leBytes 8 (c.dw i)) ++ leBytes 8 0 ++ leBytes 16 nonce.toNat

/-- The host read of a command's operand, or of its signature, completes in error or poisoned. -/
def State.badRead (s : State) (bus n : Nat) : Bool := s.ev.status != .ok || s.hostPoisoned bus n

/-- The check of a signature (R372): the status of a failure. -/
def State.signature (s : State) (c : Cmd) : Option Nat :=
  if c.signed = false then (if c.mustSign then some 4 else none)
  else if s.badRead (c.dw 7) 114 then some 8
  else
    let sig := Memory.readN s.mem (2 ^ 64 + c.dw 7) 114
    if ed448Verify (Config.fixedKey 0) (shake256 (c.message (s.pkg c.p).nonce) 64) sig then none else some 4

/-- How a command ends: turned away with a status, done with a result, or not yet. -/
inductive CmdEnd where
  | refuse (status : Nat)
  | done (s : State) (result : Nat)
  | wait (s : State)

/-- The completion of a command; an accepted signed one advances the nonce (R372). -/
def State.endCmd (s : State) (c : Cmd) (status result : Nat) : State :=
  let s := if c.signed && status == 0 then s.modPkg c.p (fun x => { x with nonce := x.nonce + 1 }) else s
  s.cmdDone c.p c.f c.q (opCore c.op) c.tag status result

/-- Core 1 journals a command before it acts on it, and clears the queue's kick bit (R373; DESIGN CHOICE, log entry 30). -/
def State.journalCommand (s : State) (c : Cmd) : State :=
  if opCore c.op = 1 then
    let key := 16 * c.f + c.q
    let n := ((s.fn c.p c.f).queue c.q).head - 1
    s.modPkg c.p (fun x => { x with
      journal := x.journal ++ [BitVec.ofNat 64 (key * 2 ^ 32 + n.toNat)]
      kicks := x.kicks.filter (· != key) })
  else s

/-- Execute the command of the step: the checks in order of status, then its effect. `ok`: its operands are in range
and what it does not name is 0. A step without a command does nothing, and a command that core 1 was handed waits in its queue
while core 1 is down (DESIGN CHOICE, log entries 27 and 30). -/
def State.command (s0 : State) (ok : Cmd → Bool) (go : Cmd → State → CmdEnd) : Host.Outcome State Fault Refusal :=
  let c : Cmd := ⟨s0.ev.pkg, s0.ev.n, s0.ev.k, s0.ev.words⟩
  let live := opCore c.op != 1 || (s0.pkg c.p).coreLive 1
  let s := s0.journalCommand c
  if c.w.length ≠ 8 ∨ live = false then .next s0
  else if (c.headOk && ok c) = false then .next (s.endCmd c 2 0)
  else if s.ownsAsid c.p c.f c.asid = false then .next (s.endCmd c 3 0)
  else
    match s.signature c with
    | some n => .next (s.endCmd c n 0)
    | none =>
      match go c s with
      | .refuse n => .next (s.endCmd c n 0)
      | .done s r => .next (s.endCmd c 0 r)
      | .wait s => .next s

/-- Bytes of host memory. -/
def State.hostBytes (s : State) (bus n : Nat) : List Byte := Memory.readN s.mem (2 ^ 64 + bus) n

/-- The die of a package whose loaded entry of a context the endpoint uses: the lowest that has it. -/
def State.edgeDie (s : State) (p a : Nat) : Nat :=
  (((List.range 4).map (4 * p + ·)).find? (fun d => (s.ctx d a).valid)).getD (4 * p)

/-- A write to device memory that firmware makes for a command: it counts as one of the host (R196). -/
def State.firmwareWrite (s : State) (pa : Nat) (bs : List Byte) : State :=
  s.doJobs [.write .external (s.viewsOf (pa / 2 ^ 39) pa) (.dev pa) bs]

/-! ## active (R368) -/

/-- A walk that ends at a malformed entry, not at one that is not present (R341). -/
def walkMalformed (m : List Host.Cell) (va : Nat) (fuel lvl table : Nat) : Bool :=
  match fuel with
  | 0 => true
  | fuel + 1 =>
    let (lo, w) := levelBits lvl
    let idx := va / 2 ^ lo % 2 ^ w
    let e := Memory.dword m (table + 8 * idx)
    if pteValid e = false then false
    else if pteSize e = 7 then !ptePointerOk lvl e || walkMalformed m va fuel (lvl + 1) (ptePa e)
    else true

/-- The home of a data address, what is still to be mapped, or none. -/
inductive HomeOf where
  | tile (t : Nat)
  | unmapped
  | none

/-- R368 item 1, as a die has the context loaded. -/
def State.activeHome (s : State) (d a : Nat) (ea : W64) : HomeOf :=
  match Space.of ea with
  | .virt =>
    match s.walk d a ea.toNat with
    | some f =>
      match (leafLoc f.pte ea.toNat).home with
      | some t => .tile t
      | none => .none
    | none =>
      if (s.ctx d a).valid = false ∨ walkMalformed s.mem ea.toNat 5 0 (s.ctx d a).ptroot then .none else .unmapped
  | .tile t off => if off < spadSize ∧ s.inPartition d a t then .tile t else .none
  | .localOff _ => .none
  | .none => .none

/-- The handler strand (R368 item 3). -/
def Cmd.handler (c : Cmd) (x : Ctx) (uid : Nat) : Strand :=
  let st := Strand.fresh uid c.asid .handler (c.w.getD 1 0) (clampClass x (field (c.dw 7) 1 0))
  let g := (List.range 5).foldl (fun (st : Strand) i => st.wr (BitVec.ofNat 4 (1 + i)) (c.w.getD (2 + i) 0)) st
  (g.wr 6 (BitVec.ofNat 64 c.tag)).wr 7 (BitVec.ofNat 64 c.f)

/-- The message is sent to the home tile. -/
def State.sendActive (s : State) (c : Cmd) (d t : Nat) : State :=
  let x : ActiveMsg := ⟨s.fresh, c.p, t, c.handler (s.ctx d c.asid) s.fresh, c.f, c.q, c.tag⟩
  { s with fresh := s.fresh + 1, actives := s.actives ++ [x] }.post .activeMessageDelivery { n := x.n }

/-- R368: the handler starts at the home tile, where its completion is written; a page that is not present is first
asked of the memory manager (`flag`: it has been asked) (DESIGN CHOICE, log entry 45). -/
def execCmdActive (s : State) : Host.Outcome State Fault Refusal :=
  s.command (fun c => c.dw 1 % 4 == 0 && field (c.dw 7) 63 2 == 0) (fun c s =>
    let d := s.edgeDie c.p c.asid
    let va := c.dw 2
    match s.activeHome d c.asid (c.w.getD 2 0) with
    | .tile t => .wait (s.sendActive c d t)
    | .none => .refuse 6
    | .unmapped =>
      let q : MMReq := ⟨c.asid, BitVec.ofNat 64 va⟩
      if s.ev.flag then
        if (s.die d).mm.contains q then .wait (s.later 1 .cmdActive s.ev) else .refuse 6
      else .wait ((s.askManager d c.asid va).later 1 .cmdActive { s.ev with flag := true }))

/-! ## tensor, platetag, context (R366) -/

/-- The reserved fields of a tensor-table entry are 0 (R251). -/
def tensorReserved (bs : List Byte) : Bool :=
  field (dwordAt bs 0x20) 15 0 == 0 && field (dwordAt bs 0x28) 62 52 == 0 && field (dwordAt bs 0x28) 33 0 == 0 &&
    (bs.drop 0x30).all (· == 0)

/-- R366: an entry of the context's tensor table is written; a valid one carries the command's ASID
(DESIGN CHOICE, log entry 27). -/
def execCmdTensor (s : State) : Host.Outcome State Fault Refusal :=
  s.command (fun c => decide (c.dw 1 < 2 ^ 16) && c.zeroFrom 3) (fun c s =>
    let x := s.ctx (s.edgeDie c.p c.asid) c.asid
    if s.badRead (c.dw 2) 64 then .refuse 8
    else
      let bs := s.hostBytes (c.dw 2) 64
      let w := dwordAt bs 0x28
      if x.valid = false ∨ x.ttlen ≤ c.dw 1 ∨ tensorReserved bs = false ∨ (w.testBit 63 ∧ field w 51 40 ≠ c.asid) then
        .refuse 2
      else .done (s.firmwareWrite (x.ttbase + 64 * c.dw 1) bs) 0)

/-- R323: the tile's plate tag for the context; its die deals with it. -/
def execCmdPlatetag (s : State) : Host.Outcome State Fault Refusal :=
  s.command (fun c => decide (c.dw 1 < 2 ^ 19) && decide (c.dw 2 < 2 ^ 16) && c.zeroFrom 3) (fun c s =>
    .done ((s.modTile (c.dw 1) (fun w => { w with tags := w.tags.put 0 c.asid (c.dw 2) })).post .blockDeal
      { die := c.dw 1 / 256 }) 0)

/-- The reserved fields of a context entry are 0 (R302). -/
def ctxReserved (bs : List Byte) : Bool :=
  field (dwordAt bs 0x00) 59 32 == 0 && field (dwordAt bs 0x18) 63 17 == 0 && field (dwordAt bs 0x30) 63 41 == 0

/-- The entry and the row of one die are written and loaded (R301, R366); a die whose tables have no base yet is
passed over. -/
def State.writeCtx (s : State) (a d : Nat) (entry row : List Byte) : State :=
  match (s.die d).ctxtab, (s.die d).tiletab with
  | some cb, some tb =>
    ((((s.firmwareWrite (cb.toNat + 128 * a) entry).firmwareWrite (tb.toNat + 32 * a) row)).loadCtx d a).post .blockDeal
      { die := d }
  | _, _ => s

/-- R366: a context's entry and grants are written to every die of the package and loaded, and its function owns it. -/
def execCmdContext (s : State) : Host.Outcome State Fault Refusal :=
  s.command (fun c => decide (c.dw 3 < 256) && c.zeroFrom 4) (fun c s =>
    if s.badRead (c.dw 1) 128 || s.badRead (c.dw 2) 128 then .refuse 8
    else
      let entry := s.hostBytes (c.dw 1) 128
      let rows := s.hostBytes (c.dw 2) 128
      if ctxReserved entry = false then .refuse 2
      else
        let s := s.modPkg c.p (fun x => { x with owners := x.owners.put 0 c.asid (c.dw 3) })
        .done ((List.range 4).foldl (fun (s : State) i =>
          s.writeCtx c.asid (4 * c.p + i) entry ((rows.drop (32 * i)).take 32)) s) 0)

/-! ## Frames of memory (R345, R346) -/

/-- Bytes of device memory (R14). -/
abbrev devEnd : Nat := 2 ^ 50

/-- R345: the frames of a range are untagged again. -/
def execCmdRelease (s : State) : Host.Outcome State Fault Refusal :=
  s.command (fun c => c.dw 1 % 4096 == 0 && c.dw 2 % 4096 == 0 && decide (c.dw 1 + c.dw 2 ≤ devEnd) && c.zeroFrom 3)
    (fun c s =>
      let out (e : Nat × Frame) : Bool := decide (e.1 * 4096 < c.dw 1) || decide (c.dw 1 + c.dw 2 ≤ e.1 * 4096)
      .done { s with dies := s.dies.map (fun (e : Nat × Die) => (e.1, { e.2 with frames := e.2.frames.filter out })) } 0)

/-- Every frame of a range of device memory is sealed (R346). -/
def State.allSealed (s : State) (pa n : Nat) : Bool :=
  (List.range' (pa / 4096) ((pa + n + 4095) / 4096 - pa / 4096)).all (fun k =>
    match (s.die (k * 4096 / 2 ^ 39)).frames.find k with
    | some f => f.tag == 3
    | none => false)

/-- R346: lines of host memory are copied into sealed frames (DESIGN CHOICE, log entry 27). -/
def execCmdSealed (s : State) : Host.Outcome State Fault Refusal :=
  s.command (fun c => c.dw 3 % 64 == 0 && decide (c.dw 1 + c.dw 3 ≤ devEnd) && c.zeroFrom 4)
    (fun c s =>
      if s.allSealed (c.dw 1) (c.dw 3) = false then .refuse 2
      else if s.badRead (c.dw 2) (c.dw 3) then .refuse 8
      else
        .done ((List.range (c.dw 3 / 64)).foldl (fun (s : State) i =>
          s.firmwareWrite (c.dw 1 + 64 * i) (s.hostBytes (c.dw 2 + 64 * i) 64)) s) 0)

/-! ## yield (R329) -/

/-- R329: the yield request of the team on a tile is set at once. -/
def execCmdYield (s : State) : Host.Outcome State Fault Refusal :=
  s.command (fun c => decide (c.dw 1 < 2 ^ 19) && c.zeroFrom 2) (fun c s => .done (s.setYreq (c.dw 1)) 0)

end Sys2Proof.Machine
end

