-- ==== Sys2Proof/Machine/Marker.lean ====
section
/-! DEFINITION. Provenance egress (R316 to R318): frame submissions, marking, the manifest; and the secure requests
(R313). -/
namespace Sys2Proof.Machine

/-! ## Submissions (R317) -/

/-- Fields of a frame descriptor (R317). -/
structure FrameDesc where
  src : Nat
  len : Nat
  dst : Nat
  mdst : Nat
  d : Nat
  size : Nat
  asid : Nat
  mark : W64
  deriving DecidableEq, Repr

def parseFrame (bs : List Byte) : FrameDesc where
  src := dwordAt bs 0x00
  len := field (dwordAt bs 0x08) 25 0
  dst := dwordAt bs 0x10
  mdst := dwordAt bs 0x18
  d := field (dwordAt bs 0x20) 63 56
  size := field (dwordAt bs 0x20) 49 48
  asid := field (dwordAt bs 0x20) 11 0
  mark := BitVec.ofNat 64 (dwordAt bs 0x28)

/-- Bytes of a sample. -/
def FrameDesc.sample (x : FrameDesc) : Nat := x.size + 1

/-- A well-formed descriptor (R317). -/
def frameOk (bs : List Byte) : Bool :=
  let x := parseFrame bs
  field (dwordAt bs 0x08) 63 26 == 0 && field (dwordAt bs 0x20) 55 50 == 0 && field (dwordAt bs 0x20) 47 12 == 0 &&
    (bs.drop 0x30).all (· == 0) && decide (1 ≤ x.len) && x.len % x.sample == 0 && decide (x.size ≤ 1) &&
    decide (1 ≤ x.d) && x.mdst % 256 == 0

/-- R317: a frame is submitted; outside attested state its egress is refused (R314) (DESIGN CHOICE, log entry 28). -/
def execCmdFrame (s : State) : Host.Outcome State Fault Refusal :=
  s.command (fun c => c.zeroFrom 2) (fun c s =>
    if s.badRead (c.dw 1) 64 then .refuse 8
    else
      let bs := s.hostBytes (c.dw 1) 64
      if s.ownsAsid c.p c.f (parseFrame bs).asid = false then .refuse 3
      else if (s.pkg c.p).sec ≠ 2 ∨ (s.pkg c.p).key = none then .refuse 5
      else
        .done ((s.modPkg c.p (fun x => { x with marker := x.marker ++ [⟨c.f, c.q, c.tag, bs, true⟩] })).post .frameMark
          { pkg := c.p }) 0)

/-- The runs of a source, 4 KiB at a time; none where a page is not readable device memory. -/
def State.frameRuns (s : State) (d a : Nat) (fuel va n : Nat) : Option (List (Loc × Nat)) :=
  match fuel with
  | 0 => some []
  | fuel + 1 =>
    if n = 0 then some []
    else
      let k := Nat.min n (4096 - va % 4096)
      match s.walk d a va with
      | none => none
      | some f =>
        match leafLoc f.pte va with
        | .dev pa => if pteR f.pte then (State.frameRuns s d a fuel (va + k) (n - k)).map ((.dev pa, k) :: ·) else none
        | .spad _ _ => none
        | .host _ => none

/-! ## Marking (R317) -/

/-- Marked samples; `st` is the selection stream, two bytes a sample. -/
def markFrom (wide : Bool) (d : Nat) (mark : W64) (j : Nat) : List Byte → List Byte → List Byte
  | a :: b :: st, bs =>
    let hit := decide (a.toNat < d)
    let low (x : Byte) : Byte :=
      if hit then (x &&& 0xFE) ||| (BitVec.ofBool (mark.getLsbD (j % 64) ^^ b.getLsbD 0)).setWidth 8 else x
    let j' := if hit then j + 1 else j
    match wide, bs with
    | false, x :: r => low x :: markFrom wide d mark j' st r
    | true, x :: y :: r => low x :: y :: markFrom wide d mark j' st r
    | _, r => r
  | _, bs => bs

/-- "SX9-MARK" -/
def markText : List Byte := [0x53, 0x58, 0x39, 0x2D, 0x4D, 0x41, 0x52, 0x4B]

/-- A marked frame (R317). -/
def marked (km : List Byte) (fc : W64) (x : FrameDesc) (bs : List Byte) : List Byte :=
  markFrom (x.size == 1) x.d x.mark 0 (shake256 (km ++ markText ++ leBytes 8 fc.toNat) (2 * (x.len / x.sample))) bs

/-- The manifest record (R318). -/
def manifest (key : List Byte) (p : Nat) (fc time : W64) (x : FrameDesc) (frame : List Byte) : List Byte :=
  let body := leBytes 8 fc.toNat ++ leBytes 8 x.len ++ leBytes 8 (x.size * 2 ^ 8 + x.d) ++ leBytes 8 x.mark.toNat ++
    leBytes 8 time.toNat ++ leBytes 8 (p * 2 ^ 12 + x.asid) ++ shake256 frame 64 ++ List.replicate 16 0
  body ++ ed448Sign key body ++ List.replicate 14 0

/-- A submission fails: an error event, and no counter value (R317). -/
def State.frameFails (s : State) (p : Nat) (x : Submission) (src cause : Nat) : State :=
  s.hostEvent p x.fn 2 x.queue none src cause

/-- One submission, with the key as it is now (R317, R318) (DESIGN CHOICE, log entry 28). -/
def State.markOne (s : State) (p : Nat) (sub : Submission) : State :=
  let x := parseFrame sub.desc
  match (s.pkg p).key with
  | none => s.frameFails p sub x.src 0x08
  | some (km, priv) =>
    if sub.live = false then s.frameFails p sub x.src 0x08
    else if frameOk sub.desc = false then s.hostAbout p sub.fn 2 sub.queue x.src
    else
      match s.frameRuns (s.edgeDie p x.asid) x.asid (x.len / 4096 + 2) x.src x.len with
      | none => s.frameFails p sub x.src 0x09
      | some l =>
        if l.all (fun e => s.frameClass [e]) = false then s.hostAbout p sub.fn 2 sub.queue x.src
        else if s.segsPoisoned l then s.frameFails p sub x.src 0x09
        else
          let fc := (s.pkg p).frames
          let frame := marked km fc x (s.readSegs x.asid l)
          let s := s.putBytes (.host x.dst) frame
          (s.putBytes (.host x.mdst) (manifest priv p fc s.podTime x frame)).modPkg p
            (fun y => { y with frames := y.frames + 1 })

/-- R317: the marker takes the next submission. -/
def execFrameMark (s : State) : Host.Outcome State Fault Refusal :=
  let p := s.ev.pkg
  match (s.pkg p).marker with
  | [] => .next s
  | x :: rest => .next ((s.modPkg p (fun y => { y with marker := rest })).markOne p x)

/-! ## Secure requests (R313) -/

/-- The key is gone, marking of what has been submitted ends, and an attested package is provisioned. -/
def Package.zeroKey (x : Package) : Package :=
  { x with
    key := none
    sec := if x.sec = 2 then 1 else x.sec
    marker := x.marker.map (fun q => { q with live := false }) }

/-- R313, request 1: the debug level; raising it to full from attested zeroes the key first
(DESIGN CHOICE, log entry 29). -/
def execSecureSetDebugLevel (s : State) : Host.Outcome State Fault Refusal :=
  s.command (fun c => decide (c.dw 1 < 16) && decide (c.dw 2 ≤ 2) && c.zeroFrom 3) (fun c s =>
    .done (s.modPkg c.p (fun x =>
      { (if c.dw 2 = 2 then x.zeroKey else x) with debug := BitVec.ofNat 2 (c.dw 2) })) 0)

/-- R313, request 2: a key load, refused at full debug level; the frame counter starts at 0 (R317). The value is the
host address of the marking secret and the private key (PRESUMED, log entry 26) (DESIGN CHOICE, log entry 29). -/
def execSecureLoadKey (s : State) : Host.Outcome State Fault Refusal :=
  s.command (fun c => decide (c.dw 1 < 16) && c.zeroFrom 3) (fun c s =>
    if (s.pkg c.p).debug = 2 then .refuse 5
    else if s.badRead (c.dw 2) 89 then .refuse 8
    else
      let bs := s.hostBytes (c.dw 2) 89
      .done (s.modPkg c.p (fun x => { x with key := some (bs.take 32, bs.drop 32), frames := 0, sec := 2 })) 0)

/-- R313, request 3: the key is zeroed, which ends marking (R318). -/
def execSecureZeroKey (s : State) : Host.Outcome State Fault Refusal :=
  s.command (fun c => decide (c.dw 1 < 16) && c.zeroFrom 3) (fun c s => .done (s.modPkg c.p Package.zeroKey) 0)

end Sys2Proof.Machine
end

