-- ==== Sys2Proof/Machine/Firmware.lean ====
section
/-! DEFINITION. The firmware cores (R372 to R376): images, attestation, mailboxes, failure and take-over, bring-up. -/
namespace Sys2Proof.Machine

/-! ## Images (R375) -/

/-- What the signature of an image covers: SHAKE256 over the header with the signature zero, and the body. -/
def imageDigest (bs : List Byte) : List Byte :=
  let at_ := (Config.imageHeader (bs.take 256)).2.2.2
  shake256 (bs.take at_ ++ List.replicate 114 0 ++ bs.drop (at_ + 114)) 64

/-- An image verifies: the magic, the Darwald firmware key. -/
def imageSigned (bs : List Byte) : Bool :=
  let at_ := (Config.imageHeader (bs.take 256)).2.2.2
  leNat (bs.take 4) == 0x53583946 && ed448Verify (Config.fixedKey 1) (imageDigest bs) ((bs.drop at_).take 114)

/-- It is for the core, and its version is not below the fused minimum. -/
def imageFits (c : Nat) (bs : List Byte) : Bool :=
  let h := Config.imageHeader (bs.take 256)
  h.1 == c && decide (Config.minVersion c ≤ h.2.1)

/-- A core is loaded with an image. -/
def Core.load (x : Core) (bs : List Byte) : Core :=
  { x with image := bs, version := (Config.imageHeader (bs.take 256)).2.1 }

/-! ## attest (R372) -/

/-- sys.secstate of a package (R300). -/
def Package.secstate (x : Package) : W64 := BitVec.ofNat 64 ((x.debug).toNat * 16 + x.sec.toNat)

/-- R372: the report is written and signed; its size is the result. -/
def execCmdAttest (s : State) : Host.Outcome State Fault Refusal :=
  s.command (fun c => c.zeroFrom 3) (fun c s =>
    if s.badRead (c.dw 1) 64 then .refuse 8
    else
      let x := s.pkg c.p
      let images := (List.range 8).map (fun i => (x.core i).image)
      let r := Config.attestReport (s.hostBytes (c.dw 1) 64) x.nonce
        ((images.filter (fun bs => !bs.isEmpty)).map imageDigest) x.secstate (x.key.map (fun k => ed448Public k.2))
      .done (s.putBytes (.host (c.dw 2)) r) r.length)

/-! ## Mailboxes (R372) -/

/-- Mailbox `k` of a package: that of core `k`, or from 8 on that of a die's supervisor to core 3 (R372). -/
def State.mailbox (s : State) (p k : Nat) : List (List W64) :=
  if k < 8 then ((s.pkg p).core k).mail else (s.die (4 * p + (k - 8))).mail
def State.setMailbox (s : State) (p k : Nat) (l : List (List W64)) : State :=
  if k < 8 then s.modPkg p (fun x => x.modCore k (fun y => { y with mail := l }))
  else s.modDie (4 * p + (k - 8)) (fun x => { x with mail := l })

/-- The core that takes the entries of a mailbox. -/
def mailReader (k : Nat) : Nat := if k < 8 then k else 3

/-! ## Cores that come back (R373, R375) -/

/-- The pending-kick bitmap is rescanned: each queue whose bit is set goes on from its last journaled command, so that a
command that core 1 was handed and did not journal is taken again (R373). -/
def State.rescan (s : State) (p : Nat) : State :=
  let l := (s.pkg p).kicks
  l.foldl (fun (s : State) key => s.modFn p (key / 16) (fun n => n.modQueue (key % 16) (fun c =>
    if c.blocked then { c with head := c.head - 1, blocked := false } else c))) (s.modPkg p (fun x => { x with kicks := [] }))

/-- The mailboxes that a core takes entries from: its own, and for core 3 those of the die supervisors (R372). -/
def mailboxesOf (c : Nat) : List Nat := if c = 3 then [3, 8, 9, 10, 11] else [c]

/-- The queues of every function, the latch, and the mailboxes of a core that is live again are looked at. -/
def State.coreBack (s : State) (p c : Nat) : State :=
  let s := if c = 1 then s.rescan p else s
  let s := (s.pkg p).fns.foldl (fun (s : State) (e : Nat × Fn) => s.lookQueues p e.1) s
  let s := (mailboxesOf c).foldl (fun (s : State) k => (s.mailbox p k).foldl (fun (s : State) _ =>
    s.later 1 .mailboxPost { pkg := p, k := k, flag := true }) s) s
  s.post .latchReplay { pkg := p }

/-- The completions held while a core was down, in order (R337, R373). -/
def State.postHeld (s : State) (p : Nat) : State :=
  let l := (s.pkg p).heldDone
  l.foldl (fun (s : State) e => s.hostEntry p e.fn e.queue e.bytes) (s.modPkg p (fun x => { x with heldDone := [] }))

/-- The image of a resetcore command: from host memory, or the device's copy where the address is 0. -/
def State.coreImage (s : State) (p c bus : Nat) : Option (List Byte) :=
  if bus = 0 then some ((s.pkg p).core c).image
  else if s.badRead bus 256 then none
  else
    let n := 256 + (Config.imageHeader (s.hostBytes bus 256)).2.2.1
    if s.badRead bus n then none else some (s.hostBytes bus n)

/-- R375: a core is restored from a verified image; core 7 stands by again (R373) (DESIGN CHOICE, log entry 33). -/
def execCmdResetcore (s : State) : Host.Outcome State Fault Refusal :=
  s.command (fun c => decide (c.dw 1 < 8) && c.zeroFrom 3) (fun c s =>
    let k := c.dw 1
    match s.coreImage c.p k (c.dw 2) with
    | none => .refuse 8
    | some bs =>
      if imageSigned bs = false then .refuse 4
      else if imageFits k bs = false then .refuse 2
      else
        let s := s.modPkg c.p (fun x =>
          { x.modCore k (fun y => { y.load bs with running := true }) with
            role := if x.role = some k then none else x.role })
        .done (s.coreBack c.p k) 0)

/-! ## Posts (R372) -/

/-- What a core does with the oldest entry of mailbox `k`: core 3 reports an escalation to the host, and takes the second half of a
packet, which names a context, with the first (DESIGN CHOICE, log entry 32). -/
def State.takeMail (s : State) (p k : Nat) : State :=
  match s.mailbox p k with
  | [] => s
  | w :: rest =>
    if mailReader k = 3 ∧ field (w.getD 0 0).toNat 63 56 = 0x70 then
      (s.setMailbox p k (if w.getD 4 0 = 0 then rest else rest.drop 1)).hostEvent p 0 2 0 none (w.getD 2 0).toNat 0x70
    else s.setMailbox p k rest

/-- An entry of 64 bytes. -/
def mailEntry (w : List W64) : List W64 := (w ++ List.replicate 8 0).take 8

/-- R372: a post reaches mailbox `k`, or is held behind its 16 entries while that is full; with `flag` the core that reads it
takes its oldest entry; `toDie` names a die supervisor that the event is for (R203) (DESIGN CHOICE, log entry 32). -/
def execMailboxPost (s : State) : Host.Outcome State Fault Refusal :=
  let p := s.ev.pkg
  let k := s.ev.k
  match s.ev.toDie with
  | some d => .next (s.endHalts d)
  | none =>
    if s.ev.flag then .next (if (s.pkg p).coreLive (mailReader k) then s.takeMail p k else s)
    else
      .next ((s.setMailbox p k (s.mailbox p k ++ [mailEntry s.ev.words])).later 1 .mailboxPost
        { pkg := p, k := k, flag := true })

/-! ## Failure and take-over (R373, R374) -/

/-- R373: core `k` stops. The standby core takes over after a time; without one the failure is an error event. -/
def execCoreFailure (s : State) : Host.Outcome State Fault Refusal :=
  let p := s.ev.pkg
  let c := s.ev.k
  let x := s.pkg p
  if (x.core c).running = false then .next s
  else
    let s := s.modPkg p (fun x => x.modCore c (fun y => { y with running := false }))
    if c = 7 ∨ (x.core 7).running = false ∨ x.role.isSome ∨ x.takeover.isSome then .next (s.hostOpen p 0 2 0 none)
    else
      let now := s.podTime
      let s := s.modPkg p (fun x => { x with takeover := some (c, now) })
      let s := s.post .mailboxPost { pkg := p, k := 7, words := [BitVec.ofNat 64 c, now] }
      .next ({ s with free := s.free + 1 }.later (1 + Config.takeoverClk s.free) .takeoverLive { pkg := p })

/-- Contexts with a live edition whose partition takes in a package. -/
def State.liveCtxs (s : State) (p : Nat) : List Nat :=
  (s.roots.filter (fun (e : Nat × Root) => e.2.editions.any (fun x => x.state != .complete) &&
    (s.partPkgs e.1).contains p)).map (·.1)

/-- R373, R374: core 7 is live in the failed core's place: held completions, notices, the take-over event. -/
def execTakeoverLive (s : State) : Host.Outcome State Fault Refusal :=
  let p := s.ev.pkg
  let x := s.pkg p
  match x.takeover with
  | none => .next s
  | some (c, t) =>
    if (x.core 7).running = false then .next s
    else
      let n := x.heldDone.length
      let s := s.modPkg p (fun x => { x.modCore 7 (fun y => { y with
          image := (x.core c).image
          version := (x.core c).version }) with
        takeover := none
        role := if (x.core c).running then none else some c })
      let s := s.postHeld p
      let now := s.podTime.toNat
      let s := (s.liveCtxs p).foldl (fun (s : State) a =>
        s.notice (s.edgeDie p a) a (noticeBytes 6 (c + 7 * 2 ^ 16) t.toNat now n)) s
      .next ((s.hostEvent p 0 6 0 none c n).coreBack p c)

/-! ## Bring-up (R376) -/

/-- Power comes up: every part of a package is as after reset. -/
def State.powerUp (s : State) (p : Nat) : State :=
  let base := (Loc.spad (1024 * p) 0).key
  { s with
    mem := Memory.clear s.mem base (1024 * 2 ^ 21)
    tiles := s.tiles.filter (fun e => e.1 / 1024 != p)
    dies := s.dies.filter (fun e => e.1 / 4 != p) }

/-- Device memory of a package, 128 GiB of each die (R5), is zero, with check words (R376 step 4). -/
def State.zeroDevice (s : State) (p : Nat) : State :=
  { s with
    mem := (List.range 4).foldl (fun m i => Memory.clear m (p * 2 ^ 41 + i * 2 ^ 39) (2 ^ 37)) s.mem
    poison := s.poison.filter (fun x => x * 64 / 2 ^ 41 != p) }

/-- A verified image puts its core into place; any other leaves it in reset (R375). -/
def Package.loadImage (x : Package) (i : FwImage) : Package :=
  if imageSigned i.bytes && imageFits i.core i.bytes && decide (i.core < 8) then
    x.modCore i.core (fun y => y.load i.bytes)
  else x

/-- The cores that have an image start. -/
def Package.startCores (x : Package) : Package :=
  (List.range 8).foldl (fun (x : Package) c =>
    x.modCore c (fun y => { y with running := !y.image.isEmpty })) x

/-- The ports train on both lanes (R377). -/
def Package.trainPorts (x : Package) (p : Nat) : Package :=
  { x with ports := (List.range 144).map (fun k =>
      (k, { Port.reset with lanes := 2, up := true, peer := Config.peerOf (144 * p + k) })) }

/-- One step of the sequence; none where it fails, since a core that it needs is in reset
(DESIGN CHOICE, log entry 33). Step 5 gives the package its number, its place in the pod (R15). -/
def State.bringUpStep (s : State) (p n : Nat) (images : List FwImage) : Option State :=
  match n with
  | 1 => some (s.powerUp p)
  | 2 => some s
  | 3 => some (s.modPkg p (fun x => images.foldl Package.loadImage x))
  | 4 =>
    let s := s.modPkg p Package.startCores
    if ((s.pkg p).core 2).running then some (s.zeroDevice p) else none
  | 5 =>
    if ((s.pkg p).core 6).running then
      some (s.modPkg p (fun x => { x.trainPorts p with number := BitVec.ofNat 9 p }))
    else none
  | 6 =>
    let x := s.pkg p
    if (x.core 1).running && (x.core 3).running && (x.core 5).running then
      some { s.modPkg p (fun x => { x with nonce := Config.nonce s.free }) with free := s.free + 1 }
    else none
  | _ => none

/-- R376: the next step of the bring-up of a package, with the images that the host stages; `flag`: the step fails.
The steps follow each other. -/
def execBringUp (s : State) : Host.Outcome State Fault Refusal :=
  let p := s.ev.pkg
  let x := s.pkg p
  if x.failed ∨ 6 ≤ x.step then .next s
  else
    let n := x.step + 1
    match (if s.ev.flag then none else s.bringUpStep p n s.ev.images) with
    | none => .next (s.modPkg p (fun x => { x with step := n, failed := true }))
    | some s =>
      let s := s.modPkg p (fun x => { x with step := n })
      .next (if n < 6 then s.later 1 .bringUp s.ev else s)

end Sys2Proof.Machine
end

