-- ==== Sys2Proof/Machine/Links.lean ====
section
/-! DEFINITION. Scale-up ports (R377), and repairs in service (R378, R360). -/
namespace Sys2Proof.Machine

/-! ## Ports (R377) -/

def Package.port (x : Package) (k : Nat) : Port := x.ports.get Port.reset k
def Package.modPort (x : Package) (k : Nat) (g : Port → Port) : Package :=
  { x with ports := x.ports.put Port.reset k (g (x.port k)) }

/-- A line whose check word does not match is poisoned, which core 3 reports once (R361). -/
def State.checkFlit (s : State) (p : Nat) (f : Flit) : State :=
  if f.poison ∨ crc32c f.payload = f.check then s
  else
    let s := (s.poisonLines f.pa 1).modDie (f.pa / 2 ^ 39) (fun x => { x with poisoned := x.poisoned + 1 })
    (s.notice (s.edgeDie p f.asid) f.asid (noticeBytes 13 0 f.pa 2 s.podTime.toNat)).hostEvent p 0 3 0 none 13 f.pa

/-- What port `k` of a package sends reaches the port at its other end: a flit, or the acknowledgement of those up to
number `n` (R377; DESIGN CHOICE, log entry 37). -/
def State.overLink (s : State) (p k : Nat) (f : Option Flit) (n : Nat) : State :=
  s.post .flitReceive { pkg := ((s.pkg p).port k).peer, k := Config.peerPort (144 * p + k), flag := f.isNone, flit := f, n := n }

/-- R377: a flit arrives at port `k`: accepted in order and acknowledged, acknowledged again where it has been accepted before, or
left to be resent. With `flag` it is the acknowledgement of the flits up to number `n`. -/
def execFlitReceive (s : State) : Host.Outcome State Fault Refusal :=
  let p := s.ev.pkg
  let k := s.ev.k
  let x := (s.pkg p).port k
  if x.up = false then .next s
  else if s.ev.flag then
    let n := s.ev.n
    .next (s.modPkg p (fun y => y.modPort k (fun z => { z with
      buffer := z.buffer.filter (fun f => decide (n < f.seq))
      replays := if z.buffer.any (fun f => decide (f.seq ≤ n)) then 0 else z.replays })))
  else
    match s.ev.flit with
    | none => .next s
    | some f =>
      if f.good = false ∨ x.expect < f.seq then .next s
      else if f.seq < x.expect then .next (s.overLink p k none f.seq)
      else
        let bad := !f.poison && crc32c f.payload != f.check
        let s := s.checkFlit p f
        .next ((s.modPkg p (fun y => y.modPort k (fun z => { z with
          expect := z.expect + 1
          received := z.received ++ [{ f with poison := f.poison || bad }] }))).overLink p k none f.seq)

/-- Contexts whose partition takes in a package: they use its links. -/
def State.ctxsOf (s : State) (p : Nat) : List Nat :=
  ((s.dies.filter (fun (e : Nat × Die) => e.1 / 4 == p)).flatMap (fun (e : Nat × Die) =>
    (e.2.ctxs.filter (fun x => x.2.valid)).map (·.1))).dedup

/-- First port and number of ports of a port's group: the fabric, the ring's successor, its predecessor (R377). -/
def portGroup (k : Nat) : Nat × Nat := if k < 128 then (0, 128) else if k < 136 then (128, 8) else (136, 8)

/-- The port that carries a port's traffic: itself, or, while it is down, the first of its group that is up
(R377; DESIGN CHOICE, log entry 37). -/
def Package.carrier (x : Package) (k : Nat) : Nat :=
  if (x.port k).up then k
  else ((List.range' (portGroup k).1 (portGroup k).2).find? (fun j => (x.port j).up)).getD k

/-- A port sends a flit, with its next sequence number, and keeps it until it is acknowledged. -/
def Port.send (x : Port) (f : Flit) : Port :=
  { x with buffer := x.buffer ++ [{ f with seq := x.next }], next := x.next + 1 }

/-- What a port that is down has not had acknowledged is sent by another of its group (R377). -/
def Package.moveTraffic (x : Package) (k : Nat) : Package :=
  let j := x.carrier k
  if j = k then x
  else ((x.port k).buffer.foldl (fun (y : Package) f => y.modPort j (fun z => z.send f)) x).modPort k
    (fun z => { z with buffer := [] })

/-- R377: the flits of port `k` that are not acknowledged are resent in order; the 16th replay in a row retrains the port
and posts a link-retrained notice. A flit in the step's operand is one sent for the first time, whose arrival is an event of its
own (DESIGN CHOICE, log entry 37). -/
def execFlitReplay (s : State) : Host.Outcome State Fault Refusal :=
  let p := s.ev.pkg
  let k := s.ev.k
  let x := (s.pkg p).port k
  match s.ev.flit with
  | some f => .next (s.modPkg p (fun y => y.modPort (y.carrier k) (fun z => z.send f)))
  | none =>
    if x.up = false ∨ x.buffer = [] then .next s
    else
      let again := x.replays + 1
      let s := s.modPkg p (fun y => y.modPort k (fun z => { z with
        replays := if 16 ≤ again then 0 else again
        total := z.total + 1 }))
      let s := x.buffer.foldl (fun (s : State) f => s.overLink p k (some f) 0) s
      if again < 16 then .next s
      else
        .next ((s.ctxsOf p).foldl (fun (s : State) a => s.notice (s.edgeDie p a) a
          (noticeBytes 4 (k + x.lanes * 2 ^ 16) s.podTime.toNat (x.total + 1) x.peer)) s)

/-- A repair is proposed to the host: an event of kind 5 with its action and target (R370, R378). -/
def State.proposeRepair (s : State) (p action target : Nat) : State := s.hostEvent p 0 5 0 none action target

/-- R377: a lane fails training: the port is down, its traffic moves, and lane sparing is proposed (R378). With `flag` the device
proposes the repair of action `n` and target `value` for a reason that the spec does not name (DESIGN CHOICE, log entry 34). -/
def execLaneTrainFail (s : State) : Host.Outcome State Fault Refusal :=
  let p := s.ev.pkg
  let k := s.ev.k
  if s.ev.flag then .next (s.proposeRepair p s.ev.n s.ev.value.toNat)
  else if ((s.pkg p).port k).up = false then .next s
  else
    .next ((s.modPkg p (fun y => (y.modPort k (fun z => { z with up := false })).moveTraffic k)).proposeRepair p 4 k)

/-! ## Repairs (R378) -/

/-- No team of any context is resident on a tile, on its way to it or swapped out from it, and no grant bit names it. -/
def State.ungranted (s : State) (t : Nat) : Bool :=
  let w := s.tile t
  w.team.isNone && w.dispatch.isNone && w.swapped.isEmpty &&
    (s.die (t / 256)).grants.all (fun e => !e.2.getLsbD (t % 256))

/-- What an exchange of the tile's hardware keeps: its slots, its tags and its generations (DEDUCED, log entry 34). -/
def Tile.replaced (w : Tile) : Tile :=
  { w with chases := [], expects := [], active := none, scrub := 0, spares := [], l1 := [], lastCtx := none }

/-- R378, action 1: the row moves to the spare physical row of its die; its scratchpads start zeroed. -/
def execRepairTileRow (s : State) : Host.Outcome State Fault Refusal :=
  s.command (fun c => c.dw 1 == 1 && decide (c.dw 2 < 4) && decide (c.dw 3 < 16) && c.zeroFrom 4) (fun c s =>
    let d := 4 * c.p + c.dw 2
    let row := (List.range 16).map (fun i => 256 * d + 16 * c.dw 3 + i)
    if row.all s.ungranted = false then .refuse 5
    else if (s.pkg c.p).rowSpared.contains (c.dw 2) then .refuse 7
    else
      let s := s.modPkg c.p (fun x => { x with rowSpared := x.rowSpared ++ [c.dw 2] })
      .done (row.foldl (fun (s : State) t => (s.zeroSpad t 0 spadSize).modTile t Tile.replaced) s) 0)

/-- R360, R378, action 2: a spare macro replaces macro 0x18 [5:0] of chase 0x18 [12:8] of tile 0x10, which is unset
afterwards, and expected unset (R254) (DEDUCED, log entry 34). -/
def execRepairMacro (s : State) : Host.Outcome State Fault Refusal :=
  s.command (fun c => c.dw 1 == 2 && decide (c.dw 2 < 2 ^ 19) && decide (c.dw 3 < 2 ^ 13) && field (c.dw 3) 7 6 == 0 &&
      c.zeroFrom 4) (fun c s =>
    let t := c.dw 2
    let k := field (c.dw 3) 12 8
    let w := s.tile t
    if (w.chases.get Chase.reset k).state = .set then .refuse 5
    else if 32 ≤ w.spares.length then .refuse 7
    else
      .done (s.modTile t (fun w => { w with
        chases := w.chases.del k
        expects := w.expects.del k
        spares := w.spares ++ [(k, field (c.dw 3) 5 0)] })) 0)

/-- R378, action 3: a channel leaves the address map once no mapped frame lies on it. -/
def execRepairLp6Channel (s : State) : Host.Outcome State Fault Refusal :=
  s.command (fun c => c.dw 1 == 3 && decide (c.dw 2 < 4) && c.zeroFrom 4) (fun c s =>
    let d := 4 * c.p + c.dw 2
    if (s.die d).frames.any (fun e => Config.channelOf e.1 == c.dw 3) then .refuse 5
    else .done (s.modPkg c.p (fun x => { x with channels := x.channels ++ [c.dw 2 * 2 ^ 32 + c.dw 3] })) 0)

/-- R378, action 4: a down port runs on one lane. -/
def execRepairLane (s : State) : Host.Outcome State Fault Refusal :=
  s.command (fun c => c.dw 1 == 4 && decide (c.dw 2 < 144) && c.zeroFrom 3) (fun c s =>
    if ((s.pkg c.p).port (c.dw 2)).up then .refuse 5
    else
      .done (s.modPkg c.p (fun y => y.modPort (c.dw 2) (fun z => { z with
        lanes := 1
        up := true
        replays := 0 }))) 0)

/-- R378, action 5: the ring skips a package that holds no grant; contexts rooted there lose their root (R320). -/
def execRepairPackageBypass (s : State) : Host.Outcome State Fault Refusal :=
  s.command (fun c => c.dw 1 == 5 && decide (c.dw 2 < 512) && c.zeroFrom 3) (fun c s =>
    let q := c.dw 2
    if (List.range 1024).all (fun i => s.ungranted (1024 * q + i)) = false then .refuse 5
    else
      .done ((s.modPkg q (fun x => { x with bypassed := true })).post .packageReset { pkg := q, flag := true }) 0)

/-- R378, action 6: an untagged frame is never allocated again. -/
def execRepairFrameRetire (s : State) : Host.Outcome State Fault Refusal :=
  s.command (fun c => c.dw 1 == 6 && c.dw 2 % 4096 == 0 && decide (c.dw 2 < devEnd) && c.zeroFrom 3) (fun c s =>
    let k := c.dw 2 / 4096
    if ((s.die (c.dw 2 / 2 ^ 39)).frames.find k).isSome then .refuse 5
    else .done (s.modPkg (c.dw 2 / 2 ^ 41) (fun x => { x with retired := x.retired ++ [k] })) 0)

end Sys2Proof.Machine
end

