-- ==== Sys2Proof/Machine/Power.lean ====
section
/-! DEFINITION. Parts that lose their state: power states (R315, R379), the reset of a die (R356) and of a package
(R320), and what core 4 and the trip do (R380). -/
namespace Sys2Proof.Machine

/-! ## What is lost -/

/-- The strands on some tiles, in slots, waiting and on deques. -/
def State.strandsOn (s : State) (part : Nat → Bool) : List Strand :=
  (s.tiles.filter (fun (e : Nat × Tile) => part e.1)).flatMap (fun (e : Nat × Tile) =>
    e.2.strands.map (·.2) ++ e.2.waiting ++ e.2.deque)

/-- Strands that are lost with their tile: their parents count them as exited, their blocks may be complete. -/
def State.loseStrands (s : State) (l : List Strand) : State :=
  let s := s.dropStrands (fun st => l.any (fun x => x.uid == st.uid))
  l.foldl (fun (s : State) x =>
    let s := s.childExit x.parent
    match x.edition, x.block with
    | some i, some b =>
      match (s.edition x.asid i).bind (fun e => e.dealt.find? (fun y => y.idx == b)) with
      | some y => s.post .blockComplete { tile := y.tile, asid := x.asid, ident := i, n := b }
      | none => s
    | _, _ => s) s

/-- The blocks dealt to some tiles: context, edition, block. -/
def State.blocksOn (s : State) (part : Nat → Bool) : List (Nat × Nat × Dealt) :=
  s.roots.flatMap (fun (r : Nat × Root) => r.2.editions.flatMap (fun (e : Edition) =>
    (e.dealt.filter (fun x => part x.tile)).map (fun x => (r.1, e.ident, x))))

/-- A block whose tile is lost is killed: its strands are gone everywhere, and the root counts it (R320, R356). -/
def State.loseBlock (s : State) (x : Nat × Nat × Dealt) : State :=
  let a := x.1
  let i := x.2.1
  let b := x.2.2.idx
  let s := s.dropStrands (fun st => st.ofBlock a i b)
  let s := s.modEdition a i (fun e => { e with
    dealt := e.dealt.filter (fun y => y.idx != b)
    gangTiles := e.gangTiles.filter (fun y => y.idx != b) })
  s.post .completionReport { asid := a, ident := i, pkg := x.2.2.tile / 1024, n := b, flag := true }

/-- The stores that tiles have accepted and not registered. -/
def Tile.unregistered (w : Tile) : List (Nat × Option Nat × W64) :=
  (w.sb.filter (fun e => !e.registered)).map (fun e => (e.asid, e.edition, e.addr)) ++
    w.side.map (fun e => (e.asid, e.edition, e.addr))

def State.storesOn (s : State) (part : Nat → Bool) : List (Nat × Nat × Option Nat × W64) :=
  (s.tiles.filter (fun (e : Nat × Tile) => part e.1)).flatMap (fun (e : Nat × Tile) =>
    e.2.unregistered.map (fun x => (e.1, x)))

/-- They are dropped, each a lost store (R351, R354). -/
def State.loseStores (s : State) (l : List (Nat × Nat × Option Nat × W64)) : State :=
  l.foldl (fun (s : State) x => s.lostStore x.1 x.2.1 x.2.2.1 x.2.2.2 .reset) s

/-- What a tile still has when its power has been off: generations, tags, spares, the trace settings
(DESIGN CHOICE, log entry 35). -/
def Tile.dark (w : Tile) : Tile :=
  { Tile.reset with gens := w.gens, tags := w.tags, spares := w.spares, trace := w.trace, stealAt := w.stealAt }

/-- What a die still has: the tags of its frames and what core 3 has counted (DESIGN CHOICE, log entry 35). -/
def Die.dark (x : Die) : Die :=
  { Die.reset with frames := x.frames, corrected := x.corrected, poisoned := x.poisoned }

/-- A die and its tiles lose their state; device memory keeps its contents. -/
def State.darken (s : State) (d : Nat) : State :=
  let base := (Loc.spad (256 * d) 0).key
  let s := s.recall d (d * 2 ^ 39) (2 ^ 39)
  { s with
    mem := Memory.clear s.mem base (256 * 2 ^ 21)
    poison := s.poison.filter (fun x => decide (x * 64 < base) || decide (base + 256 * 2 ^ 21 ≤ x * 64))
    net := s.net.filter (fun p => p.ref.die != d)
    tiles := s.tiles.map (fun (e : Nat × Tile) => if e.1 / 256 = d then (e.1, e.2.dark) else e)
    dies := s.dies.put Die.reset d (s.die d).dark }

/-! ## Power states (R315, R379) -/

/-- The trace buffers of a die: zeroed while attested, else saved (R315). -/
def State.saveTraces (s : State) (d : Nat) : State :=
  let p := d / 4
  let l := s.tiles.filter (fun (e : Nat × Tile) => e.1 / 256 == d && !e.2.trace.buf.isEmpty)
  let s := if (s.pkg p).sec = 2 then s
    else s.modPkg p (fun x => { x with
      traceSave := l.foldl (fun (a : Table (List (Nat × BitVec 128))) e => a.ins e.1 e.2.trace.buf) x.traceSave })
  { s with tiles := s.tiles.map (fun (e : Nat × Tile) =>
    if e.1 / 256 = d then (e.1, { e.2 with trace := { e.2.trace with buf := [] } }) else e) }

/-- The saved buffers of a die return. -/
def State.restoreTraces (s : State) (d : Nat) : State :=
  let p := d / 4
  let l := (s.pkg p).traceSave.filter (fun e => e.1 / 256 == d)
  let s := l.foldl (fun (s : State) (e : Nat × List (Nat × BitVec 128)) =>
    s.modTile e.1 (fun w => { w with trace := { w.trace with buf := e.2 } })) s
  s.modPkg p (fun x => { x with traceSave := x.traceSave.filter (fun e => e.1 / 256 != d) })

/-- The power state that sys.pstate of a die shows. -/
def State.setPstate (s : State) (d v : Nat) : State := s.modDie d (fun x => { x with pstate := BitVec.ofNat 3 v })

/-- A die is switched off: strands left on its tiles are lost, then its state. -/
def State.switchOff (s : State) (d v : Nat) : State :=
  let s := (s.saveTraces d).ackSerials (fun t => t / 256 == d)
  ((s.loseStrands (s.strandsOn (fun t => t / 256 == d))).darken d).setPstate d v

/-- Dies named by a mask. -/
def maskDies (p m : Nat) : List Nat := ((List.range 4).filter (fun i => m.testBit i)).map (4 * p + ·)

/-- A command's tile mask. -/
def Cmd.tileMask (c : Cmd) : List Nat := (List.range 256).filter (fun i => (c.dw (3 + i / 64)).testBit (i % 64))

/-- No grant on a die (R379). -/
def State.dieUngranted (s : State) (d : Nat) : Bool := (List.range 256).all (fun i => s.ungranted (256 * d + i))

/-- R379: the named dies return to run state, 64 clk a gated tile or 400 µs. -/
def execPowerP0 (s : State) : Host.Outcome State Fault Refusal :=
  s.command (fun c => c.dw 1 == 0 && decide (c.dw 2 < 16) && c.zeroFrom 3) (fun c s =>
    .done ((maskDies c.p (c.dw 2)).foldl (fun (s : State) d =>
      match (s.die d).pstate.toNat with
      | 2 => s.later (64 * (s.tiles.filter (fun (e : Nat × Tile) => e.1 / 256 == d && e.2.gated)).length) .powerExitComplete
          { pkg := c.p, die := d, k := 2 }
      | 3 => s.later (2 * clkPerMs / 5) .powerExitComplete { pkg := c.p, die := d, k := 3 }
      | _ => s) s) 0)

/-- R379: the named tiles of one die are gated; their scratchpad stays in retention (R315). -/
def execPowerP2 (s : State) : Host.Outcome State Fault Refusal :=
  s.command (fun c => c.dw 1 == 2 && decide (c.dw 2 < 16) && (maskDies c.p (c.dw 2)).length == 1) (fun c s =>
    let d := (maskDies c.p (c.dw 2)).headD 0
    let l := c.tileMask.map (256 * d + ·)
    if l.all s.ungranted = false ∨ 3 ≤ (s.die d).pstate.toNat then .refuse 5
    else
      .done ((l.foldl (fun (s : State) t => s.modTile t (fun w =>
        { w with gated := true, chases := [], expects := [], active := none, l1 := [], tlb := [] })) s).setPstate d 2) 0)

/-- R379: the named dies are switched off; LP6 stays in self-refresh. -/
def execPowerP3 (s : State) : Host.Outcome State Fault Refusal :=
  s.command (fun c => c.dw 1 == 3 && decide (c.dw 2 < 16) && c.zeroFrom 3) (fun c s =>
    let l := maskDies c.p (c.dw 2)
    if l.all s.dieUngranted = false then .refuse 5
    else .done (l.foldl (fun (s : State) d => s.switchOff d 3) s) 0)

/-- An enabled queue holds a command that is not taken. -/
def Package.waitingCommands (x : Package) : Bool :=
  x.fns.any (fun e => e.2.queues.any (fun y => y.2.en && y.2.head != y.2.tail))

/-- R379: the package sleeps but for the latch, which wakes it again at once if a replay has left it writes (R369); an
attested package loses its key and is provisioned (R315) (DESIGN CHOICE, log entries 31 and 35). -/
def execPowerP4 (s : State) : Host.Outcome State Fault Refusal :=
  s.command (fun c => c.dw 1 == 4 && decide (c.dw 2 < 16) && c.zeroFrom 3) (fun c s =>
    let l := maskDies c.p 15
    if l.all s.dieUngranted = false ∨ (s.pkg c.p).waitingCommands then .refuse 5
    else
      let s := l.foldl (fun (s : State) d => s.switchOff d 4) s
      let s := s.modPkg c.p (fun x => { (if x.sec = 2 then x.zeroKey else x) with pstate := 4, waking := false })
      .done (if (s.pkg c.p).latchEmpty then s else s.startWake c.p) 0)

/-- R379: the exit from the state `k` ends: the tiles or the die run, or the package wakes and its latch is replayed
(R369). -/
def execPowerExitComplete (s : State) : Host.Outcome State Fault Refusal :=
  let p := s.ev.pkg
  let d := s.ev.die
  match s.ev.k with
  | 2 =>
    if (s.die d).pstate ≠ 2 then .next s
    else
      let here := (s.tiles.map (·.1)).filter (fun t => t / 256 == d)
      let s := here.foldl (fun (s : State) t => (s.modTile t (fun w => { w with gated := false })).offer t) s
      .next ((s.setPstate d 0).post .blockDeal { die := d })
  | 3 => if (s.die d).pstate ≠ 3 then .next s else .next ((s.setPstate d 0).restoreTraces d)
  | 4 =>
    if (s.pkg p).pstate ≠ 4 then .next s
    else
      let s := (maskDies p 15).foldl (fun (s : State) d => (s.setPstate d 0).restoreTraces d) s
      .next ((s.modPkg p (fun x => { x with pstate := 0 })).post .latchReplay { pkg := p })
  | _ => .next s

/-! ## Reset of a die (R356) -/

/-- One class 7 fault in an edition's report (R192, R320). -/
def State.countLoss (s : State) (a i p : Nat) : State := s.modReport a i p (fun x => x.fault 7 none none)

/-- Undealt blocks of a die return to its package. -/
def State.returnDie (s : State) (d : Nat) : State :=
  { s with roots := s.roots.map (fun (r : Nat × Root) => (r.1, { r.2 with editions := r.2.editions.map (fun (e : Edition) =>
    { e with
      atPkg := e.atPkg.put [] (d / 4) ((e.atDie.get [] d).foldl rangesPut (e.atPkg.get [] (d / 4)))
      atDie := e.atDie.del d }) })) }

/-- R356: a die resets: its blocks are killed, its stores dropped, its contexts told. With `flag` the reset ends
(DEDUCED, log entry 36). -/
def execDieReset (s : State) : Host.Outcome State Fault Refusal :=
  let d := s.ev.die
  let p := d / 4
  if s.ev.flag then
    .next (s.modDie d (fun x => { x with resetting := false }))
  else if (s.die d).resetting then .next s
  else
    let part (t : Nat) : Bool := t / 256 == d
    let blocks := s.blocksOn part
    let stores := s.storesOn part
    let ctxs := ((s.die d).ctxs.filter (fun x => x.2.valid)).map (·.1)
    let s := (blocks.map (fun x => (x.1, x.2.1))).dedup.foldl (fun (s : State) x => s.countLoss x.1 x.2 p) s
    let s := blocks.foldl State.loseBlock s
    let s := (s.loseStores stores).ackSerials part
    let s := ctxs.foldl (fun (s : State) a =>
      s.notice d a (noticeBytes 5 d s.podTime.toNat blocks.length stores.length)) s
    let s := s.loseStrands (s.strandsOn part)
    let s := (s.darken d).returnDie d
    let s := s.modDie d (fun x => { x with resetting := true })
    let s := { s with free := s.free + 1 }.later (1 + Config.resetClk s.free) .dieReset { die := d, flag := true }
    .next (s.hostEvent p 0 3 0 none 5 d)

/-! ## Loss of a package (R320) -/

/-- Undealt blocks of a package and its dies return to the root. -/
def Edition.returnPkg (e : Edition) (p : Nat) : Edition :=
  let l := e.atPkg.get [] p ++ (List.range 4).flatMap (fun i => e.atDie.get [] (4 * p + i))
  { e with
    atRoot := l.foldl rangesPut e.atRoot
    atPkg := e.atPkg.del p
    atDie := e.atDie.filter (fun x => x.1 / 4 != p) }

/-- One live edition when a package is lost: its blocks there are killed, with one class 7 fault; without its root it
is cancelled, else what was not dealt there returns. The notice it posts (R356 kind 11). -/
def State.loseAt (s : State) (p a : Nat) (e : Edition) : State × List (Nat × List Byte) :=
  let blocks := (e.dealt.filter (fun x => x.tile / 1024 == p)).map (fun x => (a, e.ident, x))
  let isRoot := (s.root a).pkg == p
  if e.state = .complete ∨ (isRoot = false ∧ blocks.isEmpty ∧ e.undealtAt p = 0) then (s, [])
  else
    let n := blocks.length
    let note := noticeBytes 11 (p + (if isRoot then 2 ^ 16 else 0)) s.podTime.toNat n e.ident
    let s := if isRoot ∨ n ≠ 0 then s.countLoss a e.ident p else s
    let s := blocks.foldl State.loseBlock s
    let s := if isRoot then s.cancelEdition a e.ident true
      else (s.modEdition a e.ident (fun e => e.returnPkg p))
    (s, [(a, note)])

/-- R320: a package is reset, or, with `flag`, bypassed. Contexts rooted there hold their requests until a new root is
loaded; the others deal again (DEDUCED, log entry 36). -/
def execPackageReset (s : State) : Host.Outcome State Fault Refusal :=
  let p := s.ev.pkg
  let x : State × List (Nat × List Byte) := s.roots.foldl (fun (y : State × List (Nat × List Byte)) (r : Nat × Root) =>
    let z : State × List (Nat × List Byte) := r.2.editions.foldl (fun (z : State × List (Nat × List Byte)) e =>
      let w := z.1.loseAt p r.1 e
      (w.1, z.2 ++ w.2)) y
    if r.2.pkg = p ∧ r.2.seq ≠ 0 then (z.1.modRoot r.1 (fun q => { q with held := true }), z.2) else z) (s, [])
  let s := x.1
  let s := if s.ev.flag then s
    else
      let part (t : Nat) : Bool := t / 1024 == p
      let s := (s.loseStores (s.storesOn part)).ackSerials part
      let s := s.loseStrands (s.strandsOn part)
      let s := (maskDies p 15).foldl (fun (s : State) d =>
        (s.darken d).modDie d (fun y => { y with resetting := true })) s
      s.modPkg p (fun y => { Package.reset with
        rowSpared := y.rowSpared, channels := y.channels, retired := y.retired, bypassed := y.bypassed })
  let s := x.2.foldl (fun (s : State) y => s.notice (s.rootDie y.1) y.1 y.2) s
  .next (s.dies.foldl (fun (s : State) (e : Nat × Die) => s.post .blockDeal { die := e.1 }) s)

/-! ## Power, current and heat (R380) -/

/-- R380: every 1 ms core 4 reports a draw above 95 % of a limit, and a junction above 95 °C. With `flag` the sensors
read `k` W, `n` A, `slot` °C, and a reading at 105 % of the current limit, or of 110 °C, trips the die it is of (DESIGN CHOICE, log
entry 37). -/
def execPowerReport (s : State) : Host.Outcome State Fault Refusal :=
  let p := s.ev.pkg
  if s.ev.flag then
    let e := s.ev
    let s := s.modPkg p (fun x => { x with watts := e.k, amps := e.n, celsius := e.slot })
    let s := if 105 * 5000 ≤ 100 * e.n then s.post .currentTrip { die := e.die } else s
    .next (if 110 ≤ e.slot then s.post .thermalTrip { die := e.die } else s)
  else
    let x := s.pkg p
    if x.coreLive 4 = false then .next s
    else
      let s := if 95 * 2400 < 100 * x.watts ∨ 95 * 5000 < 100 * x.amps then s.hostOpen p 0 3 0 none else s
      .next (if 95 < x.celsius then s.hostOpen p 0 3 0 none else s)

/-- R380: at 105 % of the current limit the trip removes power from the die, which counts as a die reset
(DESIGN CHOICE, log entry 37). -/
def execCurrentTrip (s : State) : Host.Outcome State Fault Refusal :=
  let d := s.ev.die
  if 105 * 5000 ≤ 100 * (s.pkg (d / 4)).amps then .next (s.post .dieReset { die := d }) else .next s

/-- R380: the trip acts at a junction of 110 °C (DESIGN CHOICE, log entry 37). -/
def execThermalTrip (s : State) : Host.Outcome State Fault Refusal :=
  let d := s.ev.die
  if 110 ≤ (s.pkg (d / 4)).celsius then .next (s.post .dieReset { die := d }) else .next s

end Sys2Proof.Machine
end

