-- ==== Sys2Proof/Machine/Clock.lean ====
section
/-! DEFINITION. The passing of one clk (R4): timers that come due, the counters of resident teams (R329, R330), and
the conditions that time decides: yields and pre-emption (R329, R330), resumptions (R331), the all-asleep fault (R74),
budget windows (R198), trace triggers by time (R312), the scrub (R359), the power report (R380). -/
namespace Sys2Proof.Machine

/-- Timers that are due become steps, in the order they were set; an impression that starts in this clk has started before
a trigger of the clk is registered (R381). -/
def State.runTimers (s : State) : State :=
  let due := s.timers.filter (fun x => decide (x.due ≤ s.clk))
  let start (x : Timer) : Bool := x.ev == .impressionStart
  { s with
    agenda := s.agenda ++ (due.filter start ++ due.filter (fun x => !start x)).map (fun x => .happen x.ev x.arg)
    timers := s.timers.filter (fun x => !decide (x.due ≤ s.clk)) }

/-! ## Counters -/

/-- Every strand of the resident team has been asleep throughout this clk, and a candidate has waited (R329). -/
def State.sleptWaiting (s : State) (t : Nat) : Bool :=
  let l := (s.tile t).anchored
  !l.isEmpty && l.all (fun e => e.2.lastIssue != s.clk && s.asleepAt (.tile t e.1) e.2) && !(s.waitingFor t).isEmpty

/-- Residence and the deadline counter advance while no strand is halted or parked (R329, R330). -/
def Team.pass (m : Team) (counts slept : Bool) : Team :=
  let m := if counts then { m with residence := m.residence + 1, count := m.count.map (· - 1) } else m
  { m with asleepFor := if slept then m.asleepFor + 1 else 0, raised := 0 }

/-- A tile at the end of a clk. -/
def State.passTile (s : State) (e : Nat × Tile) : Nat × Tile :=
  let w := e.2
  match w.team with
  | none => e
  | some m => (e.1, { w with team := some (m.pass (w.preemptible && decide (m.start ≤ s.clk)) (s.sleptWaiting e.1)) })

/-- The all-asleep condition has held for one more clk, or not (R74). -/
def State.passRoot (s : State) (e : Nat × Root) : Nat × Root :=
  (e.1, { e.2 with quiet := if s.quietCtx e.1 then e.2.quiet + 1 else 0 })

/-! ## What time decides -/

/-- The steps of a resident team that are due. -/
def State.teamDue (s : State) (t : Nat) (w : Tile) (m : Team) : List Turn :=
  let q := (s.ctx (t / 256) m.asid).q
  let x : EvArg := { tile := t }
  if w.preemptible = false then []
  else if m.yreq = false then
    (if q ≤ m.residence ∧ s.contested t then [.happen .quantumExpiry x] else []) ++
      (if s.contends t then [.happen .blockDeal { die := t / 256 }] else []) ++
      (if 4096 ≤ m.asleepFor then [.happen .asleepYieldTimeout x] else [])
  else if m.stopping then []
  else
    match m.count with
    | some 0 => [.happen .forcedPreemption x]
    | some _ => []
    | none => if m.yreqAt + q / 16 ≤ s.clk then [.happen .preemptGraceExpiry x] else []

/-- The steps of a tile that are due: its team's, a trigger by time, the scrub. -/
def State.tileDue (s : State) (e : Nat × Tile) : List Turn :=
  let w := e.2
  (match w.team with
    | some m => s.teamDue e.1 w m
    | none => []) ++
  (if w.trace.trigs 4 ∧ w.trace.a.toNat ≤ s.podTime.toNat ∧ (s.podTimeAt (s.clk - 1)).toNat < w.trace.a.toNat then
    [.happen .traceTrigger { tile := e.1, value := s.podTime }] else []) ++
  (if w.chases.any (fun c => c.2.state == .set) && w.forme.idleAt s.clk && w.forme.queue.isEmpty then
    [.happen .proofingScrub { tile := e.1 }] else [])

/-- Dies with a free tile whose swapped-out team may resume (R331). -/
def State.resumeDue (s : State) : List Turn :=
  ((s.tiles.filter (fun (e : Nat × Tile) => e.2.free && !s.off e.1 && e.2.swapped.any s.savedReady)).map
    (fun e => e.1 / 256)).dedup.map (fun d => .happen .blockDeal { die := d })

/-- Budget windows that end (R198). -/
def State.windowsDue (s : State) : List Turn :=
  s.dies.flatMap (fun (e : Nat × Die) =>
    (e.2.frisket.filter (fun x => x.2.budget != 0 && x.2.armed && decide (x.2.winClk + x.2.window ≤ s.clk))).map
      (fun x => .happen .budgetWindowRoll { die := e.1, n := x.1 }))

/-- Everything that is due in this clk. -/
def State.dueTurns (s : State) : List Turn :=
  s.tiles.flatMap s.tileDue ++ s.resumeDue ++
    (s.roots.filter (fun (e : Nat × Root) => e.2.quiet == 256)).map (fun e => .happen .allAsleepFault { asid := e.1 }) ++
    (if s.clk % clkPerMs = 0 then
      (s.pkgs.filter (fun (e : Nat × Package) => e.2.done 6)).map (fun e => .happen .powerReport { pkg := e.1 })
    else [])

/-- One clk passes: budget windows that end do so before anything else of the new clk (R198). -/
def State.tick (s : State) : State :=
  let s := { s with
    clk := s.clk + 1
    tiles := s.tiles.map s.passTile
    roots := s.roots.map s.passRoot }
  let s := { s with agenda := s.agenda ++ s.windowsDue }.runTimers
  let s := (s.tiles.map (·.1)).foldl State.yieldTry s
  { s with agenda := s.agenda ++ s.dueTurns }

end Sys2Proof.Machine
end

