-- ==== Sys2Proof/Machine/Atomic.lean ====
section
/-! DEFINITION. Meanings of the atomics and of RADD (R159 to R164). -/
namespace Sys2Proof

/-- Bytes of an integer atomic (R115). -/
def ASize.bytes : ASize → Nat
  | .w => 4
  | .d => 8

/-- Bytes of a floating atomic (R115). -/
def FSize.bytes : FSize → Nat
  | .bf => 2
  | .f => 4

end Sys2Proof
namespace Sys2Proof.Machine

/-- An integer atomic: address in ga, operand in gval; gd := old, a .w result sign-extended (R159). -/
def State.intAtomic (s : State) (op : AtomOp) (d addr val cmp : GReg) (o : Order) (size : ASize) :
    Host.Outcome State Fault Refusal :=
  s.withCur (fun st => s.doAtomic st op d (st.rd addr) size.bytes (size == .w) (st.rd val) (st.rd cmp) o)

/-- R159 -/
def execAadd (d addr val : GReg) (ord : Order) (size : ASize) (s : State) : Host.Outcome State Fault Refusal :=
  s.intAtomic .add d addr val val ord size

/-- R159 -/
def execAand (d addr val : GReg) (ord : Order) (size : ASize) (s : State) : Host.Outcome State Fault Refusal :=
  s.intAtomic .and d addr val val ord size

/-- R159 -/
def execAor (d addr val : GReg) (ord : Order) (size : ASize) (s : State) : Host.Outcome State Fault Refusal :=
  s.intAtomic .or d addr val val ord size

/-- R159 -/
def execAxor (d addr val : GReg) (ord : Order) (size : ASize) (s : State) : Host.Outcome State Fault Refusal :=
  s.intAtomic .xor d addr val val ord size

/-- R159 -/
def execAmin (d addr val : GReg) (ord : Order) (size : ASize) (s : State) : Host.Outcome State Fault Refusal :=
  s.intAtomic .min d addr val val ord size

/-- R159 -/
def execAmax (d addr val : GReg) (ord : Order) (size : ASize) (s : State) : Host.Outcome State Fault Refusal :=
  s.intAtomic .max d addr val val ord size

/-- R159 -/
def execAminu (d addr val : GReg) (ord : Order) (size : ASize) (s : State) : Host.Outcome State Fault Refusal :=
  s.intAtomic .minu d addr val val ord size

/-- R159 -/
def execAmaxu (d addr val : GReg) (ord : Order) (size : ASize) (s : State) : Host.Outcome State Fault Refusal :=
  s.intAtomic .maxu d addr val val ord size

/-- R159 -/
def execAswp (d addr val : GReg) (ord : Order) (size : ASize) (s : State) : Host.Outcome State Fault Refusal :=
  s.intAtomic .swp d addr val val ord size

/-- R159: v when old = gcmp at the access width, otherwise nothing is written -/
def execAcas (d addr val cmp : GReg) (ord : Order) (size : ASize) (s : State) : Host.Outcome State Fault Refusal :=
  s.intAtomic .cas d addr val cmp ord size

/-- R160: the old bits, zero-extended -/
def execAaddf (d addr val : GReg) (ord : Order) (size : FSize) (s : State) : Host.Outcome State Fault Refusal :=
  s.withCur (fun st => s.doAtomic st .addf d (st.rd addr) size.bytes false (st.rd val) 0 ord)

/-- R161: retires like a store, applied at its home when it is registered -/
def execRadd (addr val : GReg) (ord : Order) (size : ASize) (s : State) : Host.Outcome State Fault Refusal :=
  s.withCur (fun st =>
    s.doStore st (st.rd addr) (leBytes size.bytes (st.rd val).toNat) (.radd size) ord size.bytes 5)

end Sys2Proof.Machine
end

