-- ==== Sys2Proof/Machine/Barriers.lean ====
section
/-! DEFINITION. The ends of barriers: BART (R170) and BARW by release or by time-out (R171, R172). -/
namespace Sys2Proof.Machine

/-- R170: every strand that waits acquires and goes on; the barrier is counted; inherited classes return in the clk after
(R70). -/
def execBartRelease (s : State) : Host.Outcome State Fault Refusal :=
  let t := s.ev.tile
  if (s.tile t).bartFull = false then .next s
  else
    let w := s.tile t
    let l := w.anchored.filter (fun e => e.2.hold == some .bart)
    let lent := w.anchored.map (fun e => (e.1, w.inherited s.clk e.1 e.2)) |>.filter (fun e => e.2 != 0)
    let now := s.clk
    let s := s.modTeam t (fun m => { m with bart := [], barts := m.barts + 1, lent := lent, lentAt := now })
    .next (l.foldl (fun (s : State) e => s.retireAcq (.tile t e.1) e.2) s)

/-- The status of a BARW (R172). -/
def barwStatus (tmo : Bool) (members raised : Nat) : W64 :=
  BitVec.ofNat 64 ((if tmo then 2 ^ 63 else 0) + members % 2 ^ 16 * 2 ^ 32 + raised % 2 ^ 16 * 2 ^ 16)

/-- The destination of a BARW, for a strand that waits in one of the scope. -/
def Strand.barwDest (st : Strand) (sc : BarScope) : Option GReg :=
  match st.hold with
  | some (.barw d c _) => if c = sc then some d else none
  | _ => none

/-- R172: the instance `k` of a scope releases: every arrived strand of the edition acquires, with its status. -/
def execBarwRelease (s : State) : Host.Outcome State Fault Refusal :=
  let d := s.ev.die
  let sc := s.ev.scope
  let line := s.ev.k
  match (s.die d).claims.find? (fun c => c.scope == sc && c.line == line) with
  | none => .next s
  | some c =>
    if c.release.map (· + 1) ≠ some s.clk then .next s
    else if (s.members d sc line c.asid c.ident).all (fun t => (s.tapClk sc c.asid c.ident t).isSome) = false then
      .next (s.barwCheck d sc line)
    else
      let n := (s.members d sc line c.asid c.ident).length
      let l := (s.barwWaiters d sc line c.asid c.ident).filter (fun e => s.barwArrived e.1 e.2.1 e.2.2 sc)
      let s := l.foldl (fun (s : State) e => match e.2.2.barwDest sc with
        | some g => (s.modTeam e.1 (fun m => { m with tapAt := none })).retireAcq (.tile e.1 e.2.1)
            (e.2.2.wr g (barwStatus false n n))
        | none => s) s
      let s := s.modDie d (fun x => { x with claims := x.claims.filter (fun y => !(y.scope == sc && y.line == line)) })
      .next (s.barwCheck d sc line)

/-- The scope of a strand's BARW. -/
def Strand.barwScope (st : Strand) : Option BarScope :=
  match st.hold with
  | some (.barw _ c _) => some c
  | _ => none

/-- The instance releases a tile's edition in this clk. -/
def State.barwReleasing (s : State) (t : Nat) (sc : BarScope) (line : Nat) : Bool :=
  (s.die (t / 256)).claims.any (fun c => c.scope == sc && c.line == line && c.holds s t && c.release.any (fun n => decide (n ≤ s.clk)))

/-- R172: at the limit a strand withdraws its arrival and writes its status, without an ordering edge; strands of the
instance whose limits end in the same clk see the same taps (R291); in an instance that another edition holds, none of
them has arrived (R171). A release that has come by this clk wins. -/
def execBarwTimeout (s : State) : Host.Outcome State Fault Refusal :=
  let t := s.ev.tile
  let d := t / 256
  match s.strand (.tile t s.ev.slot), s.team t with
  | some st, some m =>
    match st.barwScope with
    | none => .next s
    | some sc =>
      let line := lineOf sc t
      if st.uid = s.ev.n ∧ st.barwExpires sc s.clk ∧ s.barwReleasing t sc line = false then
        let members := s.members d sc line m.asid m.ident
        let mine := (s.die d).claims.any (fun c => c.scope == sc && c.line == line && c.holds s t)
        let raised := if mine then (members.filter (s.tapped sc m.asid m.ident)).length else 0
        let l := (s.barwWaiters d sc line m.asid m.ident).filter (fun e => e.2.2.barwExpires sc s.clk)
        let s := l.foldl (fun (s : State) e => match e.2.2.barwDest sc with
          | some g => (s.modTeam e.1 (fun m => { m with tapAt := none })).complete (.tile e.1 e.2.1)
              ((e.2.2.wr g (barwStatus true members.length raised)).notBefore (s.clk + 1))
          | none => s) s
        .next (s.barwCheck d sc line)
      else .next s
  | _, _ => .next s

end Sys2Proof.Machine
end

