-- ==== Sys2Proof/Machine/Branch.lean ====
section
/-! DEFINITION. Meanings of the branches and jumps (R148 to R150). -/
namespace Sys2Proof.Machine

/-- The target of a branch or jump: its own address plus 4 × the immediate (R106). -/
def Strand.target {n : Nat} (st : Strand) (off : BitVec n) : W64 := st.fetch.own + (off.signExtend 64) <<< 2

/-- A taken branch or jump, traced (R311); the strand's next issue is 2 clk after this one (R166). -/
def State.taken (s : State) (st : Strand) (pc : W64) : State :=
  (s.trace s.cur 1 (pc.toNat % 2 ^ 56)).jump (st.notBefore (st.lastIssue + st.fetch.clks + 1)) pc

/-- A conditional branch (R148): it retires whatever its target holds (R150). -/
def State.branch (s : State) (off : BitVec 40) (c : Strand → Bool) : Host.Outcome State Fault Refusal :=
  s.withCur (fun st => if c st then s.taken st (st.target off) else s.retire st)

/-- R148 -/
def execBeq (a b : GReg) (off : BitVec 40) (s : State) : Host.Outcome State Fault Refusal :=
  s.branch off (fun st => st.rd a == st.rd b)

/-- R148 -/
def execBne (a b : GReg) (off : BitVec 40) (s : State) : Host.Outcome State Fault Refusal :=
  s.branch off (fun st => st.rd a != st.rd b)

/-- R148: signed -/
def execBlt (a b : GReg) (off : BitVec 40) (s : State) : Host.Outcome State Fault Refusal :=
  s.branch off (fun st => (st.rd a).slt (st.rd b))

/-- R148: signed -/
def execBge (a b : GReg) (off : BitVec 40) (s : State) : Host.Outcome State Fault Refusal :=
  s.branch off (fun st => (st.rd b).sle (st.rd a))

/-- R148: unsigned -/
def execBltu (a b : GReg) (off : BitVec 40) (s : State) : Host.Outcome State Fault Refusal :=
  s.branch off (fun st => (st.rd a).ult (st.rd b))

/-- R148: unsigned -/
def execBgeu (a b : GReg) (off : BitVec 40) (s : State) : Host.Outcome State Fault Refusal :=
  s.branch off (fun st => (st.rd b).ule (st.rd a))

/-- R148 -/
def execBeqz (a : GReg) (off : BitVec 40) (s : State) : Host.Outcome State Fault Refusal :=
  s.branch off (fun st => st.rd a == 0)

/-- R148 -/
def execBnez (a : GReg) (off : BitVec 40) (s : State) : Host.Outcome State Fault Refusal :=
  s.branch off (fun st => st.rd a != 0)

/-- R149 -/
def execJal (d : GReg) (off : BitVec 44) (s : State) : Host.Outcome State Fault Refusal :=
  s.withCur (fun st => s.taken (st.wr d st.after) (st.target off))

/-- R149: a target whose bits [1:0] are not 0 is the instruction-alignment fault, with nothing written. -/
def execJalr (d a : GReg) (imm : BitVec 40) (s : State) : Host.Outcome State Fault Refusal :=
  s.withCur (fun st =>
    let dest := st.rd a + imm.signExtend 64
    if dest.toNat % 4 ≠ 0 then s.raise st fcInstrAlign dest else s.taken (st.wr d st.after) dest)

end Sys2Proof.Machine
end

