-- ==== Sys2Proof/Machine/Hint.lean ====
section
/-! DEFINITION. Meanings of the hints (R107, R110, R111). -/
namespace Sys2Proof.Machine

/-- R107 -/
def execNop (s : State) : Host.Outcome State Fault Refusal := s.withCur (fun st => s.retire st)

/-- R110: holds while a masked token is pending, traps on failed ones; R84: on a LAUNCH token of the strand's it carries an
acquire action. -/
def execWait (mask : Byte) (s : State) : Host.Outcome State Fault Refusal :=
  s.withCur (fun st => (s.waitMask st mask (.wait mask)).finish (fun s _ =>
    if s.joinsLaunch st mask then s.retireAcq s.cur st else s.retire st))

/-- A prefetched copy of a line: in the L1, or with far only in the die's RDC (R111). -/
def State.prefetch (s : State) (t : Nat) (st : Strand) (intent : PrefIntent) (va : Nat) : State :=
  match s.walk (t / 256) st.asid va with
  | none => s
  | some f =>
    match leafLoc f.pte va with
    | .dev pa =>
      let line := pa / 64 * 64
      if s.poisoned line 64 then s
      else
        match intent with
        | .far =>
          if pa / 2 ^ 39 = t / 256 then s
          else
            let s := (List.range 16).foldl (fun (x : State) i =>
              x.putRdc (t / 256) (line / 4 + i) ⟨s.homeWord (line / 4 + i), s.podTime, s.free + 1⟩) s
            { s.countRemote pa (t / 256) with free := s.free + 2 }
        | .rd => s.fillCopies t st.acq line 64
        | .wr => s.fillCopies t st.acq line 64
    | .spad _ _ => s
    | .host _ => s

/-- R111: never faults or holds. -/
def execPref (base : GReg) (intent : PrefIntent) (off : BitVec 16) (s : State) : Host.Outcome State Fault Refusal :=
  s.withCur (fun st =>
    let va := (st.rd base + off.signExtend 64).toNat
    match s.cur with
    | .tile t _ => (if va < 2 ^ 56 then s.prefetch t st intent va else s).retire st
    | .sup _ _ => s.retire st)

/-- R111 -/
def execLikely (s : State) : Host.Outcome State Fault Refusal := s.withCur (fun st => s.retire st)

/-- R111 -/
def execUnlikely (s : State) : Host.Outcome State Fault Refusal := s.withCur (fun st => s.retire st)

end Sys2Proof.Machine
end

