-- ==== Sys2Proof/Machine/LoadStore.lean ====
section
/-! DEFINITION. Meanings of the loads and stores (R151 to R158). -/
namespace Sys2Proof.Machine

/-- The effective address (R152). -/
def Strand.ea (st : Strand) (base : GReg) (off : BitVec 38) : W64 := st.rd base + off.signExtend 64

/-- A load of n bytes at the effective address (R154). -/
def State.load (s : State) (d base : GReg) (o : Order) (off : BitVec 38) (n : Nat) (signed : Bool) :
    Host.Outcome State Fault Refusal :=
  s.withCur (fun st => s.doLoad st d (st.ea base off) n signed o)

/-- A store of the low n bytes of gs at the effective address (R155). -/
def State.store (s : State) (x base : GReg) (o : Order) (off : BitVec 38) (n : Nat) :
    Host.Outcome State Fault Refusal :=
  s.withCur (fun st => s.doStore st (st.ea base off) (leBytes n (st.rd x).toNat) .store o (storeAlign o n) 4)

/-- R151: 1 byte, sign-extended -/
def execLdb (d base : GReg) (ord : Order) (off : BitVec 38) (s : State) : Host.Outcome State Fault Refusal :=
  s.load d base ord off 1 true

/-- R151: 1 byte, zero-extended -/
def execLdbu (d base : GReg) (ord : Order) (off : BitVec 38) (s : State) : Host.Outcome State Fault Refusal :=
  s.load d base ord off 1 false

/-- R151: 2 bytes, sign-extended -/
def execLdh (d base : GReg) (ord : Order) (off : BitVec 38) (s : State) : Host.Outcome State Fault Refusal :=
  s.load d base ord off 2 true

/-- R151: 2 bytes, zero-extended -/
def execLdhu (d base : GReg) (ord : Order) (off : BitVec 38) (s : State) : Host.Outcome State Fault Refusal :=
  s.load d base ord off 2 false

/-- R151: 4 bytes, sign-extended -/
def execLdw (d base : GReg) (ord : Order) (off : BitVec 38) (s : State) : Host.Outcome State Fault Refusal :=
  s.load d base ord off 4 true

/-- R151: 4 bytes, zero-extended -/
def execLdwu (d base : GReg) (ord : Order) (off : BitVec 38) (s : State) : Host.Outcome State Fault Refusal :=
  s.load d base ord off 4 false

/-- R151: 8 bytes -/
def execLdd (d base : GReg) (ord : Order) (off : BitVec 38) (s : State) : Host.Outcome State Fault Refusal :=
  s.load d base ord off 8 false

/-- R158: 8 bytes through the read-only path -/
def execLdc (d base : GReg) (off : BitVec 38) (s : State) : Host.Outcome State Fault Refusal :=
  s.withCur (fun st => s.doLdc st d (st.ea base off))

/-- R151 -/
def execStb (x base : GReg) (ord : Order) (off : BitVec 38) (s : State) : Host.Outcome State Fault Refusal :=
  s.store x base ord off 1

/-- R151 -/
def execSth (x base : GReg) (ord : Order) (off : BitVec 38) (s : State) : Host.Outcome State Fault Refusal :=
  s.store x base ord off 2

/-- R151 -/
def execStw (x base : GReg) (ord : Order) (off : BitVec 38) (s : State) : Host.Outcome State Fault Refusal :=
  s.store x base ord off 4

/-- R151 -/
def execStd (x base : GReg) (ord : Order) (off : BitVec 38) (s : State) : Host.Outcome State Fault Refusal :=
  s.store x base ord off 8

end Sys2Proof.Machine
end

