-- ==== Sys2Proof/Machine/Scalar.lean ====
section
/-! DEFINITION. Meanings of the scalar instructions on registers (R142 to R147). -/
namespace Sys2Proof.Machine

/-- Write a value computed from the strand's registers and retire (R140: sources are read first). -/
def State.alu (s : State) (d : GReg) (f : Strand → W64) : Host.Outcome State Fault Refusal :=
  s.withCur (fun st => s.retire (st.wr d (f st)))

/-- The same from two source registers. -/
def State.alu2 (s : State) (d a b : GReg) (f : W64 → W64 → W64) : Host.Outcome State Fault Refusal :=
  s.alu d (fun st => f (st.rd a) (st.rd b))

/-- R142 -/
def valAdd (a b : W64) : W64 :=
  a + b
def execAdd (d a b : GReg) (s : State) : Host.Outcome State Fault Refusal := s.alu2 d a b valAdd

/-- R142 -/
def valSub (a b : W64) : W64 :=
  a - b
def execSub (d a b : GReg) (s : State) : Host.Outcome State Fault Refusal := s.alu2 d a b valSub

/-- R142 -/
def valAnd (a b : W64) : W64 :=
  a &&& b
def execAnd (d a b : GReg) (s : State) : Host.Outcome State Fault Refusal := s.alu2 d a b valAnd

/-- R142 -/
def valOr (a b : W64) : W64 :=
  a ||| b
def execOr (d a b : GReg) (s : State) : Host.Outcome State Fault Refusal := s.alu2 d a b valOr

/-- R142 -/
def valXor (a b : W64) : W64 :=
  a ^^^ b
def execXor (d a b : GReg) (s : State) : Host.Outcome State Fault Refusal := s.alu2 d a b valXor

/-- R142 -/
def valAndn (a b : W64) : W64 :=
  a &&& ~~~b
def execAndn (d a b : GReg) (s : State) : Host.Outcome State Fault Refusal := s.alu2 d a b valAndn

/-- R142 -/
def valShl (a b : W64) : W64 :=
  a <<< (b.toNat % 64)
def execShl (d a b : GReg) (s : State) : Host.Outcome State Fault Refusal := s.alu2 d a b valShl

/-- R142: logical, the low six bits of gb -/
def valShr (a b : W64) : W64 :=
  a >>> (b.toNat % 64)
def execShr (d a b : GReg) (s : State) : Host.Outcome State Fault Refusal := s.alu2 d a b valShr

/-- R142: arithmetic -/
def valSar (a b : W64) : W64 :=
  a.sshiftRight (b.toNat % 64)
def execSar (d a b : GReg) (s : State) : Host.Outcome State Fault Refusal := s.alu2 d a b valSar

/-- R142: signed -/
def valMin (a b : W64) : W64 :=
  if a.toInt ≤ b.toInt then a else b
def execMin (d a b : GReg) (s : State) : Host.Outcome State Fault Refusal := s.alu2 d a b valMin

/-- R142: signed -/
def valMax (a b : W64) : W64 :=
  if a.toInt ≥ b.toInt then a else b
def execMax (d a b : GReg) (s : State) : Host.Outcome State Fault Refusal := s.alu2 d a b valMax

/-- R142: unsigned -/
def valMinu (a b : W64) : W64 :=
  if a.toNat ≤ b.toNat then a else b
def execMinu (d a b : GReg) (s : State) : Host.Outcome State Fault Refusal := s.alu2 d a b valMinu

/-- R142: unsigned -/
def valMaxu (a b : W64) : W64 :=
  if a.toNat ≥ b.toNat then a else b
def execMaxu (d a b : GReg) (s : State) : Host.Outcome State Fault Refusal := s.alu2 d a b valMaxu

/-- R142: signed -/
def valSlt (a b : W64) : W64 :=
  if a.toInt < b.toInt then 1 else 0
def execSlt (d a b : GReg) (s : State) : Host.Outcome State Fault Refusal := s.alu2 d a b valSlt

/-- R142: unsigned -/
def valSltu (a b : W64) : W64 :=
  if a.toNat < b.toNat then 1 else 0
def execSltu (d a b : GReg) (s : State) : Host.Outcome State Fault Refusal := s.alu2 d a b valSltu

/-- R142 -/
def valSeq (a b : W64) : W64 :=
  if a = b then 1 else 0
def execSeq (d a b : GReg) (s : State) : Host.Outcome State Fault Refusal := s.alu2 d a b valSeq

/-- R143: SEL -/
def execSel (d a b c : GReg) (s : State) : Host.Outcome State Fault Refusal :=
  s.alu d (fun st => if st.rd c ≠ 0 then st.rd a else st.rd b)

/-- Zero bits above the highest 1 bit, 64 for 0 (R143). -/
def valClz (a : W64) : W64 := BitVec.ofNat 64 (if a = 0 then 64 else 63 - a.toNat.log2)
/-- R143: CLZ -/
def execClz (d a : GReg) (s : State) : Host.Outcome State Fault Refusal := s.alu d (fun st => valClz (st.rd a))

/-- Zero bits below the lowest 1 bit, 64 for 0 (R143). -/
def valCtz (a : W64) : W64 := BitVec.ofNat 64 (((List.range 64).find? (fun i => a.getLsbD i)).getD 64)
/-- R143: CTZ -/
def execCtz (d a : GReg) (s : State) : Host.Outcome State Fault Refusal := s.alu d (fun st => valCtz (st.rd a))

/-- Number of 1 bits (R143). -/
def valPopc (a : W64) : W64 := BitVec.ofNat 64 ((List.range 64).countP (fun i => a.getLsbD i))
/-- R143: POPC -/
def execPopc (d a : GReg) (s : State) : Host.Outcome State Fault Refusal := s.alu d (fun st => valPopc (st.rd a))

/-- 2^w − 1 with w = min(gc, 64) (R144). -/
def fieldMask (c : W64) : W64 := BitVec.ofNat 64 (2 ^ Nat.min c.toNat 64 - 1)

/-- R144: EXT takes the field at gb[5:0] of width gc. -/
def valExt (a b c : W64) : W64 := (a >>> (b.toNat % 64)) &&& fieldMask c
def execExt (d a b c : GReg) (s : State) : Host.Outcome State Fault Refusal :=
  s.alu d (fun st => valExt (st.rd a) (st.rd b) (st.rd c))

/-- R144: INS puts the low bits of ga into gd. -/
def valIns (old a b c : W64) : W64 :=
  (old &&& ~~~(fieldMask c <<< (b.toNat % 64))) ||| ((a &&& fieldMask c) <<< (b.toNat % 64))
def execIns (d a b c : GReg) (s : State) : Host.Outcome State Fault Refusal :=
  s.alu d (fun st => valIns (st.rd d) (st.rd a) (st.rd b) (st.rd c))

/-- R145: LEA -/
def execLea (d a b : GReg) (n : BitVec 4) (s : State) : Host.Outcome State Fault Refusal :=
  s.alu2 d a b (fun x y => x + y <<< n.toNat)

/-- R145: tile-space address of tile ga, offset gb -/
def valTad (a b : W64) : W64 :=
  0xE000000000000000 + (a &&& 0x7FFFF) <<< 21 + (b &&& 0x1FFFFF)
def execTad (d a b : GReg) (s : State) : Host.Outcome State Fault Refusal := s.alu2 d a b valTad

/-- R146 -/
def valMul (a b : W64) : W64 :=
  a * b
def execMul (d a b : GReg) (s : State) : Host.Outcome State Fault Refusal := s.alu2 d a b valMul

/-- R146: high half of the signed product -/
def valMulh (a b : W64) : W64 :=
  BitVec.ofInt 64 (a.toInt * b.toInt / 2 ^ 64)
def execMulh (d a b : GReg) (s : State) : Host.Outcome State Fault Refusal := s.alu2 d a b valMulh

/-- R146: high half of the unsigned product -/
def valMulhu (a b : W64) : W64 :=
  BitVec.ofNat 64 (a.toNat * b.toNat / 2 ^ 64)
def execMulhu (d a b : GReg) (s : State) : Host.Outcome State Fault Refusal := s.alu2 d a b valMulhu

/-- R146: signed, toward zero; by zero all ones, the overflow case ga -/
def valDiv (a b : W64) : W64 :=
  if b = 0 then BitVec.allOnes 64 else if a.toInt = -2 ^ 63 ∧ b.toInt = -1 then a
    else BitVec.ofInt 64 (a.toInt.tdiv b.toInt)
def execDiv (d a b : GReg) (s : State) : Host.Outcome State Fault Refusal := s.alu2 d a b valDiv

/-- R146 -/
def valDivu (a b : W64) : W64 :=
  if b = 0 then BitVec.allOnes 64 else BitVec.ofNat 64 (a.toNat / b.toNat)
def execDivu (d a b : GReg) (s : State) : Host.Outcome State Fault Refusal := s.alu2 d a b valDivu

/-- R146: sign of the dividend; by zero ga, the overflow case 0 -/
def valRem (a b : W64) : W64 :=
  if b = 0 then a else if a.toInt = -2 ^ 63 ∧ b.toInt = -1 then 0
    else BitVec.ofInt 64 (a.toInt - b.toInt * a.toInt.tdiv b.toInt)
def execRem (d a b : GReg) (s : State) : Host.Outcome State Fault Refusal := s.alu2 d a b valRem

/-- R146 -/
def valRemu (a b : W64) : W64 :=
  if b = 0 then a else BitVec.ofNat 64 (a.toNat % b.toNat)
def execRemu (d a b : GReg) (s : State) : Host.Outcome State Fault Refusal := s.alu2 d a b valRemu

/-! ## Immediates (R147) -/

/-- R147: imm sign-extended. -/
def execAddi (d a : GReg) (imm : BitVec 40) (s : State) : Host.Outcome State Fault Refusal :=
  s.alu d (fun st => st.rd a + imm.signExtend 64)

/-- R147: imm zero-extended. -/
def execAndi (d a : GReg) (imm : BitVec 40) (s : State) : Host.Outcome State Fault Refusal :=
  s.alu d (fun st => st.rd a &&& imm.zeroExtend 64)

/-- R147: imm zero-extended. -/
def execOri (d a : GReg) (imm : BitVec 40) (s : State) : Host.Outcome State Fault Refusal :=
  s.alu d (fun st => st.rd a ||| imm.zeroExtend 64)

/-- R147: imm zero-extended. -/
def execXori (d a : GReg) (imm : BitVec 40) (s : State) : Host.Outcome State Fault Refusal :=
  s.alu d (fun st => st.rd a ^^^ imm.zeroExtend 64)

/-- R147 -/
def execShli (d a : GReg) (n : BitVec 6) (s : State) : Host.Outcome State Fault Refusal :=
  s.alu d (fun st => st.rd a <<< n.toNat)

/-- R147 -/
def execShri (d a : GReg) (n : BitVec 6) (s : State) : Host.Outcome State Fault Refusal :=
  s.alu d (fun st => st.rd a >>> n.toNat)

/-- R147 -/
def execSari (d a : GReg) (n : BitVec 6) (s : State) : Host.Outcome State Fault Refusal :=
  s.alu d (fun st => (st.rd a).sshiftRight n.toNat)

/-- R147: signed compare with imm. -/
def execSlti (d a : GReg) (imm : BitVec 40) (s : State) : Host.Outcome State Fault Refusal :=
  s.alu d (fun st => valSlt (st.rd a) (imm.signExtend 64))

/-- R147 -/
def execLi (d : GReg) (imm : BitVec 40) (s : State) : Host.Outcome State Fault Refusal :=
  s.alu d (fun _ => imm.signExtend 64)

/-- R147: bits [63:32] only. -/
def execLih (d : GReg) (imm : BitVec 32) (s : State) : Host.Outcome State Fault Refusal :=
  s.alu d (fun st => imm ++ (st.rd d).extractLsb' 0 32)

end Sys2Proof.Machine
end

