-- ==== Sys2Proof/Machine/Dispatch.lean ====
section
/-! DEFINITION. One arm per constructor of `Instr`: a direct call of its meaning. -/
namespace Sys2Proof.Machine

def exec (i : Instr) (s : State) : Host.Outcome State Fault Refusal :=
  match i with
  | .add d a b => Sys2Proof.Machine.execAdd d a b s
  | .sub d a b => Sys2Proof.Machine.execSub d a b s
  | .and d a b => Sys2Proof.Machine.execAnd d a b s
  | .or d a b => Sys2Proof.Machine.execOr d a b s
  | .xor d a b => Sys2Proof.Machine.execXor d a b s
  | .andn d a b => Sys2Proof.Machine.execAndn d a b s
  | .shl d a b => Sys2Proof.Machine.execShl d a b s
  | .shr d a b => Sys2Proof.Machine.execShr d a b s
  | .sar d a b => Sys2Proof.Machine.execSar d a b s
  | .min d a b => Sys2Proof.Machine.execMin d a b s
  | .max d a b => Sys2Proof.Machine.execMax d a b s
  | .minu d a b => Sys2Proof.Machine.execMinu d a b s
  | .maxu d a b => Sys2Proof.Machine.execMaxu d a b s
  | .slt d a b => Sys2Proof.Machine.execSlt d a b s
  | .sltu d a b => Sys2Proof.Machine.execSltu d a b s
  | .seq d a b => Sys2Proof.Machine.execSeq d a b s
  | .sel d a b c => Sys2Proof.Machine.execSel d a b c s
  | .clz d a => Sys2Proof.Machine.execClz d a s
  | .ctz d a => Sys2Proof.Machine.execCtz d a s
  | .popc d a => Sys2Proof.Machine.execPopc d a s
  | .ext d a b c => Sys2Proof.Machine.execExt d a b c s
  | .ins d a b c => Sys2Proof.Machine.execIns d a b c s
  | .lea d a b n => Sys2Proof.Machine.execLea d a b n s
  | .tad d a b => Sys2Proof.Machine.execTad d a b s
  | .mul d a b => Sys2Proof.Machine.execMul d a b s
  | .mulh d a b => Sys2Proof.Machine.execMulh d a b s
  | .mulhu d a b => Sys2Proof.Machine.execMulhu d a b s
  | .div d a b => Sys2Proof.Machine.execDiv d a b s
  | .divu d a b => Sys2Proof.Machine.execDivu d a b s
  | .rem d a b => Sys2Proof.Machine.execRem d a b s
  | .remu d a b => Sys2Proof.Machine.execRemu d a b s
  | .addi d a imm => Sys2Proof.Machine.execAddi d a imm s
  | .andi d a imm => Sys2Proof.Machine.execAndi d a imm s
  | .ori d a imm => Sys2Proof.Machine.execOri d a imm s
  | .xori d a imm => Sys2Proof.Machine.execXori d a imm s
  | .shli d a n => Sys2Proof.Machine.execShli d a n s
  | .shri d a n => Sys2Proof.Machine.execShri d a n s
  | .sari d a n => Sys2Proof.Machine.execSari d a n s
  | .slti d a imm => Sys2Proof.Machine.execSlti d a imm s
  | .li d imm => Sys2Proof.Machine.execLi d imm s
  | .lih d imm => Sys2Proof.Machine.execLih d imm s
  | .beq a b off => Sys2Proof.Machine.execBeq a b off s
  | .bne a b off => Sys2Proof.Machine.execBne a b off s
  | .blt a b off => Sys2Proof.Machine.execBlt a b off s
  | .bge a b off => Sys2Proof.Machine.execBge a b off s
  | .bltu a b off => Sys2Proof.Machine.execBltu a b off s
  | .bgeu a b off => Sys2Proof.Machine.execBgeu a b off s
  | .beqz a off => Sys2Proof.Machine.execBeqz a off s
  | .bnez a off => Sys2Proof.Machine.execBnez a off s
  | .jal d off => Sys2Proof.Machine.execJal d off s
  | .jalr d a imm => Sys2Proof.Machine.execJalr d a imm s
  | .ldb d base ord off => Sys2Proof.Machine.execLdb d base ord off s
  | .ldbu d base ord off => Sys2Proof.Machine.execLdbu d base ord off s
  | .ldh d base ord off => Sys2Proof.Machine.execLdh d base ord off s
  | .ldhu d base ord off => Sys2Proof.Machine.execLdhu d base ord off s
  | .ldw d base ord off => Sys2Proof.Machine.execLdw d base ord off s
  | .ldwu d base ord off => Sys2Proof.Machine.execLdwu d base ord off s
  | .ldd d base ord off => Sys2Proof.Machine.execLdd d base ord off s
  | .ldc d base off => Sys2Proof.Machine.execLdc d base off s
  | .stb x base ord off => Sys2Proof.Machine.execStb x base ord off s
  | .sth x base ord off => Sys2Proof.Machine.execSth x base ord off s
  | .stw x base ord off => Sys2Proof.Machine.execStw x base ord off s
  | .std x base ord off => Sys2Proof.Machine.execStd x base ord off s
  | .aadd d addr val ord size => Sys2Proof.Machine.execAadd d addr val ord size s
  | .aand d addr val ord size => Sys2Proof.Machine.execAand d addr val ord size s
  | .aor d addr val ord size => Sys2Proof.Machine.execAor d addr val ord size s
  | .axor d addr val ord size => Sys2Proof.Machine.execAxor d addr val ord size s
  | .amin d addr val ord size => Sys2Proof.Machine.execAmin d addr val ord size s
  | .amax d addr val ord size => Sys2Proof.Machine.execAmax d addr val ord size s
  | .aminu d addr val ord size => Sys2Proof.Machine.execAminu d addr val ord size s
  | .amaxu d addr val ord size => Sys2Proof.Machine.execAmaxu d addr val ord size s
  | .aswp d addr val ord size => Sys2Proof.Machine.execAswp d addr val ord size s
  | .acas d addr val cmp ord size => Sys2Proof.Machine.execAcas d addr val cmp ord size s
  | .aaddf d addr val ord size => Sys2Proof.Machine.execAaddf d addr val ord size s
  | .radd addr val ord size => Sys2Proof.Machine.execRadd addr val ord size s
  | .fenceL => Sys2Proof.Machine.execFenceL s
  | .fenceH => Sys2Proof.Machine.execFenceH s
  | .bart => Sys2Proof.Machine.execBart s
  | .barw d a scope => Sys2Proof.Machine.execBarw d a scope s
  | .waitv a b size => Sys2Proof.Machine.execWaitv a b size s
  | .waitx d a => Sys2Proof.Machine.execWaitx d a s
  | .yield a => Sys2Proof.Machine.execYield a s
  | .qsnd a q => Sys2Proof.Machine.execQsnd a q s
  | .qrcv d q => Sys2Proof.Machine.execQrcv d q s
  | .qtry d a q => Sys2Proof.Machine.execQtry d a q s
  | .qcnt d q => Sys2Proof.Machine.execQcnt d q s
  | .fork a b => Sys2Proof.Machine.execFork a b s
  | .join => Sys2Proof.Machine.execJoin s
  | .exit => Sys2Proof.Machine.execExit s
  | .go a => Sys2Proof.Machine.execGo a s
  | .home => Sys2Proof.Machine.execHome s
  | .prio a => Sys2Proof.Machine.execPrio a s
  | .id d sel => Sys2Proof.Machine.execId d sel s
  | .launch a t => Sys2Proof.Machine.execLaunch a t s
  | .next a t => Sys2Proof.Machine.execNext a t s
  | .estat a b t => Sys2Proof.Machine.execEstat a b t s
  | .cancel a kill t => Sys2Proof.Machine.execCancel a kill t s
  | .watch d a => Sys2Proof.Machine.execWatch d a s
  | .unwatch a => Sys2Proof.Machine.execUnwatch a s
  | .wqry d a => Sys2Proof.Machine.execWqry d a s
  | .trap code => Sys2Proof.Machine.execTrap code s
  | .brk code => Sys2Proof.Machine.execBrk code s
  | .halt => Sys2Proof.Machine.execHalt s
  | .srd d n => Sys2Proof.Machine.execSrd d n s
  | .swr a n => Sys2Proof.Machine.execSwr a n s
  | .srdSysFhead d => Sys2Proof.Machine.execSrdSysFhead d s
  | .swrSysFtail a => Sys2Proof.Machine.execSwrSysFtail a s
  | .swrSysCtxload a => Sys2Proof.Machine.execSwrSysCtxload a s
  | .nop => Sys2Proof.Machine.execNop s
  | .wait mask => Sys2Proof.Machine.execWait mask s
  | .pref base intent off => Sys2Proof.Machine.execPref base intent off s
  | .likely => Sys2Proof.Machine.execLikely s
  | .unlikely => Sys2Proof.Machine.execUnlikely s
  | .vld d a p t => Sys2Proof.Machine.execVld d a p t s
  | .vst x a p t => Sys2Proof.Machine.execVst x a p t s
  | .vlds d a b p t => Sys2Proof.Machine.execVlds d a b p t s
  | .vsts x a b p t => Sys2Proof.Machine.execVsts x a b p t s
  | .vgth d a y p t => Sys2Proof.Machine.execVgth d a y p t s
  | .vsct x a y p t => Sys2Proof.Machine.execVsct x a y p t s
  | .vldt d a b p t => Sys2Proof.Machine.execVldt d a b p t s
  | .vxch d a p t => Sys2Proof.Machine.execVxch d a p t s
  | .vbcst d a p t => Sys2Proof.Machine.execVbcst d a p t s
  | .vmov d a p t => Sys2Proof.Machine.execVmov d a p t s
  | .vadd d a b p t => Sys2Proof.Machine.execVadd d a b p t s
  | .vsub d a b p t => Sys2Proof.Machine.execVsub d a b p t s
  | .vmul d a b p t => Sys2Proof.Machine.execVmul d a b p t s
  | .vmac d a b p t => Sys2Proof.Machine.execVmac d a b p t s
  | .vfma d a b p t => Sys2Proof.Machine.execVfma d a b p t s
  | .vmin d a b p t => Sys2Proof.Machine.execVmin d a b p t s
  | .vmax d a b p t => Sys2Proof.Machine.execVmax d a b p t s
  | .vabs d a p t => Sys2Proof.Machine.execVabs d a p t s
  | .vneg d a p t => Sys2Proof.Machine.execVneg d a p t s
  | .vshl d a b p t => Sys2Proof.Machine.execVshl d a b p t s
  | .vshr d a b p t => Sys2Proof.Machine.execVshr d a b p t s
  | .vsar d a b p t => Sys2Proof.Machine.execVsar d a b p t s
  | .vand d a b p t => Sys2Proof.Machine.execVand d a b p t s
  | .vor d a b p t => Sys2Proof.Machine.execVor d a b p t s
  | .vxor d a b p t => Sys2Proof.Machine.execVxor d a b p t s
  | .vsel d a b p t => Sys2Proof.Machine.execVsel d a b p t s
  | .vcmpEq d a b p t => Sys2Proof.Machine.execVcmpEq d a b p t s
  | .vcmpNe d a b p t => Sys2Proof.Machine.execVcmpNe d a b p t s
  | .vcmpLt d a b p t => Sys2Proof.Machine.execVcmpLt d a b p t s
  | .vcmpLe d a b p t => Sys2Proof.Machine.execVcmpLe d a b p t s
  | .vcmpLtu d a b p t => Sys2Proof.Machine.execVcmpLtu d a b p t s
  | .vcmpLeu d a b p t => Sys2Proof.Machine.execVcmpLeu d a b p t s
  | .vrsum d a p t => Sys2Proof.Machine.execVrsum d a p t s
  | .vrmax d a p t => Sys2Proof.Machine.execVrmax d a p t s
  | .vrmin d a p t => Sys2Proof.Machine.execVrmin d a p t s
  | .vcvt d a z x src p dst => Sys2Proof.Machine.execVcvt d a z x src p dst s
  | .vqnt d a g p dst => Sys2Proof.Machine.execVqnt d a g p dst s
  | .vdq d a g p dst => Sys2Proof.Machine.execVdq d a g p dst s
  | .vexp2 d a p t => Sys2Proof.Machine.execVexp2 d a p t s
  | .vrcp d a p t => Sys2Proof.Machine.execVrcp d a p t s
  | .vrsq d a p t => Sys2Proof.Machine.execVrsq d a p t s
  | .vtunp d a p => Sys2Proof.Machine.execVtunp d a p s
  | .vtpk d a p => Sys2Proof.Machine.execVtpk d a p s
  | .vperm d a y p t => Sys2Proof.Machine.execVperm d a y p t s
  | .vslid d a b p t => Sys2Proof.Machine.execVslid d a b p t s
  | .pand d a b => Sys2Proof.Machine.execPand d a b s
  | .por d a b => Sys2Proof.Machine.execPor d a b s
  | .pnot d a => Sys2Proof.Machine.execPnot d a s
  | .pcnt d a t => Sys2Proof.Machine.execPcnt d a t s
  | .pset d a m => Sys2Proof.Machine.execPset d a m s
  | .dmm c a b t => Sys2Proof.Machine.execDmm c a b t s
  | .dmmb c a b p t => Sys2Proof.Machine.execDmmb c a b p t s
  | .aclr c => Sys2Proof.Machine.execAclr c s
  | .acrd d c g t => Sys2Proof.Machine.execAcrd d c g t s
  | .acwr c a g t => Sys2Proof.Machine.execAcwr c a g t s
  | .cpy t wait a b c => Sys2Proof.Machine.execCpy t wait a b c s
  | .cpyr t wait a b => Sys2Proof.Machine.execCpyr t wait a b s
  | .cpyg t wait a b c => Sys2Proof.Machine.execCpyg t wait a b c s
  | .cfil t wait a b c => Sys2Proof.Machine.execCfil t wait a b c s
  | .cast t wait a b c => Sys2Proof.Machine.execCast t wait a b c s
  | .cqnt t wait a b c => Sys2Proof.Machine.execCqnt t wait a b c s
  | .fset t wait a b => Sys2Proof.Machine.execFset t wait a b s
  | .fmap t wait a b c => Sys2Proof.Machine.execFmap t wait a b c s
  | .fmm t wait a b c => Sys2Proof.Machine.execFmm t wait a b c s
  | .fmmt t wait a b c => Sys2Proof.Machine.execFmmt t wait a b c s
  | .fscl t wait a b => Sys2Proof.Machine.execFscl t wait a b s
  | .fclr t wait a => Sys2Proof.Machine.execFclr t wait a s
  | .fprb t wait a b => Sys2Proof.Machine.execFprb t wait a b s
  | .formeOpStart => Sys2Proof.Machine.execFormeOpStart s
  | .copyOpStart => Sys2Proof.Machine.execCopyOpStart s
  | .directCastStart => Sys2Proof.Machine.execDirectCastStart s
  | .engineTokenComplete => Sys2Proof.Machine.execEngineTokenComplete s
  | .proofingScrub => Sys2Proof.Machine.execProofingScrub s
  | .vxchExchange => Sys2Proof.Machine.execVxchExchange s
  | .launchAccept => Sys2Proof.Machine.execLaunchAccept s
  | .editionBroadcast => Sys2Proof.Machine.execEditionBroadcast s
  | .folioRequest => Sys2Proof.Machine.execFolioRequest s
  | .blockDeal => Sys2Proof.Machine.execBlockDeal s
  | .teamDispatch => Sys2Proof.Machine.execTeamDispatch s
  | .nextService => Sys2Proof.Machine.execNextService s
  | .estatSnapshot => Sys2Proof.Machine.execEstatSnapshot s
  | .imposerAnswer => Sys2Proof.Machine.execImposerAnswer s
  | .cancelService => Sys2Proof.Machine.execCancelService s
  | .cancelBroadcast => Sys2Proof.Machine.execCancelBroadcast s
  | .blockComplete => Sys2Proof.Machine.execBlockComplete s
  | .completionReport => Sys2Proof.Machine.execCompletionReport s
  | .packageReport => Sys2Proof.Machine.execPackageReport s
  | .lightSlotTake => Sys2Proof.Machine.execLightSlotTake s
  | .steal => Sys2Proof.Machine.execSteal s
  | .migrationArrival => Sys2Proof.Machine.execMigrationArrival s
  | .bartRelease => Sys2Proof.Machine.execBartRelease s
  | .barwRelease => Sys2Proof.Machine.execBarwRelease s
  | .barwTimeout => Sys2Proof.Machine.execBarwTimeout s
  | .waitvWake => Sys2Proof.Machine.execWaitvWake s
  | .wakeEvent => Sys2Proof.Machine.execWakeEvent s
  | .waitxLimit => Sys2Proof.Machine.execWaitxLimit s
  | .allAsleepFault => Sys2Proof.Machine.execAllAsleepFault s
  | .quantumExpiry => Sys2Proof.Machine.execQuantumExpiry s
  | .asleepYieldTimeout => Sys2Proof.Machine.execAsleepYieldTimeout s
  | .forcedPreemption => Sys2Proof.Machine.execForcedPreemption s
  | .preemptGraceExpiry => Sys2Proof.Machine.execPreemptGraceExpiry s
  | .accTokenExchange => Sys2Proof.Machine.execAccTokenExchange s
  | .saveRecordWrite => Sys2Proof.Machine.execSaveRecordWrite s
  | .teamResume => Sys2Proof.Machine.execTeamResume s
  | .gangPreSliceRequest => Sys2Proof.Machine.execGangPreSliceRequest s
  | .gangSliceStart => Sys2Proof.Machine.execGangSliceStart s
  | .gangSliceEnd => Sys2Proof.Machine.execGangSliceEnd s
  | .gangLateNotice => Sys2Proof.Machine.execGangLateNotice s
  | .packageReset => Sys2Proof.Machine.execPackageReset s
  | .storeRegistration => Sys2Proof.Machine.execStoreRegistration s
  | .registrationAck => Sys2Proof.Machine.execRegistrationAck s
  | .ownedWordWriteback => Sys2Proof.Machine.execOwnedWordWriteback s
  | .remoteAccessArrival => Sys2Proof.Machine.execRemoteAccessArrival s
  | .remoteAnswer => Sys2Proof.Machine.execRemoteAnswer s
  | .hostCompletion => Sys2Proof.Machine.execHostCompletion s
  | .hostWriteIngress => Sys2Proof.Machine.execHostWriteIngress s
  | .budgetWindowRoll => Sys2Proof.Machine.execBudgetWindowRoll s
  | .impressionStart => Sys2Proof.Machine.execImpressionStart s
  | .serialiseRequest => Sys2Proof.Machine.execSerialiseRequest s
  | .serialiseAck => Sys2Proof.Machine.execSerialiseAck s
  | .pageWalk => Sys2Proof.Machine.execPageWalk s
  | .mmFaultDecision => Sys2Proof.Machine.execMmFaultDecision s
  | .tlbRangedInvalidate => Sys2Proof.Machine.execTlbRangedInvalidate s
  | .dirtyLogMerge => Sys2Proof.Machine.execDirtyLogMerge s
  | .sideLogReplay => Sys2Proof.Machine.execSideLogReplay s
  | .migrationNoticeTake => Sys2Proof.Machine.execMigrationNoticeTake s
  | .pageMigration => Sys2Proof.Machine.execPageMigration s
  | .migrationRelease => Sys2Proof.Machine.execMigrationRelease s
  | .faultPacketWrite => Sys2Proof.Machine.execFaultPacketWrite s
  | .supervisorEscalation => Sys2Proof.Machine.execSupervisorEscalation s
  | .dbgResume => Sys2Proof.Machine.execDbgResume s
  | .dbgKillBlock => Sys2Proof.Machine.execDbgKillBlock s
  | .dbgKillEdition => Sys2Proof.Machine.execDbgKillEdition s
  | .dbgPark => Sys2Proof.Machine.execDbgPark s
  | .dbgHalt => Sys2Proof.Machine.execDbgHalt s
  | .dbgEscalate => Sys2Proof.Machine.execDbgEscalate s
  | .dbgStep => Sys2Proof.Machine.execDbgStep s
  | .debugWindowWrite => Sys2Proof.Machine.execDebugWindowWrite s
  | .traceControlWrite => Sys2Proof.Machine.execTraceControlWrite s
  | .traceTrigger => Sys2Proof.Machine.execTraceTrigger s
  | .frameMark => Sys2Proof.Machine.execFrameMark s
  | .doorbell => Sys2Proof.Machine.execDoorbell s
  | .doorbellLatch => Sys2Proof.Machine.execDoorbellLatch s
  | .latchReplay => Sys2Proof.Machine.execLatchReplay s
  | .evtailWrite => Sys2Proof.Machine.execEvtailWrite s
  | .eventRingEnable => Sys2Proof.Machine.execEventRingEnable s
  | .bar0RegisterWrite => Sys2Proof.Machine.execBar0RegisterWrite s
  | .cmdActive => Sys2Proof.Machine.execCmdActive s
  | .activeMessageDelivery => Sys2Proof.Machine.execActiveMessageDelivery s
  | .cmdTensor => Sys2Proof.Machine.execCmdTensor s
  | .cmdPlatetag => Sys2Proof.Machine.execCmdPlatetag s
  | .cmdFrame => Sys2Proof.Machine.execCmdFrame s
  | .cmdContext => Sys2Proof.Machine.execCmdContext s
  | .cmdRelease => Sys2Proof.Machine.execCmdRelease s
  | .repairTileRow => Sys2Proof.Machine.execRepairTileRow s
  | .repairMacro => Sys2Proof.Machine.execRepairMacro s
  | .repairLp6Channel => Sys2Proof.Machine.execRepairLp6Channel s
  | .repairLane => Sys2Proof.Machine.execRepairLane s
  | .repairPackageBypass => Sys2Proof.Machine.execRepairPackageBypass s
  | .repairFrameRetire => Sys2Proof.Machine.execRepairFrameRetire s
  | .secureSetDebugLevel => Sys2Proof.Machine.execSecureSetDebugLevel s
  | .secureLoadKey => Sys2Proof.Machine.execSecureLoadKey s
  | .secureZeroKey => Sys2Proof.Machine.execSecureZeroKey s
  | .powerP0 => Sys2Proof.Machine.execPowerP0 s
  | .powerP2 => Sys2Proof.Machine.execPowerP2 s
  | .powerP3 => Sys2Proof.Machine.execPowerP3 s
  | .powerP4 => Sys2Proof.Machine.execPowerP4 s
  | .powerExitComplete => Sys2Proof.Machine.execPowerExitComplete s
  | .cmdAttest => Sys2Proof.Machine.execCmdAttest s
  | .cmdSealed => Sys2Proof.Machine.execCmdSealed s
  | .cmdYield => Sys2Proof.Machine.execCmdYield s
  | .cmdResetcore => Sys2Proof.Machine.execCmdResetcore s
  | .mailboxPost => Sys2Proof.Machine.execMailboxPost s
  | .coreFailure => Sys2Proof.Machine.execCoreFailure s
  | .takeoverLive => Sys2Proof.Machine.execTakeoverLive s
  | .bringUp => Sys2Proof.Machine.execBringUp s
  | .flitReceive => Sys2Proof.Machine.execFlitReceive s
  | .flitReplay => Sys2Proof.Machine.execFlitReplay s
  | .laneTrainFail => Sys2Proof.Machine.execLaneTrainFail s
  | .powerReport => Sys2Proof.Machine.execPowerReport s
  | .currentTrip => Sys2Proof.Machine.execCurrentTrip s
  | .thermalTrip => Sys2Proof.Machine.execThermalTrip s
  | .dieReset => Sys2Proof.Machine.execDieReset s
  | .undefinedInstruction => Sys2Proof.Machine.execUndefinedInstruction s
  | .instructionFetchFault => Sys2Proof.Machine.execInstructionFetchFault s
  | .hostWriteRefused => Sys2Proof.Machine.execHostWriteRefused s

end Sys2Proof.Machine
end

