-- ==== Sys2Proof/Machine/Latency.lean ====
section
/-! DEFINITION. Operands that are not there yet: a strand issues an instruction once the registers it names are written
(R68, R140, R208), in the issue-to-use times of R166, R239 and R244. They change timing only, never a result. -/
namespace Sys2Proof.Machine

/-- What an instruction has to do with registers: those it names, those it writes, and its latency. Registers are
numbered g from 0, v from 16, p from 48; an accumulator n is 56 + n for the sums that a dense instruction adds into it, 64 + n for
what a move leaves in it; 72 stands for the bytes of a vector store, which no instruction names. -/
structure Timing where
  names : List Nat
  writes : List Nat
  lat : Nat
  deriving DecidableEq, Repr

/-- Latency of an element-wise instruction (R244). -/
def floatLat (t : LaneType) : Nat := if t = .b ∨ t = .h ∨ t = .w then 2 else 4

/-- R166 and R244. DIV and its kind take the longest time of the range given (DESIGN CHOICE, log entry 11); an accumulator that a
dense instruction adds into is not waited for (R239); a hint and a step of another agent name no register. -/
def timing (i : Instr) : Timing :=
  match i with
  | .add d a b | .sub d a b | .and d a b | .or d a b | .xor d a b | .andn d a b | .shl d a b | .shr d a b
  | .sar d a b | .min d a b | .max d a b | .minu d a b | .maxu d a b | .slt d a b | .sltu d a b | .seq d a b
  | .lea d a b _ | .tad d a b => ⟨[d.toNat, a.toNat, b.toNat], [d.toNat], 1⟩
  | .sel d a b c | .ext d a b c | .ins d a b c => ⟨[d.toNat, a.toNat, b.toNat, c.toNat], [d.toNat], 1⟩
  | .clz d a | .ctz d a | .popc d a | .addi d a _ | .andi d a _ | .ori d a _ | .xori d a _ | .shli d a _
  | .shri d a _ | .sari d a _ | .slti d a _ | .jalr d a _ | .barw d a _ | .waitx d a | .watch d a | .wqry d a
    => ⟨[d.toNat, a.toNat], [d.toNat], 1⟩
  | .mul d a b | .mulh d a b | .mulhu d a b => ⟨[d.toNat, a.toNat, b.toNat], [d.toNat], 3⟩
  | .div d a b | .divu d a b | .rem d a b | .remu d a b => ⟨[d.toNat, a.toNat, b.toNat], [d.toNat], 36⟩
  | .li d _ | .lih d _ | .jal d _ | .qrcv d _ | .qcnt d _ | .id d _ | .srd d _ | .srdSysFhead d
    => ⟨[d.toNat], [d.toNat], 1⟩
  | .beq a b _ | .bne a b _ | .blt a b _ | .bge a b _ | .bltu a b _ | .bgeu a b _ | .waitv a b _ | .fork a b
  | .estat a b _ | .cpyr _ _ a b | .fset _ _ a b | .fscl _ _ a b | .fprb _ _ a b => ⟨[a.toNat, b.toNat], [], 1⟩
  | .beqz a _ | .bnez a _ | .yield a | .qsnd a _ | .go a | .prio a | .launch a _ | .next a _ | .cancel a _ _
  | .unwatch a | .swr a _ | .swrSysFtail a | .swrSysCtxload a | .fclr _ _ a => ⟨[a.toNat], [], 1⟩
  | .ldb d base _ _ | .ldbu d base _ _ | .ldh d base _ _ | .ldhu d base _ _ | .ldw d base _ _
  | .ldwu d base _ _ | .ldd d base _ _ | .ldc d base _ => ⟨[d.toNat, base.toNat], [d.toNat], 4⟩
  | .stb s base _ _ | .sth s base _ _ | .stw s base _ _ | .std s base _ _ => ⟨[s.toNat, base.toNat], [], 1⟩
  | .aadd d addr val _ _ | .aand d addr val _ _ | .aor d addr val _ _ | .axor d addr val _ _
  | .amin d addr val _ _ | .amax d addr val _ _ | .aminu d addr val _ _ | .amaxu d addr val _ _
  | .aswp d addr val _ _ | .aaddf d addr val _ _ => ⟨[d.toNat, addr.toNat, val.toNat], [d.toNat], 6⟩
  | .acas d addr val cmp _ _ => ⟨[d.toNat, addr.toNat, val.toNat, cmp.toNat], [d.toNat], 6⟩
  | .radd addr val _ _ => ⟨[addr.toNat, val.toNat], [], 1⟩
  | .fenceL | .fenceH | .bart | .join | .exit | .home | .trap _ | .brk _ | .halt | .nop | .wait _ | .likely
  | .unlikely => ⟨[], [], 1⟩
  | .qtry d a _ => ⟨[d.toNat, a.toNat], [d.toNat, a.toNat], 1⟩
  | .pref base _ _ => ⟨[base.toNat], [], 1⟩
  | .vld d a p _ => ⟨[16 + d.toNat, a.toNat, 48 + p.toNat], [16 + d.toNat], 4⟩
  | .vst s a p _ => ⟨[16 + s.toNat, a.toNat, 48 + p.toNat], [72], 4⟩
  | .vlds d a b p _ | .vldt d a b p _ => ⟨[16 + d.toNat, a.toNat, b.toNat, 48 + p.toNat], [16 + d.toNat], 4⟩
  | .vsts s a b p _ => ⟨[16 + s.toNat, a.toNat, b.toNat, 48 + p.toNat], [72], 4⟩
  | .vgth d a i p _ => ⟨[16 + d.toNat, a.toNat, 16 + i.toNat, 48 + p.toNat], [16 + d.toNat], 4⟩
  | .vsct s a i p _ => ⟨[16 + s.toNat, a.toNat, 16 + i.toNat, 48 + p.toNat], [72], 4⟩
  | .vxch d a p _ | .vmov d a p _ => ⟨[16 + d.toNat, 16 + a.toNat, 48 + p.toNat], [16 + d.toNat], 1⟩
  | .vbcst d a p _ => ⟨[16 + d.toNat, a.toNat, 48 + p.toNat], [16 + d.toNat], 1⟩
  | .vadd d a b p t | .vsub d a b p t | .vmul d a b p t | .vmac d a b p t | .vmin d a b p t | .vmax d a b p t
    => ⟨[16 + d.toNat, 16 + a.toNat, 16 + b.toNat, 48 + p.toNat], [16 + d.toNat], floatLat t⟩
  | .vfma d a b p _ => ⟨[16 + d.toNat, 16 + a.toNat, 16 + b.toNat, 48 + p.toNat], [16 + d.toNat], 4⟩
  | .vabs d a p t | .vneg d a p t => ⟨[16 + d.toNat, 16 + a.toNat, 48 + p.toNat], [16 + d.toNat], floatLat t⟩
  | .vshl d a b p _ | .vshr d a b p _ | .vsar d a b p _ | .vand d a b p _ | .vor d a b p _ | .vxor d a b p _
  | .vsel d a b p _ => ⟨[16 + d.toNat, 16 + a.toNat, 16 + b.toNat, 48 + p.toNat], [16 + d.toNat], 2⟩
  | .vcmpEq d a b p _ | .vcmpNe d a b p _ | .vcmpLt d a b p _ | .vcmpLe d a b p _ | .vcmpLtu d a b p _
  | .vcmpLeu d a b p _ => ⟨[48 + d.toNat, 16 + a.toNat, 16 + b.toNat, 48 + p.toNat], [48 + d.toNat], 2⟩
  | .vrsum d a p _ | .vrmax d a p _ | .vrmin d a p _
    => ⟨[16 + d.toNat, 16 + a.toNat, 48 + p.toNat], [16 + d.toNat], 6⟩
  | .vcvt d a _ _ _ p _ | .vtunp d a p | .vtpk d a p
    => ⟨[16 + d.toNat, 16 + a.toNat, 48 + p.toNat], [16 + d.toNat], 4⟩
  | .vqnt d a g p _ | .vdq d a g p _ => ⟨[16 + d.toNat, 16 + a.toNat, g.toNat, 48 + p.toNat], [16 + d.toNat], 8⟩
  | .vexp2 d a p _ | .vrcp d a p _ | .vrsq d a p _ => ⟨[16 + d.toNat, 16 + a.toNat, 48 + p.toNat], [16 + d.toNat], 8⟩
  | .vperm d a i p _ => ⟨[16 + d.toNat, 16 + a.toNat, 16 + i.toNat, 48 + p.toNat], [16 + d.toNat], 2⟩
  | .vslid d a b p _ => ⟨[16 + d.toNat, 16 + a.toNat, b.toNat, 48 + p.toNat], [16 + d.toNat], 2⟩
  | .pand d a b | .por d a b => ⟨[48 + d.toNat, 48 + a.toNat, 48 + b.toNat], [48 + d.toNat], 1⟩
  | .pnot d a => ⟨[48 + d.toNat, 48 + a.toNat], [48 + d.toNat], 1⟩
  | .pcnt d a _ => ⟨[d.toNat, 48 + a.toNat], [d.toNat], 1⟩
  | .pset d a _ => ⟨[48 + d.toNat, a.toNat], [48 + d.toNat], 1⟩
  | .dmm c a b _ => ⟨[16 + a.toNat, 16 + 2 * b.toNat, 17 + 2 * b.toNat, 64 + c.toNat], [56 + c.toNat], 6⟩
  | .dmmb c a b p _ =>
    ⟨[16 + a.toNat, 16 + 2 * b.toNat, 17 + 2 * b.toNat, 48 + p.toNat, 64 + c.toNat], [56 + c.toNat], 6⟩
  | .aclr c => ⟨[56 + c.toNat, 64 + c.toNat], [64 + c.toNat], 2⟩
  | .acrd d c g _ => ⟨[16 + d.toNat, 56 + c.toNat, 64 + c.toNat, g.toNat], [16 + d.toNat], 2⟩
  | .acwr c a g _ => ⟨[56 + c.toNat, 64 + c.toNat, 16 + a.toNat, g.toNat], [64 + c.toNat], 2⟩
  | .cpy _ _ a b c | .cpyg _ _ a b c | .cfil _ _ a b c | .cast _ _ a b c | .cqnt _ _ a b c | .fmap _ _ a b c
  | .fmm _ _ a b c | .fmmt _ _ a b c => ⟨[a.toNat, b.toNat, c.toNat], [], 1⟩
  | .formeOpStart | .copyOpStart | .directCastStart | .engineTokenComplete | .proofingScrub | .vxchExchange
  | .launchAccept | .editionBroadcast | .folioRequest | .blockDeal | .teamDispatch | .nextService
  | .estatSnapshot | .imposerAnswer | .cancelService | .cancelBroadcast | .blockComplete | .completionReport
  | .packageReport | .lightSlotTake | .steal | .migrationArrival | .bartRelease | .barwRelease | .barwTimeout
  | .waitvWake | .wakeEvent | .waitxLimit | .allAsleepFault | .quantumExpiry | .asleepYieldTimeout
  | .forcedPreemption | .preemptGraceExpiry | .accTokenExchange | .saveRecordWrite | .teamResume
  | .gangPreSliceRequest | .gangSliceStart | .gangSliceEnd | .gangLateNotice | .packageReset
  | .storeRegistration | .registrationAck | .ownedWordWriteback | .remoteAccessArrival | .remoteAnswer
  | .hostCompletion | .hostWriteIngress | .budgetWindowRoll | .impressionStart | .serialiseRequest
  | .serialiseAck | .pageWalk | .mmFaultDecision | .tlbRangedInvalidate | .dirtyLogMerge | .sideLogReplay
  | .migrationNoticeTake | .pageMigration | .migrationRelease | .faultPacketWrite | .supervisorEscalation
  | .dbgResume | .dbgKillBlock | .dbgKillEdition | .dbgPark | .dbgHalt | .dbgEscalate | .dbgStep
  | .debugWindowWrite | .traceControlWrite | .traceTrigger | .frameMark | .doorbell | .doorbellLatch
  | .latchReplay | .evtailWrite | .eventRingEnable | .bar0RegisterWrite | .cmdActive | .activeMessageDelivery
  | .cmdTensor | .cmdPlatetag | .cmdFrame | .cmdContext | .cmdRelease | .repairTileRow | .repairMacro
  | .repairLp6Channel | .repairLane | .repairPackageBypass | .repairFrameRetire | .secureSetDebugLevel
  | .secureLoadKey | .secureZeroKey | .powerP0 | .powerP2 | .powerP3 | .powerP4 | .powerExitComplete
  | .cmdAttest | .cmdSealed | .cmdYield | .cmdResetcore | .mailboxPost | .coreFailure | .takeoverLive
  | .bringUp | .flitReceive | .flitReplay | .laneTrainFail | .powerReport | .currentTrip | .thermalTrip
  | .dieReset | .undefinedInstruction | .instructionFetchFault | .hostWriteRefused => ⟨[], [], 1⟩

/-- The address base and offset of a load, by which R166 gives its time. -/
def loadFrom (i : Instr) : Option (GReg × W64) :=
  match i with
  | .ldb _ b _ o | .ldbu _ b _ o | .ldh _ b _ o | .ldhu _ b _ o | .ldw _ b _ o | .ldwu _ b _ o | .ldd _ b _ o
  | .ldc _ b o => some (b, o.signExtend 64)
  | _ => none

/-- Times a bank is asked for distinct lines, for the bank asked most (R76, R212). Other requesters of a bank take no time from
it here (DESIGN CHOICE, log entry 11). -/
def bankTime (l : List W64) : Nat :=
  let lines := (l.map (fun a => a.toNat % 2 ^ 21 / 64)).dedup
  (List.range 48).foldl (fun m b => Nat.max m (lines.filter (fun n => n % 48 == b)).length) 1

/-- Element addresses of a vector load or store that may ask one bank twice (R212, R213, R244). -/
def vecAddrs (i : Instr) (st : Strand) (m : Team) : List W64 :=
  match i with
  | .vlds _ a b p t | .vsts _ a b p t => (activeLanes t (m.pred p)).map (strideAddr (st.rd a) (st.rd b))
  | .vgth _ a x p t | .vsct _ a x p t => (activeLanes t (m.pred p)).map (indexAddr t (st.rd a) (m.vr x))
  | .vldt _ a b p t => (activeLanes t (m.pred p)).map (transAddr t (st.rd a) (st.rd b))
  | _ => []

/-- 16-column halves that a dense instruction computes (R239); none for another instruction. -/
def denseHalves (i : Instr) (m : Team) : Option Nat :=
  match i with
  | .dmm _ _ _ _ => some 2
  | .dmmb _ _ _ p _ =>
    let v := (m.pred p).toNat
    some ((if v % 2 ^ 16 = 0 then 0 else 1) + (if v / 2 ^ 16 % 2 ^ 16 = 0 then 0 else 1))
  | _ => none

/-- The clk at which every register that an instruction names is written (R68, R140), and the dense path is free for a
dense one (R239). -/
def State.operandsAt (s : State) (r : Ref) (st : Strand) (i : Instr) : Nat :=
  let own := (timing i).names.foldl (fun n x => if x < 16 then Nat.max n (st.regAt.get 0 x) else n) 0
  match r with
  | .sup _ _ => own
  | .tile t _ =>
    match st.kind, s.team t with
    | .anchored, some m =>
      let n := (timing i).names.foldl (fun n x => if x < 16 then n else Nat.max n (m.regAt.get 0 x)) own
      if (denseHalves i m).isSome then Nat.max n m.denseFree else n
    | _, _ => own

/-- The later of the time noted for a register and a new one. -/
def noteReg (l : Table Nat) (x n : Nat) : Table Nat := l.put 0 x (Nat.max (l.get 0 x) n)

/-- The strand with the times at which the registers that its instruction writes may be used; key 16 is the time at
which its last DIV completes (R141). -/
def Strand.note (st : Strand) (i : Instr) (n : Nat) : Strand :=
  let l := ((timing i).writes.filter (fun x => decide (x < 16))).foldl (fun l x => noteReg l x n) st.regAt
  let div := match i with
    | .div _ _ _ | .divu _ _ _ | .rem _ _ _ | .remu _ _ _ => true
    | _ => false
  { st with regAt := if div then noteReg l 16 n else l }

/-- The team likewise, with the dense path's time (R239). -/
def Team.note (m : Team) (i : Instr) (clk n : Nat) : Team :=
  let l := ((timing i).writes.filter (fun x => decide (16 ≤ x))).foldl (fun l x => noteReg l x n) m.regAt
  { m with
    regAt := l
    denseFree := match denseHalves i m with
      | some h => clk + h
      | none => m.denseFree }

/-- Note when the results of the instruction that issues in `r` may be used. -/
def State.noteIssue (s : State) (r : Ref) (i : Instr) : State :=
  match s.strand r with
  | none => s
  | some st =>
    let clk := s.clk + st.fetch.clks - 1
    let far : Nat := match loadFrom i with
      | some (b, o) => match Space.of (st.rd b + o) with
        | .virt => 1
        | _ => 0
      | none => 0
    match r with
    | .sup _ _ => s.setStrand r (st.note i (clk + (timing i).lat + far))
    | .tile t _ =>
      match st.kind, s.team t with
      | .anchored, some m =>
        let n := clk + (timing i).lat + far + (bankTime (vecAddrs i st m) - 1) + (denseHalves i m).getD 0
        (s.setStrand r (st.note i n)).modTeam t (fun m => m.note i clk n)
      | _, _ => s.setStrand r (st.note i (clk + (timing i).lat + far))

end Sys2Proof.Machine
end

