-- ==== Sys2Proof/Machine/Step.lean ====
section
/-! DEFINITION. One step of the machine: the next turn of the agenda, or, when it is empty, the next issue of
this clk, or what stands for its end, or the passing of the clk (DESIGN CHOICE, log entry 1). -/
namespace Sys2Proof.Machine

/-- Issue the strand of a slot: fetch, decode, and the instruction's meaning. A slot that is empty or not
ready issues nothing, and a strand whose operands are not written yet waits for them (R68, R140). -/
def issue (s : State) (r : Ref) : Host.Outcome State Fault Refusal :=
  match s.strand r with
  | none => .next s
  | some st =>
    if s.canIssue r st then
      match s.fetchAt r st with
      | .instr s i f =>
        let n := s.operandsAt r st i
        if s.clk < n then .next (s.setStrand r (st.notBefore n)) else exec i ((s.begin r st f).noteIssue r i)
      | .undefined s c f => exec .undefinedInstruction { s.begin r st f with ev := { cause := c } }
      | .fault s x addr f => exec .instructionFetchFault { s.begin r st f with ev := { fetch := x, value := addr } }
      | .miss s va f => .next (s.fetchMiss r st va f)
    else .next s

/-- Whether a step is an agent's own, with no encoding (DESIGN CHOICE, log entry 47). -/
def happen (s : State) (e : Instr) (x : EvArg) : Host.Outcome State Fault Refusal :=
  if e.isEvent then exec e { s with ev := x } else .fault .badTurn

/-- One step. -/
def step (s : State) : Host.Outcome State Fault Refusal :=
  match s.agenda with
  | .issue r :: rest => issue { s with agenda := rest } r
  | .tick :: rest => .next { s with agenda := rest }.tick
  | .happen e x :: rest => happen { s with agenda := rest } e x
  | [] =>
    match s.nextIssuer with
    | some r => issue s r
    | none => .next (if s.late.isEmpty then s.tick else { s with agenda := s.late, late := [] })

/-- The page that `withFetchWord` maps for its instruction: VA and PA. -/
abbrev fetchVa : Nat := 0x10000000
abbrev fetchPa : Nat := 0x100000

/-- The leaf of that page: valid, 4 KiB, readable, writable, executable, dirty already. -/
abbrev fetchLeaf : W64 := BitVec.ofNat 64 (2 ^ 63 + 2 ^ 57 + 2 ^ 56 + 2 ^ 55 + 2 ^ 54 + fetchPa)

/-- A team of one for that strand (R56). -/
def fetchTeam : Team where
  asid := 1
  ident := 0
  block := 0
  ext := 0
  n := 1
  grant := spadSize
  v := Vector.replicate 32 0
  p := (Vector.replicate 8 0).set 0 (BitVec.allOnes 128)
  ac := []
  toks := Vector.replicate 8 Tok.idle
  q := Vector.replicate 4 []
  aflags := 0
  raised := 0
  deadline := 0
  count := none
  yreq := false
  yreqAt := 0
  residence := 0
  asleepFor := 0
  bart := []
  barts := 0
  lent := []
  lentAt := 0
  tapAt := none
  vxch := 0
  stopping := false
  exch := []
  killed := false
  gang := false
  noExchange := false
  start := 0
  begun := false
  regAt := []
  denseFree := 0

/-- `s` with an instruction of `nbits` bits (numbered from the first word's bit 0) at the PC of an anchored
strand in slot 0 of tile 0.0.0.0, whose issue is the next turn. It stands for the load and launch of a
program (DESIGN CHOICE, log entry 14): the strand, its team and its page are made when tile 0 has none. -/
def State.withFetchWord (s : State) (nbits w : Nat) : State :=
  let bs := leBytes 8 (w % 2 ^ nbits)
  let t := s.tile 0
  let st := match t.strands.find 0 with
    | some x => x
    | none => Strand.fresh 0 1 .anchored 0 0
  let st := { st with
    kind := .anchored
    asid := 1
    pc := BitVec.ofNat 64 fetchVa
    run := .running
    hold := none
    mustAcquire := false
    passed := none
    ready := 0
    regAt := [] }
  let team := match t.team with
    | some m => { m with stopping := false, start := 0, regAt := [], denseFree := 0 }
    | none => fetchTeam
  let e : TlbEnt := ⟨1, fetchVa, 4096, fetchLeaf, true⟩
  let t := { t with
    strands := t.strands.ins 0 st
    team := some team
    gated := false
    tlb := e :: t.tlb }
  { s.setTile 0 t with
    mem := Memory.writeN s.mem fetchPa bs
    poison := s.poison.filter (fun x => x ≠ fetchPa / 64)
    hist := s.hist.filter (fun h => decide (fetchPa + 8 ≤ h.key) || decide (h.key + h.old.length ≤ fetchPa))
    agenda := .issue (.tile 0 0) :: s.agenda }

end Sys2Proof.Machine
end

