-- ==== Sys2Proof/Safety.lean ====
section
/-! DEFINITION. What a safe run is: it meets neither a fault of the model nor a refusal. The terms in which the
statements speak of a step: who executes, what a strand keeps, what a step leaves unchanged. -/
namespace Sys2Proof.Machine

/-- A step that goes on. -/
def Continues (s : State) : Prop := ∃ t, step s = .next t

/-- n steps that all go on. -/
def RunsTo (n : Nat) (s t : State) : Prop := Sys2Proof.core.run n s = .next t

/-! ## Who executes -/

/-- The strand `st` in slot `r` executes the instruction. -/
def State.At (s : State) (r : Ref) (st : Strand) : Prop := s.cur = r ∧ s.strand r = some st

/-- The anchored strand `st` in slot k of tile t executes it, as one of team m, whose accumulators and tokens are there. -/
def State.InTeam (s : State) (t k : Nat) (st : Strand) (m : Team) : Prop :=
  s.At (.tile t k) st ∧ st.kind = .anchored ∧ s.team t = some m ∧ m.noExchange = false

/-- A supervisor strand of die d executes it. -/
def State.BySup (s : State) (d k : Nat) (st : Strand) : Prop := s.At (.sup d k) st

/-! ## What a strand keeps -/

/-- After an instruction that ends with the PC at `pc`: the hold is over, a stepped strand has halted again (R309), the
strand may not issue earlier than before, and everything but the general registers and the acquire time is kept. -/
def Strand.Ended (st st' : Strand) (pc : W64) : Prop :=
  st' = { st with g := st'.g, acq := st'.acq, ready := st'.ready, pc := pc, hold := none, stepping := false, passed := none,
                  run := if st.stepping then .halted else st.run } ∧
  st.ready ≤ st'.ready

/-- Only register d may differ. -/
def Strand.Writes (st st' : Strand) (d : GReg) (x : W64) : Prop :=
  st'.rd d = x ∧ ∀ j, j ≠ d → st'.rd j = st.rd j

/-- No register differs. -/
def Strand.SameRegs (st st' : Strand) : Prop := ∀ j, st'.rd j = st.rd j

/-! ## What a step leaves unchanged -/

/-- Every byte of memory reads as before. -/
def State.SameBytes (s t : State) : Prop := ∀ a, Memory.read t.mem a = Memory.read s.mem a

/-- Every byte outside [k, k + n) reads as before. -/
def State.SameBytesBut (s t : State) (k n : Nat) : Prop :=
  ∀ a, a < k ∨ k + n ≤ a → Memory.read t.mem a = Memory.read s.mem a

/-- The special-purpose registers of every die and package (R300), the loaded context entries and the frisket. -/
def State.SameSpecial (s t : State) : Prop :=
  (∀ d, (t.die d).ctxtab = (s.die d).ctxtab ∧ (t.die d).tiletab = (s.die d).tiletab ∧
    (t.die d).fring = (s.die d).fring ∧ (t.die d).fhead = (s.die d).fhead ∧ (t.die d).ftail = (s.die d).ftail ∧
    (t.die d).svasid = (s.die d).svasid ∧ (t.die d).pstate = (s.die d).pstate ∧ (t.die d).ctxs = (s.die d).ctxs ∧
    (t.die d).grants = (s.die d).grants ∧ (t.die d).frisket = (s.die d).frisket) ∧
  ∀ p, t.pkg p = s.pkg p

/-- Every strand in another slot and every team is as before. -/
def State.SameOthers (s t : State) (r : Ref) : Prop :=
  (∀ q, q ≠ r → t.strand q = s.strand q) ∧ ∀ u, t.team u = s.team u

/-- Nothing but slot `r` has changed of what a program can see. -/
def State.OnlyStrand (s t : State) (r : Ref) : Prop :=
  s.SameOthers t r ∧ s.SameBytes t ∧ s.SameSpecial t

end Sys2Proof.Machine
end

