-- ==== Sys2Proof/Certificates/Slice0/Obligations.lean ====
section
/-! DEFINITION. The statements for the provers. Each names the rules of spec/ it formalises; the values it gives are
written from the rules' own formulas, not from the meanings of Machine/. -/
namespace Sys2Proof.Claims
open Sys2Proof.Machine

/-! ## Scalar values, from the tables of R142 to R147 -/

/-- The low 64 bits of a natural number and of an integer. -/
def nat (n : Nat) : W64 := BitVec.ofNat 64 n
def int (n : Int) : W64 := BitVec.ofInt 64 n

/-- 2^63. -/
abbrev half : Int := 2 ^ 63

/-- Destination and value of the instructions of R142, R143, R144 (EXT), R145, R146 and R147; INS has a statement of its
own. Signed values are integers, shifts are by gb mod 64. -/
def scalarValue (i : Instr) (st : Strand) : Option (GReg × W64) :=
  let u (a : GReg) : Nat := (st.rd a).toNat
  let z (a : GReg) : Int := (st.rd a).toInt
  match i with
  | .add d a b => some (d, nat (u a + u b))
  | .sub d a b => some (d, int (u a - u b))
  | .and d a b => some (d, nat (u a &&& u b))
  | .or d a b => some (d, nat (u a ||| u b))
  | .xor d a b => some (d, nat (u a ^^^ u b))
  | .andn d a b => some (d, nat (u a &&& (2 ^ 64 - 1 - u b)))
  | .shl d a b => some (d, nat (u a * 2 ^ (u b % 64)))
  | .shr d a b => some (d, nat (u a / 2 ^ (u b % 64)))
  | .sar d a b => some (d, int (z a / 2 ^ (u b % 64)))
  | .min d a b => some (d, int (Min.min (z a) (z b)))
  | .max d a b => some (d, int (Max.max (z a) (z b)))
  | .minu d a b => some (d, nat (Min.min (u a) (u b)))
  | .maxu d a b => some (d, nat (Max.max (u a) (u b)))
  | .slt d a b => some (d, if z a < z b then 1 else 0)
  | .sltu d a b => some (d, if u a < u b then 1 else 0)
  | .seq d a b => some (d, if u a = u b then 1 else 0)
  | .sel d a b c => some (d, if u c = 0 then st.rd b else st.rd a)
  | .clz d a => some (d, nat (64 - (u a).size))
  | .ctz d a => some (d, nat ((List.range 64).countP (fun n => u a % 2 ^ (n + 1) == 0)))
  | .popc d a => some (d, nat (((List.range 64).map (fun n => u a / 2 ^ n % 2)).sum))
  | .ext d a b c => some (d, nat (u a / 2 ^ (u b % 64) % 2 ^ Min.min (u c) 64))
  | .lea d a b n => some (d, nat (u a + u b * 2 ^ n.toNat))
  | .tad d a b => some (d, nat (0xE000000000000000 + u a % 2 ^ 19 * 2 ^ 21 + u b % 2 ^ 21))
  | .mul d a b => some (d, nat (u a * u b))
  | .mulh d a b => some (d, int (z a * z b / 2 ^ 64))
  | .mulhu d a b => some (d, nat (u a * u b / 2 ^ 64))
  | .div d a b => some (d, if u b = 0 then int (-1) else int ((z a).tdiv (z b)))
  | .divu d a b => some (d, if u b = 0 then int (-1) else nat (u a / u b))
  | .rem d a b => some (d, if u b = 0 then st.rd a else int ((z a).tmod (z b)))
  | .remu d a b => some (d, if u b = 0 then st.rd a else nat (u a % u b))
  | .addi d a imm => some (d, int (z a + imm.toInt))
  | .andi d a imm => some (d, nat (u a &&& imm.toNat))
  | .ori d a imm => some (d, nat (u a ||| imm.toNat))
  | .xori d a imm => some (d, nat (u a ^^^ imm.toNat))
  | .shli d a n => some (d, nat (u a * 2 ^ n.toNat))
  | .shri d a n => some (d, nat (u a / 2 ^ n.toNat))
  | .sari d a n => some (d, int (z a / 2 ^ n.toNat))
  | .slti d a imm => some (d, if z a < imm.toInt then 1 else 0)
  | .li d imm => some (d, int imm.toInt)
  | .lih d imm => some (d, nat (imm.toNat * 2 ^ 32 + u d % 2 ^ 32))
  | _ => none

/-- The condition of R148 and the offset in words. -/
def branchOf (i : Instr) (st : Strand) : Option (Bool × BitVec 40) :=
  let u (a : GReg) : Nat := (st.rd a).toNat
  let z (a : GReg) : Int := (st.rd a).toInt
  match i with
  | .beq a b off => some (u a = u b, off)
  | .bne a b off => some (u a ≠ u b, off)
  | .blt a b off => some (z a < z b, off)
  | .bge a b off => some (z b ≤ z a, off)
  | .bltu a b off => some (u a < u b, off)
  | .bgeu a b off => some (u b ≤ u a, off)
  | .beqz a off => some (u a = 0, off)
  | .bnez a off => some (u a ≠ 0, off)
  | _ => none

/-- The fault packet of the strand in slot k of tile t, as R305 lays it out, with no token observed. -/
def packet (s : State) (t k : Nat) (st : Strand) (code cause : Byte) (addr : W64) : FaultPkt where
  code := code
  slot := k
  kind := BitVec.ofNat 2 st.kind.code
  tokens := 0
  cause := cause
  gen := (s.tile t).gens.get 0 k
  tile := t
  pc := st.fetch.start
  word := st.fetch.word
  word2 := st.fetch.word2
  addr := addr
  asid := st.asid
  block := st.block
  edition := st.edition
  time := s.podTime
  errs := Vector.replicate 8 0

/-- The strand in slot k of tile t takes a precise fault (R304, R305): it is frozen with its PC at the instruction, or at
its IMX; its registers are as before; the fault packet, with the code, slot, kind, cause, generation, tile, PC, words,
address, context, block, edition and time of R305, is the newest of its die; nothing else a program can see changes. -/
def Traps (s s' : State) (t k : Nat) (st : Strand) (code cause : Byte) (addr : W64) : Prop :=
  s'.strand (.tile t k) = some { st with run := .frozen, hold := none, pc := st.fetch.start, passed := none,
                                         pkt := some (packet s t k st code cause addr) } ∧
  (s'.die (t / 256)).faults = (s.die (t / 256)).faults ++ [packet s t k st code cause addr] ∧
  s.OnlyStrand s' (.tile t k)

/-- The strand in supervisor slot k of die d takes a precise fault: it is frozen likewise, and an escalation to firmware
core 3 follows (R298). -/
def SupTraps (s s' : State) (d k : Nat) (st : Strand) : Prop :=
  s'.strand (.sup d k) = some { st with run := .frozen, hold := none, pc := st.fetch.start, passed := none } ∧
  Turn.happen .supervisorEscalation { die := d, slot := k } ∈ s'.agenda ∧ s.OnlyStrand s' (.sup d k)

/-- The strand is held, as it was, with the given hold (R141). -/
def Held (s s' : State) (r : Ref) (st : Strand) (h : Hold) : Prop :=
  s'.strand r = some { st with hold := some h, since := s.fresh }

end Sys2Proof.Claims

open Sys2Proof Sys2Proof.Machine Sys2Proof.Claims

/-! ## Scalar instructions -/

/-- R142, R143, R145, R146, R147 (and EXT of R144), R140: the destination holds the value of the table, every source being
read before it is written; the PC moves to the next word and nothing else changes. -/
def Sys2Proof.Claims.ScalarResults : Prop :=
  ∀ (s : State) (r : Ref) (st : Strand) (i : Instr) (d : GReg) (x : W64),
    s.At r st → scalarValue i st = some (d, x) →
    ∃ st', exec i s = .next (s.setStrand r st') ∧ st.Ended st' (st.fetch.own + 4) ∧ st'.acq = st.acq ∧
      st.Writes st' d x

/-- R144: INS replaces the bits of gd from position gb[5:0], as many as min(gc, 64), by the low bits of ga; bits that
would pass bit 63 are dropped. -/
def Sys2Proof.Claims.InsertResult : Prop :=
  ∀ (s : State) (r : Ref) (st : Strand) (d a b c : GReg),
    s.At r st →
    ∃ st', exec (.ins d a b c) s = .next (s.setStrand r st') ∧ st.Ended st' (st.fetch.own + 4) ∧ st'.acq = st.acq ∧
      (∀ j, j ≠ d → st'.rd j = st.rd j) ∧
      ∀ n, n < 64 → (st'.rd d).getLsbD n =
        if (st.rd b).toNat % 64 ≤ n ∧ n < (st.rd b).toNat % 64 + Min.min (st.rd c).toNat 64
        then (st.rd a).getLsbD (n - (st.rd b).toNat % 64) else (st.rd d).getLsbD n

/-- R142, R143, R145, R146, R147, R144, R140: ScalarResults and InsertResult. -/
def Obligations.ScalarInstructionResults : Prop := Claims.ScalarResults ∧ Claims.InsertResult

/-- R148, R150, R106: a branch whose condition holds goes to its own address plus 4 times its offset, and otherwise to the
next word; it retires whatever the target holds, and writes no register. -/
def Sys2Proof.Claims.BranchResults : Prop :=
  ∀ (s : State) (r : Ref) (st : Strand) (i : Instr) (c : Bool) (off : BitVec 40),
    s.At r st → branchOf i st = some (c, off) →
    ∃ t st', exec i s = .next t ∧ t.strand r = some st' ∧ s.OnlyStrand t r ∧ st'.SameRegs st ∧ st'.acq = st.acq ∧
      st.Ended st' (if c then st.fetch.own + int (4 * off.toInt) else st.fetch.own + 4)

/-- R106, R149: JAL and JALR write the address of the next word and go to their target, the register of JALR read first; a
JALR whose target has bit 1 or bit 0 set takes the instruction-alignment fault 0x05 with that address, and writes nothing. -/
def Sys2Proof.Claims.JumpResults : Prop :=
  ∀ (s : State) (r : Ref) (st : Strand) (d a : GReg) (off : BitVec 44) (imm : BitVec 40),
    s.At r st →
    (∃ t st', exec (.jal d off) s = .next t ∧ t.strand r = some st' ∧ s.OnlyStrand t r ∧ st'.acq = st.acq ∧
      st.Writes st' d (st.fetch.own + 4) ∧ st.Ended st' (st.fetch.own + int (4 * off.toInt))) ∧
    ((st.rd a + int imm.toInt).toNat % 4 = 0 →
      ∃ t st', exec (.jalr d a imm) s = .next t ∧ t.strand r = some st' ∧ s.OnlyStrand t r ∧ st'.acq = st.acq ∧
        st.Writes st' d (st.fetch.own + 4) ∧ st.Ended st' (st.rd a + int imm.toInt)) ∧
    ((st.rd a + int imm.toInt).toNat % 4 ≠ 0 →
      (∀ t k, r = .tile t k → ∃ s', exec (.jalr d a imm) s = .next s' ∧ Traps s s' t k st 0x05 0 (st.rd a + int imm.toInt)) ∧
      ∀ e k, r = .sup e k → ∃ s', exec (.jalr d a imm) s = .next s' ∧ SupTraps s s' e k st)

/-- R148, R150, R106, R149: BranchResults and JumpResults. -/
def Obligations.ControlResults : Prop := Claims.BranchResults ∧ Claims.JumpResults

/-! ## Loads, stores and atomics -/

namespace Sys2Proof.Claims
open Sys2Proof.Machine

/-- Destination, address, order, bytes and sign of the loads of R151. -/
def loadOf (i : Instr) (st : Strand) : Option (GReg × W64 × Order × Nat × Bool) :=
  let ea (b : GReg) (off : BitVec 38) : W64 := st.rd b + int off.toInt
  match i with
  | .ldb d b o off => some (d, ea b off, o, 1, true)
  | .ldbu d b o off => some (d, ea b off, o, 1, false)
  | .ldh d b o off => some (d, ea b off, o, 2, true)
  | .ldhu d b o off => some (d, ea b off, o, 2, false)
  | .ldw d b o off => some (d, ea b off, o, 4, true)
  | .ldwu d b o off => some (d, ea b off, o, 4, false)
  | .ldd d b o off => some (d, ea b off, o, 8, false)
  | _ => none

/-- Address, value, order, bytes, kind and alignment asked for of the stores of R151 and of RADD (R161). -/
def storeOf (i : Instr) (st : Strand) : Option (W64 × W64 × Order × Nat × StoreKind × Nat) :=
  let ea (b : GReg) (off : BitVec 38) : W64 := st.rd b + int off.toInt
  let al (o : Order) (n : Nat) : Nat := if o = .relaxed then 1 else n
  match i with
  | .stb x b o off => some (ea b off, st.rd x, o, 1, .store, al o 1)
  | .sth x b o off => some (ea b off, st.rd x, o, 2, .store, al o 2)
  | .stw x b o off => some (ea b off, st.rd x, o, 4, .store, al o 4)
  | .std x b o off => some (ea b off, st.rd x, o, 8, .store, al o 8)
  | .radd a v o .w => some (st.rd a, st.rd v, o, 4, .radd .w, 4)
  | .radd a v o .d => some (st.rd a, st.rd v, o, 8, .radd .d, 8)
  | _ => none

/-- Destination, address, order, bytes, sign of the result, and the new contents of the location, for an old value, of the
atomics of R159 and R160; no new contents where nothing is written. -/
def atomicOf (i : Instr) (st : Strand) : Option (GReg × W64 × Order × Nat × Bool × (Nat → Option Nat)) :=
  let n (z : ASize) : Nat := match z with
    | .w => 4
    | .d => 8
  let s (z : ASize) (x : Nat) : Int := (BitVec.ofNat (8 * n z) x).toInt
  let u (z : ASize) (x : Nat) : Nat := x % 2 ^ (8 * n z)
  let go (d a : GReg) (o : Order) (z : ASize) (f : Nat → Option Nat) : Option (GReg × W64 × Order × Nat × Bool × (Nat → Option Nat)) :=
    some (d, st.rd a, o, n z, z == .w, f)
  let v (x : GReg) : Nat := (st.rd x).toNat
  match i with
  | .aadd d a x o z => go d a o z (fun old => some (u z (old + v x)))
  | .aand d a x o z => go d a o z (fun old => some (u z (old &&& v x)))
  | .aor d a x o z => go d a o z (fun old => some (u z (old ||| v x)))
  | .axor d a x o z => go d a o z (fun old => some (u z (old ^^^ v x)))
  | .amin d a x o z => go d a o z (fun old => some (if s z old ≤ s z (v x) then old else u z (v x)))
  | .amax d a x o z => go d a o z (fun old => some (if s z old ≥ s z (v x) then old else u z (v x)))
  | .aminu d a x o z => go d a o z (fun old => some (Min.min old (u z (v x))))
  | .amaxu d a x o z => go d a o z (fun old => some (Max.max old (u z (v x))))
  | .aswp d a x o z => go d a o z (fun _ => some (u z (v x)))
  | .acas d a x c o z => go d a o z (fun old => if old = u z (v c) then some (u z (v x)) else none)
  | .aaddf d a x o .bf => some (d, st.rd a, o, 2, false, fun old => some
      (((FVal.ofBf (BitVec.ofNat 16 old)).add (FVal.ofBf (BitVec.ofNat 16 (v x)))).toBf.1.toNat))
  | .aaddf d a x o .f => some (d, st.rd a, o, 4, false, fun old => some
      (((FVal.ofF32 (BitVec.ofNat 32 old)).add (FVal.ofF32 (BitVec.ofNat 32 (v x)))).toF32.1.toNat))
  | _ => none

/-- The number that n bytes of memory spell, lowest address first (R7). -/
def bytesAt (s : State) (k n : Nat) : Nat :=
  ((List.range n).map (fun j => (Memory.read s.mem (k + j)).toNat * 256 ^ j)).sum

/-- A register's value from n bytes, zero- or sign-extended (R151). -/
def extend (n : Nat) (signed : Bool) (v : Nat) : W64 :=
  if signed then int (BitVec.ofNat (8 * n) v).toInt else nat v

/-- The n bytes at address ea are bytes off, off + 1, ... of tile t's own scratchpad, named by the alias or in tile space
(R24), inside the grant of the team that is resident there, of the strand's context (R25), and not poisoned. -/
def OwnBytes (s : State) (t : Nat) (st : Strand) (m : Team) (ea : W64) (off n : Nat) : Prop :=
  t < 2 ^ 19 ∧ s.team t = some m ∧ m.asid = st.asid ∧ off + n ≤ m.grant ∧ m.grant ≤ 0x180000 ∧
  (ea = nat (0xD000000000000000 + off) ∨
    ea = nat (0xE000000000000000 + t * 2 ^ 21 + off) ∧ s.inPartition (t / 256) st.asid t = true) ∧
  (s.die (t / 256)).resetting = false ∧ s.poisoned (Loc.spad t off).key n = false

/-- The n bytes at ea lie in device memory of the tile's own die, from pa on, in one page that the tile's TLB maps readable
and writable, already dirty (R156, R347); nothing there is poisoned or migrating. -/
def DeviceBytes (s : State) (t : Nat) (st : Strand) (ea : W64) (pa n : Nat) (e : TlbEnt) : Prop :=
  ea.toNat + n ≤ 2 ^ 56 ∧ tlbFind (s.tile t).tlb st.asid ea.toNat = some e ∧ ea.toNat + n ≤ e.va + e.size ∧
  pteR e.leaf = true ∧ pteW e.leaf = true ∧ pteD e.leaf = true ∧ pteHost e.leaf = false ∧
  pa = ptePa e.leaf + ea.toNat % pageBytes (pteSize e.leaf) ∧ pa / 2 ^ 39 = t / 256 ∧
  s.migrating [(.dev pa, n)] = false ∧ s.poisoned pa n = false

/-- No store of the strand is unregistered or in the side log, and for an acquire no store of another strand of the tile to
those bytes is on its way (R80, R81). -/
def Settled (s : State) (t k : Nat) (st : Strand) (o : Order) (l : Loc) (n : Nat) : Prop :=
  s.drained (.tile t k) st = true ∧ (o.isAcq = true → blockingStore (s.tile t).sb st.uid true (segKeys [(l, n)]) = none)

/-- No entry of the context watches anything on the die (R194). -/
def NoWatch (s : State) (d a : Nat) : Prop := ∀ e ∈ (s.die d).frisket, e.1 / 256 ≠ a

/-- The acquire time after an instruction with an order field (R81). -/
def acqAfter (s : State) (st : Strand) (o : Order) : W64 := if o.isAcq then s.podTime else st.acq

end Sys2Proof.Claims

/-- R151 to R154, R24, R25: a load from the tile's own scratchpad gives gd the bytes there, lowest first, extended as its
mnemonic says; with an acquire the strand's acquire time becomes the pod time (R81); nothing else changes. -/
def Sys2Proof.Claims.LoadOwnScratchpad : Prop :=
  ∀ (s : State) (t k : Nat) (st : Strand) (m : Team) (i : Instr) (d : GReg) (ea : W64) (o : Order) (n off : Nat) (sg : Bool),
    s.At (.tile t k) st → loadOf i st = some (d, ea, o, n, sg) → OwnBytes s t st m ea off n →
    (o = .relaxed ∨ ea.toNat % n = 0) → Settled s t k st o (.spad t off) n →
    ∃ s' st', exec i s = .next s' ∧ s'.strand (.tile t k) = some st' ∧ s.OnlyStrand s' (.tile t k) ∧
      st.Ended st' (st.fetch.own + 4) ∧ st'.acq = acqAfter s st o ∧
      st.Writes st' d (extend n sg (bytesAt s (Loc.spad t off).key n))

/-- The byte that the stores of a strand still on their way leave at a place of memory (R86 item 3, R154): the newest one's,
or the byte there. -/
def Sys2Proof.Claims.ownByte (s : State) (t uid k : Nat) : Byte :=
  ((((s.tile t).sb.filter (fun e => !e.registered && e.uid == uid)).filterMap (fun e =>
    (((segKeys e.segs).zip e.data).find? (fun x => x.1 == k)).map (·.2))).getLast?).getD (Memory.read s.mem k)

/-- R86, R154: with stores of its own still on their way (no RADD, none in the side log), a relaxed load from the tile's own
scratchpad gives gd the bytes that they leave there. -/
def Sys2Proof.Claims.LoadQueued : Prop :=
  ∀ (s : State) (t k : Nat) (st : Strand) (m : Team) (i : Instr) (d : GReg) (ea : W64) (n off : Nat) (sg : Bool),
    s.At (.tile t k) st → loadOf i st = some (d, ea, .relaxed, n, sg) → OwnBytes s t st m ea off n →
    (∀ e ∈ (s.tile t).side, e.uid ≠ st.uid) → (∀ e ∈ (s.tile t).sb, e.uid = st.uid → e.kind = .store) →
    ∃ s' st', exec i s = .next s' ∧ s'.strand (.tile t k) = some st' ∧ s.OnlyStrand s' (.tile t k) ∧
      st.Ended st' (st.fetch.own + 4) ∧ st'.acq = st.acq ∧ st.Writes st' d (extend n sg
        ((List.range n).map (fun j => (ownByte s t st.uid ((Loc.spad t off).key + j)).toNat * 256 ^ j)).sum)

/-- R151 to R156: the same for device memory homed on the strand's own die, when the tile's L1 holds no copy of its words or
the load acquires, and no store of the tile to its bytes is on its way, so that the value is the home's (R86). That such a load
is answered in its own turn is the model's choice (log entry 11). -/
def Sys2Proof.Claims.LoadDevice : Prop :=
  ∀ (s : State) (t k : Nat) (st : Strand) (e : TlbEnt) (i : Instr) (d : GReg) (ea : W64) (o : Order) (n pa : Nat) (sg : Bool),
    s.At (.tile t k) st → loadOf i st = some (d, ea, o, n, sg) → DeviceBytes s t st ea pa n e →
    (o = .relaxed ∨ ea.toNat % n = 0) → Settled s t k st o (.dev pa) n →
    blockingStore (s.tile t).sb st.uid true (segKeys [(.dev pa, n)]) = none →
    (o.isAcq = true ∨ ∀ w ∈ wordsOf pa n, (s.tile t).l1.find w = none) →
    ∃ s' st', exec i s = .next s' ∧ s'.strand (.tile t k) = some st' ∧ s.OnlyStrand s' (.tile t k) ∧
      st.Ended st' (st.fetch.own + 4) ∧ st'.acq = acqAfter s st o ∧ st.Writes st' d (extend n sg (bytesAt s pa n))

/-- R158, R92: LDC writes the 8 bytes into gd: those of the bank of the tile's own scratchpad, whatever stores are on their
way, or those of device memory when nothing has been written there (so the read-only path holds one value); it carries no
acquire. -/
def Sys2Proof.Claims.LdcResult : Prop :=
  ∀ (s : State) (t k : Nat) (st : Strand) (d b : GReg) (off38 : BitVec 38) (ea : W64),
    s.At (.tile t k) st → ea = st.rd b + int off38.toInt → ea.toNat % 8 = 0 →
    (∀ m off, OwnBytes s t st m ea off 8 →
      ∃ s' st', exec (.ldc d b off38) s = .next s' ∧ s'.strand (.tile t k) = some st' ∧ s.OnlyStrand s' (.tile t k) ∧
        st.Ended st' (st.fetch.own + 4) ∧ st'.acq = st.acq ∧ st.Writes st' d (nat (bytesAt s (Loc.spad t off).key 8))) ∧
    (∀ e pa, DeviceBytes s t st ea pa 8 e → (∀ h ∈ s.hist, h.key + h.old.length ≤ pa ∨ pa + 8 ≤ h.key) →
      ∃ s' st', exec (.ldc d b off38) s = .next s' ∧ s'.strand (.tile t k) = some st' ∧ s.OnlyStrand s' (.tile t k) ∧
        st.Ended st' (st.fetch.own + 4) ∧ st'.acq = st.acq ∧ st.Writes st' d (nat (bytesAt s pa 8)))

/-- R151 to R154, R24, R25, R86, R151 to R156, R158, R92: LoadOwnScratchpad, LoadQueued, LoadDevice and LdcResult. That a load
of the tile's own die is answered in its own turn is the model's choice (log entry 11), no rule. -/
def Obligations.LoadResults : Prop :=
  Claims.LoadOwnScratchpad ∧ Claims.LoadQueued ∧ Claims.LoadDevice ∧ Claims.LdcResult

/-- R155, R79, R161, R285: a store or RADD to the tile's own scratchpad adds its bytes, lowest first, to the store buffer as
the newest entry, not yet registered, whose registration is due 2 clk later (R381); no byte of memory changes yet. Without
an acquire the instruction retires; with one the strand holds until the registration. -/
def Sys2Proof.Claims.StoreOwnScratchpad : Prop :=
  ∀ (s : State) (t k : Nat) (st : Strand) (m : Team) (i : Instr) (ea v : W64) (o : Order) (n al off : Nat) (kind : StoreKind),
    s.At (.tile t k) st → storeOf i st = some (ea, v, o, n, kind, al) → OwnBytes s t st m ea off n →
    ea.toNat % al = 0 → (∀ e ∈ (s.tile t).side, e.uid ≠ st.uid) → (o.isRel = true → s.drained (.tile t k) st = true) →
    ∃ s' st', exec i s = .next s' ∧ s'.strand (.tile t k) = some st' ∧ s.OnlyStrand s' (.tile t k) ∧
      (s'.tile t).sb = (s.tile t).sb ++ [⟨s.fresh, st.uid, st.asid, st.edition,
        nat (0xE000000000000000 + t * 2 ^ 21 + off), [(.spad t off, n)], leBytes n v.toNat, kind, o, false⟩] ∧
      Timer.mk (s.clk + 2) .storeRegistration { tile := t, n := s.fresh } ∈ s'.timers ∧
      (o.isAcq = false → st.Ended st' (st.fetch.own + 4) ∧ st'.SameRegs st) ∧
      (o.isAcq = true → st' = { st with hold := some (.storeAcq s.fresh), since := st'.since })

/-- R155, R79: a store or RADD to device memory of the tile's own die adds its entry likewise; a store's words are then in
the tile's L1, owned, with the bytes stored. -/
def Sys2Proof.Claims.StoreDevice : Prop :=
  ∀ (s : State) (t k : Nat) (st : Strand) (e : TlbEnt) (i : Instr) (ea v : W64) (o : Order) (n al pa : Nat) (kind : StoreKind),
    s.At (.tile t k) st → storeOf i st = some (ea, v, o, n, kind, al) → DeviceBytes s t st ea pa n e →
    ea.toNat % al = 0 → (∀ x ∈ (s.tile t).side, x.uid ≠ st.uid) → (o.isRel = true → s.drained (.tile t k) st = true) →
    ∃ s' st', exec i s = .next s' ∧ s'.strand (.tile t k) = some st' ∧ s.OnlyStrand s' (.tile t k) ∧
      (s'.tile t).sb = (s.tile t).sb ++
        [⟨s.fresh, st.uid, st.asid, st.edition, ea, [(.dev pa, n)], leBytes n v.toNat, kind, o, false⟩] ∧
      (kind = .store → ∀ w ∈ wordsOf pa n, ∃ c, (s'.tile t).l1.find w = some c ∧ c.owned = true ∧
        ∀ j, j < n → (pa + j) / 4 = w →
          c.val.toNat / 256 ^ ((pa + j) % 4) % 256 = v.toNat / 256 ^ j % 256) ∧
      (o.isAcq = false → st.Ended st' (st.fetch.own + 4) ∧ st'.SameRegs st) ∧
      (o.isAcq = true → st' = { st with hold := some (.storeAcq s.fresh), since := st'.since })

/-- R155, R79, R161, R285: StoreOwnScratchpad and StoreDevice. -/
def Obligations.StoreResults : Prop := Claims.StoreOwnScratchpad ∧ Claims.StoreDevice

/-- R79, R88, R161, R285: a store or RADD that no earlier one of its strand must precede is registered at its home: a store's
bytes are in memory, a RADD has added its value modulo 2^(8n), every byte outside them reads as before, and the entry
counts as registered; R285: when its acknowledgement returns, the entry leaves the store buffer. The home is the tile's own
scratchpad with its team's bank in place, or device memory outside every notice page; no watch of the context is on the
die. -/
def Obligations.RegistrationResults : Prop :=
  ∀ (s : State) (t n k : Nat) (e : StoreEnt) (l : Loc) (key : Nat),
    s.ev.tile = t → s.ev.n = k →
    ((s.tile t).sb.find? (fun x => x.n == k && !x.registered) = some e → s.firstEntry t e = e →
      e.segs = [(l, n)] → e.data.length = n → 0 < n → key = l.key → s.migrating e.segs = false →
      ((∃ off m, l = .spad t off ∧ s.team t = some m ∧ m.asid = e.asid ∧ off + n ≤ m.grant ∧ m.grant ≤ 0x180000 ∧
          (s.die (t / 256)).resetting = false) ∨
        ∃ pa, l = .dev pa ∧ s.noticePage pa = false) →
      (∀ d, l.die = some d → NoWatch s d e.asid) →
      ∃ s', exec .storeRegistration s = .next s' ∧ s.SameBytesBut s' key n ∧ s.SameSpecial s' ∧
        (e.kind = .store → ∀ j, j < n → Memory.read s'.mem (key + j) = e.data.getD j 0) ∧
        (∀ z, e.kind = .radd z → n ≤ 8 → bytesAt s' key n = (bytesAt s key n + leNat e.data) % 2 ^ (8 * n)) ∧
        ∀ x ∈ (s'.tile t).sb, x.n = k → x.registered = true) ∧
    ((∀ x ∈ (s.tile t).sb, x.n = k → x.registered = true) →
      ∃ s', exec .registrationAck s = .next s' ∧ s.SameBytes s' ∧ ∀ x ∈ (s'.tile t).sb, x.n ≠ k)

/-- R159, R160, R162, R163: an atomic on the tile's own scratchpad gives gd the old contents (a .w result sign-extended) and
leaves there the new contents that its row gives, at once; nothing else changes. -/
def Obligations.AtomicOwnScratchpad : Prop :=
  ∀ (s : State) (t k : Nat) (st : Strand) (m : Team) (i : Instr) (d : GReg) (ea : W64) (o : Order) (n off : Nat) (sg : Bool)
    (f : Nat → Option Nat),
    s.At (.tile t k) st → atomicOf i st = some (d, ea, o, n, sg, f) → OwnBytes s t st m ea off n → ea.toNat % n = 0 →
    s.drained (.tile t k) st = true → NoWatch s (t / 256) st.asid →
    ∃ s' st', exec i s = .next s' ∧ s'.strand (.tile t k) = some st' ∧ s.SameOthers s' (.tile t k) ∧ s.SameSpecial s' ∧
      st.Ended st' (st.fetch.own + 4) ∧ st'.acq = acqAfter s st o ∧
      st.Writes st' d (extend n sg (bytesAt s (Loc.spad t off).key n)) ∧
      s.SameBytesBut s' (Loc.spad t off).key n ∧
      bytesAt s' (Loc.spad t off).key n =
        (f (bytesAt s (Loc.spad t off).key n)).getD (bytesAt s (Loc.spad t off).key n)

namespace Sys2Proof.Claims
open Sys2Proof.Machine

/-- Address, bytes and alignment of any access of R151 to R161 (R152, R153). -/
def accessOf (i : Instr) (st : Strand) : Option (W64 × Nat × Nat) :=
  match i with
  | .ldc _ b off => some (st.rd b + int off.toInt, 8, 8)
  | _ =>
    match loadOf i st, storeOf i st, atomicOf i st with
    | some (_, ea, o, n, _), _, _ => some (ea, n, if o = .relaxed then 1 else n)
    | _, some (ea, _, _, n, _, al), _ => some (ea, n, al)
    | _, _, some (_, ea, _, n, _, _) => some (ea, n, n)
    | _, _, _ => none

end Sys2Proof.Claims

/-- R24, R25, R152, R153, R303, R304, R306: a load, store, atomic, RADD or LDC of a tile strand takes, at issue and with
nothing done, the address fault 0x10 where a byte lies outside every range of R24; for its own scratchpad by the alias the context fault 0x11
where the context has no grant and the bounds fault 0x12 beyond the grant; in tile space the bounds fault where it starts past
the scratchpad or runs past it, the context fault outside the partition, and in its own tile the same two by its grant; the
misalignment fault 0x13 where the range and grant are right and the alignment its form asks for is not.
That an access which starts past a scratchpad and ends in the next tile's takes the bounds fault is the model's choice (log entry 62),
as is the grant a context has on a tile from which its team is swapped out (log entry 57). -/
def Obligations.AccessFaults : Prop :=
  ∀ (s : State) (t k : Nat) (st : Strand) (i : Instr) (ea : W64) (n al : Nat),
    s.At (.tile t k) st → accessOf i st = some (ea, n, al) →
    let u := ea.toNat
    let alias0 := 0xD000000000000000
    let space := 0xE000000000000000
    (u < 2 ^ 56 ∧ 2 ^ 56 < u + n ∨ 2 ^ 56 ≤ u ∧ u < alias0 ∨ alias0 + 0x180000 ≤ u ∧ u < space ∨
        space ≤ u ∧ space + 2 ^ 40 < u + n ∨ alias0 ≤ u ∧ u < alias0 + 0x180000 ∧ alias0 + 0x180000 < u + n →
      ∃ s', exec i s = .next s' ∧ Traps s s' t k st 0x10 0 ea) ∧
    (alias0 ≤ u ∧ u + n ≤ alias0 + 0x180000 →
      ((s.tile t).grantOf st.asid = none → ∃ s', exec i s = .next s' ∧ Traps s s' t k st 0x11 0 ea) ∧
      (∀ g, (s.tile t).grantOf st.asid = some g → g < u - alias0 + n →
        ∃ s', exec i s = .next s' ∧ Traps s s' t k st 0x12 0 ea) ∧
      (∀ g, (s.tile t).grantOf st.asid = some g → u - alias0 + n ≤ g → u % al ≠ 0 →
        ∃ s', exec i s = .next s' ∧ Traps s s' t k st 0x13 0 ea)) ∧
    (space ≤ u ∧ u + n ≤ space + 2 ^ 40 →
      let off := (u - space) % 2 ^ 21
      let v := (u - space) / 2 ^ 21
      (0x180000 ≤ off → ∃ s', exec i s = .next s' ∧ Traps s s' t k st 0x12 0 ea) ∧
      (off < 0x180000 → s.inPartition (t / 256) st.asid v = false → ∃ s', exec i s = .next s' ∧ Traps s s' t k st 0x11 0 ea) ∧
      (off < 0x180000 → s.inPartition (t / 256) st.asid v = true →
        (v = t → (s.tile t).grantOf st.asid = none → ∃ s', exec i s = .next s' ∧ Traps s s' t k st 0x11 0 ea) ∧
        (∀ g, v = t → (s.tile t).grantOf st.asid = some g → g < off + n →
          ∃ s', exec i s = .next s' ∧ Traps s s' t k st 0x12 0 ea) ∧
        (v ≠ t → 0x180000 < off + n → ∃ s', exec i s = .next s' ∧ Traps s s' t k st 0x12 0 ea) ∧
        ((v ≠ t ∧ off + n ≤ 0x180000 ∨ v = t ∧ ∃ g, (s.tile t).grantOf st.asid = some g ∧ off + n ≤ g) → u % al ≠ 0 →
          ∃ s', exec i s = .next s' ∧ Traps s s' t k st 0x13 0 ea))) ∧
    (u + n ≤ 2 ^ 56 → u % al ≠ 0 → ∃ s', exec i s = .next s' ∧ Traps s s' t k st 0x13 0 ea)

namespace Sys2Proof.Claims
open Sys2Proof.Machine

/-- The register a load or LDC writes. -/
def loadDest (i : Instr) : Option GReg :=
  match i with
  | .ldb d _ _ _ => some d
  | .ldbu d _ _ _ => some d
  | .ldh d _ _ _ => some d
  | .ldhu d _ _ _ => some d
  | .ldw d _ _ _ => some d
  | .ldwu d _ _ _ => some d
  | .ldd d _ _ _ => some d
  | .ldc d _ _ => some d
  | _ => none

/-- What a strand keeps while its instruction runs, holds or traps: identity, context, class, tokens, kind, children. -/
def Strand.Keeps (st st' : Strand) : Prop :=
  st'.uid = st.uid ∧ st'.asid = st.asid ∧ st'.kind = st.kind ∧ st'.cls = st.cls ∧ st'.toks = st.toks ∧
  st'.children = st.children ∧ st'.block = st.block ∧ st'.edition = st.edition ∧ st'.rank = st.rank

end Sys2Proof.Claims

/-- R154, R155, R158, R161: whatever way a load, LDC, store or RADD of a tile strand ends (retired, held, trapped), the
only register that can differ is a load's gd, and no byte of memory, no other strand, no team and no special-purpose
register changes: a store changes memory only when it is registered. -/
def Obligations.LoadStoreFrame : Prop :=
  ∀ (s s' : State) (t k : Nat) (st : Strand) (i : Instr),
    s.At (.tile t k) st → (loadDest i).isSome ∨ (storeOf i st).isSome → exec i s = .next s' →
    s.OnlyStrand s' (.tile t k) ∧ ∃ st', s'.strand (.tile t k) = some st' ∧ Strand.Keeps st st' ∧
      ∀ j, loadDest i ≠ some j → st'.rd j = st.rd j

namespace Sys2Proof.Claims
open Sys2Proof.Machine

/-- The n bytes at ea, of a supervisor strand of die d, are device memory from pa on (R299): through the physical window, in a die's
128 GiB, or at a device virtual address of the context that sys.svasid names, in one page that the die's TLB maps with the
permissions asked for. -/
def SupBytes (s : State) (d : Nat) (ea : W64) (pa n : Nat) (r w : Bool) : Prop :=
  (ea = nat (0xC000000000000000 + pa) ∧ pa + n ≤ 2 ^ 50 ∧ pa % 2 ^ 39 + n ≤ 2 ^ 37) ∨
  ∃ e : TlbEnt, ea.toNat + n ≤ 2 ^ 56 ∧ (s.die d).svasid ≠ 0 ∧
    tlbFind (s.die d).tlb (s.die d).svasid.toNat ea.toNat = some e ∧ ea.toNat + n ≤ e.va + e.size ∧
    (r = true → pteR e.leaf = true) ∧ (w = true → pteW e.leaf = true) ∧ pteHost e.leaf = false ∧
    pa = ptePa e.leaf + ea.toNat % pageBytes (pteSize e.leaf) ∧ s.migrating [(.dev pa, n)] = false

end Sys2Proof.Claims

/-- R299, R155, R346: a supervisor strand's store to the device-physical window writes its bytes at that physical address
at once, every other byte stays, and the strand goes on: the bytes are in a die's 128 GiB, in no sealed frame and in no
notice page, and no entry of context 0 watches anything on the die.
That it is done at once is the model's choice (log entry 12), as is what it does in a sealed frame (log entry 55) and beyond
the 128 GiB (log entry 49). -/
def Sys2Proof.Claims.SupervisorStorePhysical : Prop :=
  ∀ (s : State) (d k : Nat) (st : Strand) (i : Instr) (ea v : W64) (o : Order) (n al pa : Nat),
    s.At (.sup d k) st → storeOf i st = some (ea, v, o, n, .store, al) → ea = nat (0xC000000000000000 + pa) →
    pa + n ≤ 2 ^ 50 → pa % 2 ^ 39 + n ≤ 2 ^ 37 → s.sealedIn pa n = false → s.noticePage pa = false → ea.toNat % al = 0 →
    NoWatch s (pa / 2 ^ 39) 0 →
    ∃ s' st', exec i s = .next s' ∧ s'.strand (.sup d k) = some st' ∧ st.Ended st' (st.fetch.own + 4) ∧ st'.SameRegs st ∧
      s.SameOthers s' (.sup d k) ∧ s.SameSpecial s' ∧ s.SameBytesBut s' pa n ∧
      ∀ j, j < n → (Memory.read s'.mem (pa + j)).toNat = v.toNat / 256 ^ j % 256

/-- R299, R151, R154, R158: a supervisor strand's load or LDC gives gd the bytes at the home, extended, and changes nothing else. -/
def Sys2Proof.Claims.SupervisorLoad : Prop :=
  ∀ (s : State) (d k : Nat) (st : Strand) (i : Instr) (g : GReg) (ea : W64) (o : Order) (n al pa : Nat) (sg : Bool),
    s.At (.sup d k) st → accessOf i st = some (ea, n, al) → ea.toNat % al = 0 →
    (loadOf i st = some (g, ea, o, n, sg) ∨ (∃ b off, i = .ldc g b off) ∧ o = .relaxed ∧ sg = false) →
    SupBytes s d ea pa n true false → s.poisoned pa n = false →
    ∃ s' st', exec i s = .next s' ∧ s'.strand (.sup d k) = some st' ∧ s.OnlyStrand s' (.sup d k) ∧
      st.Ended st' (st.fetch.own + 4) ∧ st'.acq = acqAfter s st o ∧ st.Writes st' g (extend n sg (bytesAt s pa n))

/-- R299, R155, R161: a supervisor strand's store writes its value, and its RADD adds it, at the home at once, and the strand goes on;
no entry of the context in whose name it is done watches anything on the die. -/
def Sys2Proof.Claims.SupervisorStoreAny : Prop :=
  ∀ (s : State) (d k : Nat) (st : Strand) (i : Instr) (ea v : W64) (o : Order) (n al pa : Nat) (kind : StoreKind),
    s.At (.sup d k) st → storeOf i st = some (ea, v, o, n, kind, al) → ea.toNat % al = 0 →
    SupBytes s d ea pa n false true → s.sealedIn pa n = false → s.noticePage pa = false →
    NoWatch s (pa / 2 ^ 39) (if ea.toNat < 2 ^ 56 then (s.die d).svasid.toNat else 0) →
    ∃ s' st', exec i s = .next s' ∧ s'.strand (.sup d k) = some st' ∧ st.Ended st' (st.fetch.own + 4) ∧ st'.SameRegs st ∧
      st'.acq = acqAfter s st o ∧ s.SameOthers s' (.sup d k) ∧ s.SameSpecial s' ∧ s.SameBytesBut s' pa n ∧
      bytesAt s' pa n = ((if kind = .store then 0 else bytesAt s pa n) + v.toNat) % 256 ^ n

/-- R299, R159, R160, R162: a supervisor strand's atomic gives gd the old contents and leaves the new ones of its row, at once. -/
def Sys2Proof.Claims.SupervisorAtomic : Prop :=
  ∀ (s : State) (d k : Nat) (st : Strand) (i : Instr) (g : GReg) (ea : W64) (o : Order) (n pa : Nat) (sg : Bool)
    (f : Nat → Option Nat),
    s.At (.sup d k) st → atomicOf i st = some (g, ea, o, n, sg, f) → ea.toNat % n = 0 → SupBytes s d ea pa n true true →
    s.poisoned pa n = false → s.sealedIn pa n = false → s.noticePage pa = false →
    NoWatch s (pa / 2 ^ 39) (if ea.toNat < 2 ^ 56 then (s.die d).svasid.toNat else 0) →
    ∃ s' st', exec i s = .next s' ∧ s'.strand (.sup d k) = some st' ∧ s.SameOthers s' (.sup d k) ∧ s.SameSpecial s' ∧
      st.Ended st' (st.fetch.own + 4) ∧ st'.acq = acqAfter s st o ∧ st.Writes st' g (extend n sg (bytesAt s pa n)) ∧
      s.SameBytesBut s' pa n ∧ bytesAt s' pa n = (f (bytesAt s pa n)).getD (bytesAt s pa n)

/-- R299, R298, R152, R153, R127, R362, R156: any access of a supervisor strand freezes it and is escalated where it leaves the ranges of
R299, where sys.svasid is 0 for a device virtual address, and where it is not aligned as its form asks; a load or atomic of
poisoned bytes, or of a page that its leaf does not permit, likewise. On a page that the die's TLB does not hold a load or
atomic holds and the walker is asked, and so does a store, which is never trapped there (R161) but waits (log entry 12). -/
def Sys2Proof.Claims.SupervisorAccessFaults : Prop :=
  ∀ (s : State) (d k : Nat) (st : Strand) (i : Instr) (ea : W64) (n al : Nat),
    s.At (.sup d k) st → accessOf i st = some (ea, n, al) →
    let u := ea.toNat
    let phys := 0xC000000000000000
    let window := 0xF000000000000000
    let traps := ∃ s', exec i s = .next s' ∧ SupTraps s s' d k st
    (u < 2 ^ 56 ∧ (2 ^ 56 < u + n ∨ (s.die d).svasid = 0) ∨ 2 ^ 56 ≤ u ∧ u < phys ∨
        phys ≤ u ∧ u < window ∧ (phys + 2 ^ 50 < u + n ∨ 2 ^ 37 < (u - phys) % 2 ^ 39 + n) ∨ window ≤ u ∧ window + 2 ^ 32 < u + n →
      traps) ∧
    (u % al ≠ 0 → traps) ∧
    (∀ pa, (storeOf i st).isNone → SupBytes s d ea pa n true (atomicOf i st).isSome → s.sealedIn pa n = false →
      s.poisoned pa n = true → traps) ∧
    (u % al = 0 → u + n ≤ 2 ^ 56 → (s.die d).svasid ≠ 0 →
      (∀ e : TlbEnt, tlbFind (s.die d).tlb (s.die d).svasid.toNat u = some e → u + n ≤ e.va + e.size →
        ((storeOf i st).isNone ∧ pteR e.leaf = false ∨ (atomicOf i st).isSome ∧ pteW e.leaf = false → traps) ∧
        ((storeOf i st).isSome → pteW e.leaf = false →
          ∃ s', exec i s = .next s' ∧ Held s s' (.sup d k) st (.storeMiss ea n))) ∧
      (tlbFind (s.die d).tlb (s.die d).svasid.toNat u = none →
        ∃ s', exec i s = .next s' ∧
          Held s s' (.sup d k) st (if (storeOf i st).isSome then .storeMiss ea n else .xlate ea) ∧
          s.OnlyStrand s' (.sup d k) ∧
          Turn.happen .pageWalk { die := d, asid := (s.die d).svasid.toNat, value := ea } ∈ s'.agenda))

/-- R299, R155, R161, R151, R154, R158 to R162, R298: SupervisorStorePhysical, SupervisorLoad, SupervisorStoreAny,
SupervisorAtomic and SupervisorAccessFaults.
That a store performs at once and waits on an absent page is the model's choice (log entry 12), as is what it does in a sealed frame
(log entry 55) and beyond the 128 GiB (log entry 49). -/
def Obligations.SupervisorStore : Prop :=
  Claims.SupervisorStorePhysical ∧ Claims.SupervisorLoad ∧ Claims.SupervisorStoreAny ∧ Claims.SupervisorAtomic ∧
    Claims.SupervisorAccessFaults

/-! ## Coordination -/

namespace Sys2Proof.Claims
open Sys2Proof.Machine

/-- The strand has retired at the next word with an acquire action at this pod time (R81), no register changed. -/
def Acquired (s : State) (st st' : Strand) : Prop :=
  st.Ended st' (st.fetch.own + 4) ∧ st'.acq = s.podTime ∧ st'.SameRegs st

/-- The strand has retired at the next word and nothing else of it has changed. -/
def Retired (st st' : Strand) : Prop :=
  st.Ended st' (st.fetch.own + 4) ∧ st'.acq = st.acq ∧ st'.SameRegs st

/-- The strand tables of a tile list each slot once. -/
def SlotsOnce (s : State) (t : Nat) : Prop := Table.risingFrom 0 (s.tile t).strands = true

end Sys2Proof.Claims

/-- R107, R110, R111: NOP, LIKELY and UNLIKELY only let the strand go on; PREF lets it go on and changes no register, no
byte of memory, no other strand, no team and no special-purpose register, whatever its address. -/
def Sys2Proof.Claims.HintResults : Prop :=
  ∀ (s : State) (r : Ref) (st : Strand), s.At r st →
    (∀ i ∈ [Instr.nop, .likely, .unlikely], ∃ st', exec i s = .next (s.setStrand r st') ∧ Retired st st') ∧
    ∀ base intent off, ∃ s' st', exec (.pref base intent off) s = .next s' ∧ s'.strand r = some st' ∧ Retired st st' ∧
      s.OnlyStrand s' r

/-- R89, R169, R298: FENCE.L, and FENCE.H in a supervisor strand, only let the strand go on: every prior load has performed
and every prior store is in the store buffer when it issues. R90 for FENCE.H in a tile strand: with prior stores still
unregistered it holds for its release action; else it holds, having sent a serialise request to every tile on which a strand
of the context is resident, or a store of one is still on its way, as many acknowledgements outstanding. -/
def Sys2Proof.Claims.FenceResults : Prop :=
  ∀ (s : State) (r : Ref) (st : Strand), s.At r st →
    (∃ st', exec .fenceL s = .next (s.setStrand r st') ∧ Retired st st') ∧
    (∀ d k, r = .sup d k → ∃ st', exec .fenceH s = .next (s.setStrand r st') ∧ Retired st st') ∧
    (∀ t k, r = .tile t k → s.drained r st = false →
      ∃ s', exec .fenceH s = .next s' ∧ Held s s' r st .release ∧ s.OnlyStrand s' r) ∧
    (∀ t k, r = .tile t k → s.drained r st = true →
      ∃ s' st', exec .fenceH s = .next s' ∧ s'.strand r = some st' ∧
        st' = { st with hold := some (.fence s.fresh (s.tilesOf st.asid).length), since := st'.since } ∧
        s.OnlyStrand s' r ∧
        ∀ u ∈ s.tilesOf st.asid,
          Turn.happen .serialiseRequest { tile := u, asid := st.asid, n := s.fresh, k := st.uid } ∈ s'.agenda)

/-- R90 steps 2 to 4, R169: a tile where no other request waits, without side-log entries of the context, and without
unregistered stores of it, serves a serialise request that arrives at once: its unowned L1 words lose their valid bit, the owned ones stay, its strands of the context have
this pod time as acquire time, and its acknowledgement follows; the last acknowledgement of FENCE.H number n lets the strand
acquire and go on, an earlier one only counts. -/
def Sys2Proof.Claims.SerialiseResults : Prop :=
  ∀ (s : State) (t a : Nat), s.ev.tile = t → s.ev.asid = a →
    (s.ev.flag = false → (s.tile t).serials = [] → (∀ e ∈ (s.tile t).side, e.asid ≠ a) → (∀ e ∈ (s.tile t).sb, e.asid = a → e.registered = true) →
      ∃ s', exec .serialiseRequest s = .next s' ∧ s.SameBytes s' ∧ s.SameSpecial s' ∧
        (s'.tile t).l1 = (s.tile t).l1.filter (fun e => e.2.owned) ∧
        (∀ k st, s.strand (.tile t k) = some st → st.asid = a →
          s'.strand (.tile t k) = some { st with acq := s.podTime }) ∧
        Turn.happen .serialiseAck { n := s.ev.n, k := s.ev.k } ∈ s'.agenda) ∧
    (∀ r st n acks, s.findUid s.ev.k = some r → s.strand r = some st → st.hold = some (.fence n acks) → s.ev.n = n →
      (acks ≤ 1 → ∃ s' st', exec .serialiseAck s = .next s' ∧ s'.strand r = some st' ∧ Acquired s st st' ∧
        s.OnlyStrand s' r) ∧
      (1 < acks → exec .serialiseAck s = .next (s.setStrand r { st with hold := some (.fence n (acks - 1)) })))

/-- R89, R169, R298, R90, R107, R110, R111: FenceResults and SerialiseResults and HintResults. -/
def Obligations.FenceAndHintResults : Prop := Claims.FenceResults ∧ Claims.SerialiseResults ∧ Claims.HintResults

/-- R170: a BART whose release action is complete makes its strand arrive and hold; when every non-exited anchored strand of
the tile has arrived, the release is due in the next clk. At the release every strand that waits acquires and goes on,
the team's arrivals are empty again, one more barrier is counted, and through this clk each strand inherits the class that it
inherited while it waited (R70). -/
def Sys2Proof.Claims.BartResults : Prop :=
  (∀ (s : State) (t k : Nat) (st : Strand) (m : Team), s.InTeam t k st m →
    (s.drained (.tile t k) st = false →
      ∃ s', exec .bart s = .next s' ∧ Held s s' (.tile t k) st .release ∧ s.OnlyStrand s' (.tile t k)) ∧
    (s.drained (.tile t k) st = true →
      ∃ s', exec .bart s = .next s' ∧ Held s s' (.tile t k) st .bart ∧ s.SameBytes s' ∧ s.SameSpecial s' ∧
        (∀ q, q ≠ .tile t k → s'.strand q = s.strand q) ∧
        s'.team t = some { m with bart := if m.bart.contains k then m.bart else m.bart ++ [k] } ∧
        ((∀ e ∈ (s.tile t).strands, e.1 < 8 → e.1 = k ∨ e.1 ∈ m.bart) → k < 8 →
          Timer.mk (s.clk + 1) .bartRelease { tile := t } ∈ s'.timers))) ∧
  (∀ (s : State) (t : Nat) (m : Team), s.ev.tile = t → s.team t = some m → SlotsOnce s t → (s.tile t).bartFull = true →
    ∃ s' m', exec .bartRelease s = .next s' ∧ s'.team t = some m' ∧
      m' = { m with bart := [], barts := m.barts + 1, lent := m'.lent, lentAt := s.clk } ∧
      s.SameBytes s' ∧ s.SameSpecial s' ∧
      ∀ k st, k < 8 → s.strand (.tile t k) = some st → st.hold = some .bart →
        ∃ st', s'.strand (.tile t k) = some st' ∧ Acquired s st st' ∧
          (s'.tile t).inherited s.clk k st' = (s.tile t).inherited s.clk k st)

/-- R172, R171: BARW holds from its issue with the limit ga[31:0], whose expiry is due that many clk later (at once for 0).
In the clk after its release a wire instance, the taps of whose members have all risen, lets every arrived strand of the
claiming edition acquire and go on, gd holding the number of members in bits [47:32] and again, as taps raised, in [31:16], time-out bit 63 clear. A strand whose limit
expires, with no release by that clk, goes on without an acquire, gd holding bit 63, the members and the taps raised, in an
instance its edition holds. -/
def Sys2Proof.Claims.BarwResults : Prop :=
  (∀ (s : State) (t k : Nat) (st : Strand) (m : Team) (d a : GReg) (sc : BarScope), s.InTeam t k st m →
    let limit := (st.rd a).toNat % 2 ^ 32
    ∃ s', exec (.barw d a sc) s = .next s' ∧ Held s s' (.tile t k) st (.barw d sc (s.clk + limit)) ∧
      (∀ q, q ≠ .tile t k → s'.strand q = s.strand q) ∧ s.SameBytes s' ∧ s.SameSpecial s' ∧
      (∀ u, s'.team u = (s.team u).map (fun x => { x with tapAt := (s'.team u).bind (·.tapAt) })) ∧
      (0 < limit → Timer.mk (s.clk + limit) .barwTimeout { tile := t, slot := k, n := st.uid } ∈ s'.timers) ∧
      (limit = 0 → Turn.happen .barwTimeout { tile := t, slot := k, n := st.uid } ∈ s'.agenda)) ∧
  (∀ (s : State) (t k : Nat) (st : Strand) (m : Team) (d : GReg) (sc : BarScope) (x : Nat) (c : Claim),
    s.ev.die = t / 256 → s.ev.scope = sc → s.ev.k = lineOf sc t → SlotsOnce s t → Table.risingFrom 0 s.tiles = true →
    s.strand (.tile t k) = some st → k < 8 → st.kind = .anchored → st.hold = some (.barw d sc x) →
    s.drained (.tile t k) st = true → s.team t = some m → m.asid = c.asid → m.ident = c.ident →
    (s.die (t / 256)).claims.find? (fun c => c.scope == sc && c.line == lineOf sc t) = some c →
    c.release.map (· + 1) = some s.clk →
    (∀ u ∈ s.members (t / 256) sc (lineOf sc t) c.asid c.ident, (s.tapClk sc c.asid c.ident u).isSome = true) →
    let n := (s.members (t / 256) sc (lineOf sc t) c.asid c.ident).length
    ∃ s' st', exec .barwRelease s = .next s' ∧ s'.strand (.tile t k) = some st' ∧ st.Ended st' (st.fetch.own + 4) ∧
      st'.acq = s.podTime ∧ st.Writes st' d (nat (n % 2 ^ 16 * 2 ^ 32 + n % 2 ^ 16 * 2 ^ 16)) ∧ s.SameBytes s') ∧
  (∀ (s : State) (t k : Nat) (st : Strand) (m : Team) (d : GReg) (sc : BarScope) (x : Nat),
    s.ev.tile = t → s.ev.slot = k → s.ev.n = st.uid → SlotsOnce s t → Table.risingFrom 0 s.tiles = true →
    s.strand (.tile t k) = some st → k < 8 → st.hold = some (.barw d sc x) → x ≤ s.clk → s.team t = some m →
    (∃ c ∈ (s.die (t / 256)).claims, c.scope = sc ∧ c.line = lineOf sc t ∧ c.asid = m.asid ∧ c.ident = m.ident) →
    (∀ c ∈ (s.die (t / 256)).claims, c.scope = sc → c.line = lineOf sc t → ∀ n, c.release = some n → s.clk < n) →
    let members := s.members (t / 256) sc (lineOf sc t) m.asid m.ident
    let raised := (members.filter (s.tapped sc m.asid m.ident)).length
    ∃ s' st', exec .barwTimeout s = .next s' ∧ s'.strand (.tile t k) = some st' ∧ st.Ended st' (st.fetch.own + 4) ∧
      st'.acq = st.acq ∧ s.SameBytes s' ∧
      st.Writes st' d (nat (2 ^ 63 + members.length % 2 ^ 16 * 2 ^ 32 + raised % 2 ^ 16 * 2 ^ 16)))

/-- R170, R172, R171: BartResults and BarwResults. -/
def Obligations.BarrierResults : Prop := Claims.BartResults ∧ Claims.BarwResults

/-- R170: the BART of the last strand of its tile to arrive, its release action complete, is issued in clk c and completes
at the release in clk c + 1: the strand, and every other one that waits there, acquires and goes on at the next word; the
team has no arrivals and one more barrier counted. -/
def Sys2Proof.Claims.BartCompletes : Prop :=
  ∀ (s : State) (t k : Nat) (st : Strand) (m : Team), s.InTeam t k st m → s.drained (.tile t k) st = true → k < 8 →
    SlotsOnce s t → (∀ e ∈ (s.tile t).strands, e.1 < 8 → e.1 = k ∨ e.1 ∈ m.bart) →
    ∃ s1 st1, exec .bart s = .next s1 ∧ s1.strand (.tile t k) = some st1 ∧
      st1 = { st with hold := some .bart, since := s.fresh } ∧
      Timer.mk (s.clk + 1) .bartRelease { tile := t } ∈ s1.timers ∧
      let r : State := { s1 with clk := s.clk + 1, ev := { tile := t } }
      ∃ s2 st2 m2, exec .bartRelease r = .next s2 ∧ s2.strand (.tile t k) = some st2 ∧ Acquired r st1 st2 ∧
        s2.team t = some m2 ∧ m2.bart = [] ∧ m2.barts = m.barts + 1 ∧ s.SameBytes s2 ∧ s.SameSpecial s2 ∧
        ∀ j x, j < 8 → j ≠ k → s.strand (.tile t j) = some x → x.hold = some .bart →
          ∃ x', s2.strand (.tile t j) = some x' ∧ Acquired r x x'

/-- R171, R172: the BARW of a team of one strand, its release action complete, that is the only member of a free wire
instance in which nobody has arrived, is issued in clk c. Its tap rises in c + 1 and the instance is claimed with its
release L clk later. With a limit above L it completes by the release, which reaches the strand in the clk after: it
acquires and goes on, gd holding one member, one tap and no time-out. With a limit up to L it completes at the limit,
without an acquire, gd holding bit 63, one member and the taps raised: none for the limit 0, else one. -/
def Sys2Proof.Claims.BarwCompletes : Prop :=
  ∀ (s : State) (t k : Nat) (st : Strand) (m : Team) (d a : GReg) (sc : BarScope),
    s.InTeam t k st m → s.drained (.tile t k) st = true → k < 8 → SlotsOnce s t → Table.risingFrom 0 s.tiles = true →
    (∀ e ∈ (s.tile t).strands, e.1 < 8 → e.1 = k) → m.tapAt = none →
    s.members (t / 256) sc (lineOf sc t) m.asid m.ident = [t] → s.arrivals (t / 256) sc (lineOf sc t) = [] →
    (∀ c ∈ (s.die (t / 256)).claims, ¬(c.scope = sc ∧ c.line = lineOf sc t)) →
    let limit := (st.rd a).toNat % 2 ^ 32
    let L := if sc = .die then 8 else 4
    ∃ s1 st1, exec (.barw d a sc) s = .next s1 ∧ s1.strand (.tile t k) = some st1 ∧
      st1 = { st with hold := some (.barw d sc (s.clk + limit)), since := s.fresh } ∧
      Timer.mk (s.clk + 1 + L + 1) .barwRelease { die := t / 256, scope := sc, k := lineOf sc t } ∈ s1.timers ∧
      (L < limit →
        let r : State := { s1 with clk := s.clk + 1 + L + 1, ev := { die := t / 256, scope := sc, k := lineOf sc t } }
        ∃ s2 st2, exec .barwRelease r = .next s2 ∧ s2.strand (.tile t k) = some st2 ∧
          st1.Ended st2 (st.fetch.own + 4) ∧ st2.acq = r.podTime ∧ st1.Writes st2 d (nat (2 ^ 32 + 2 ^ 16)) ∧
          s.SameBytes s2 ∧ s.SameSpecial s2) ∧
      (limit ≤ L →
        let r : State := { s1 with clk := s.clk + limit, ev := { tile := t, slot := k, n := st.uid } }
        ∃ s2 st2, exec .barwTimeout r = .next s2 ∧ s2.strand (.tile t k) = some st2 ∧
          st1.Ended st2 (st.fetch.own + 4) ∧ st2.acq = st.acq ∧
          st1.Writes st2 d (nat (2 ^ 63 + 2 ^ 32 + if limit = 0 then 0 else 2 ^ 16)) ∧ s.SameBytes s2 ∧ s.SameSpecial s2)

/-- R170, R171, R172: BartCompletes and BarwCompletes. -/
def Obligations.BarrierCompletion : Prop := Claims.BartCompletes ∧ Claims.BarwCompletes

/-- R110, R285, R84: WAIT goes on when no masked token is pending or failed, or when its wait is over already (resumed after
its own token fault), with an acquire action when a masked token is that of a LAUNCH of the strand; it holds while one is
pending, and otherwise takes the token fault 0x31, whose packet names the failed tokens and their error words and which
clears their failed bits (here for a light strand, whose tokens are its own, and for an anchored one, whose tokens are its
team's). -/
def Obligations.WaitResults : Prop :=
  ∀ (s : State) (t k : Nat) (st : Strand) (mask : Byte), s.At (.tile t k) st →
    ((st.kind ≠ .anchored) ∨ ∃ m, s.InTeam t k st m) →
    let v := s.toks (.tile t k) st
    let on (n : Fin 8) : Bool := mask.getLsbD n
    let ended : Prop := st.passed = some st.fetch.start
    (ended ∨ (∀ n : Fin 8, on n = true → v[n].pending = false ∧ v[n].failed = false) →
      ((∀ n : Fin 8, on n = true → v[n].launch ≠ some st.uid) →
        ∃ st', exec (.wait mask) s = .next (s.setStrand (.tile t k) st') ∧ Retired st st') ∧
      ((∃ n : Fin 8, on n = true ∧ v[n].launch = some st.uid) →
        ∃ s' st', exec (.wait mask) s = .next s' ∧ s'.strand (.tile t k) = some st' ∧ Acquired s st st' ∧
          s.OnlyStrand s' (.tile t k))) ∧
    (¬ended → (∃ n : Fin 8, on n = true ∧ v[n].pending = true) →
      ∃ s', exec (.wait mask) s = .next s' ∧ Held s s' (.tile t k) st (.wait mask) ∧ s.OnlyStrand s' (.tile t k)) ∧
    (¬ended → (∀ n : Fin 8, on n = true → v[n].pending = false) → (∃ n : Fin 8, on n = true ∧ v[n].failed = true) →
      ∃ s' st' p, exec (.wait mask) s = .next s' ∧ s'.strand (.tile t k) = some st' ∧ st'.run = .frozen ∧
        st'.pc = st.fetch.start ∧ st'.SameRegs st ∧ s.SameBytes s' ∧
        (s'.die (t / 256)).faults = (s.die (t / 256)).faults ++ [p] ∧ p.code = 0x31 ∧ p.slot = k ∧ p.tile = t ∧
        (∀ n : Fin 8, p.tokens.getLsbD n = (on n && v[n].failed)) ∧
        (∀ n : Fin 8, p.errs[n] = if on n = true ∧ v[n].failed = true then v[n].err else 0) ∧
        ∀ n : Fin 8, (s'.toks (.tile t k) st')[n] = if on n = true ∧ v[n].failed = true then Tok.idle else v[n])

/-- R173, R285: WAITV on the tile's own scratchpad reads as an acquire load; where the value differs from gb at the access
width it acquires and goes on, and where it is equal it waits on that location. A change of the location ends the wait: the
waiter acquires and issues its next instruction 3 clk later at the earliest; while the value is equal it goes on waiting. -/
def Obligations.WaitvResults : Prop :=
  (∀ (s : State) (t k : Nat) (st : Strand) (m : Team) (a b : GReg) (z : ASize) (off : Nat),
    let n := match z with
      | .w => 4
      | .d => 8
    s.At (.tile t k) st → OwnBytes s t st m (st.rd a) off n → (st.rd a).toNat % n = 0 →
    Settled s t k st .acquire (.spad t off) n → (∀ e ∈ s.data, e.1 ≠ st.uid) →
    ((bytesAt s (Loc.spad t off).key n ≠ (st.rd b).toNat % 2 ^ (8 * n)) →
      ∃ s' st', exec (.waitv a b z) s = .next s' ∧ s'.strand (.tile t k) = some st' ∧ Acquired s st st' ∧
        s.OnlyStrand s' (.tile t k)) ∧
    (bytesAt s (Loc.spad t off).key n = (st.rd b).toNat % 2 ^ (8 * n) →
      ∃ s', exec (.waitv a b z) s = .next s' ∧ s.OnlyStrand s' (.tile t k) ∧
        Held s s' (.tile t k) st (.waitv (.spad t off) n (nat ((st.rd b).toNat % 2 ^ (8 * n)))))) ∧
  (∀ (s : State) (t k off n : Nat) (st : Strand) (m : Team) (v : W64),
    s.ev.tile = t → s.ev.slot = k → s.strand (.tile t k) = some st → st.hold = some (.waitv (.spad t off) n v) →
    s.team t = some m → m.asid = st.asid → off + n ≤ m.grant → (s.die (t / 256)).resetting = false →
    s.poisoned (Loc.spad t off).key n = false →
    (bytesAt s (Loc.spad t off).key n ≠ v.toNat % 2 ^ (8 * n) →
      ∃ s' st', exec .waitvWake s = .next s' ∧ s'.strand (.tile t k) = some st' ∧ Acquired s st st' ∧
        s.clk + 3 ≤ st'.ready ∧ s.OnlyStrand s' (.tile t k)) ∧
    (bytesAt s (Loc.spad t off).key n = v.toNat % 2 ^ (8 * n) → exec .waitvWake s = .next s))

/-- R174: WAITX takes a latched event: gd has its code, the latch is clear, the strand acquires and goes on; with a clear
latch it waits, to the limit ga[31:0] when that is not 0. A wake event on a tile where no strand waits sets a clear latch to
its code; where strands wait it ends each of them, gd having the code, and leaves the latch. The limit ends a WAITX with code
0, unless a wake event of the tile is among the steps of this clk. -/
def Obligations.WaitxResults : Prop :=
  (∀ (s : State) (t k : Nat) (st : Strand) (d a : GReg), s.At (.tile t k) st →
    let limit := (st.rd a).toNat % 2 ^ 32
    ((s.tile t).latch ≠ 0 →
      ∃ s' st', exec (.waitx d a) s = .next s' ∧ s'.strand (.tile t k) = some st' ∧ st.Ended st' (st.fetch.own + 4) ∧
        st'.acq = s.podTime ∧ st.Writes st' d (nat (s.tile t).latch) ∧ (s'.tile t).latch = 0 ∧
        s.OnlyStrand s' (.tile t k)) ∧
    ((s.tile t).latch = 0 →
      ∃ s', exec (.waitx d a) s = .next s' ∧ s.OnlyStrand s' (.tile t k) ∧
        Held s s' (.tile t k) st (.waitx d (if limit = 0 then 0 else s.clk + limit)) ∧
        (0 < limit → Timer.mk (s.clk + limit) .waitxLimit { tile := t, slot := k, n := st.uid } ∈ s'.timers))) ∧
  (∀ (s : State) (t : Nat), s.ev.tile = t → SlotsOnce s t → (∀ e ∈ s.agenda, e.wakeCode t = none) →
    ((∀ e ∈ (s.tile t).strands, e.2.inWaitx = none) →
      ∃ s', exec .wakeEvent s = .next s' ∧ (s'.tile t).latch = (if (s.tile t).latch = 0 then s.ev.k else (s.tile t).latch) ∧
        (∀ r, s'.strand r = s.strand r) ∧ s.SameBytes s') ∧
    (∀ k st d x, s.strand (.tile t k) = some st → st.hold = some (.waitx d x) →
      ∃ s' st', exec .wakeEvent s = .next s' ∧ s'.strand (.tile t k) = some st' ∧ st.Ended st' (st.fetch.own + 4) ∧
        st'.acq = s.podTime ∧ st.Writes st' d (nat s.ev.k) ∧ (s'.tile t).latch = (s.tile t).latch ∧ s.SameBytes s')) ∧
  (∀ (s : State) (t k : Nat) (st : Strand) (d : GReg) (limit : Nat), s.ev.tile = t → s.ev.slot = k → s.ev.n = st.uid →
    s.strand (.tile t k) = some st → st.hold = some (.waitx d limit) → 0 < limit → limit ≤ s.clk →
    (s.ev.flag = false → exec .waitxLimit s = .next (s.atEnd .waitxLimit { s.ev with flag := true })) ∧
    (s.ev.flag = true → (∀ e ∈ s.agenda, e.wakeCode t = none) →
    ∃ s' st', exec .waitxLimit s = .next s' ∧ s'.strand (.tile t k) = some st' ∧ st.Ended st' (st.fetch.own + 4) ∧
      st'.acq = s.podTime ∧ st.Writes st' d 0 ∧ s.OnlyStrand s' (.tile t k)))

namespace Sys2Proof.Claims
open Sys2Proof.Machine

/-- Word 0 of a save declaration at a grant offset passes R176. -/
def DeclHead (word : Nat → Nat) (grant off : Nat) : Prop :=
  off % 8 = 0 ∧ off + 8 ≤ grant ∧ word 0 / 2 ^ 16 % 2 ^ 16 = 0

/-- Words 1 onward pass R176: the count, and each range's reserved bits, length and offset. -/
def DeclTail (word : Nat → Nat) (grant off : Nat) : Prop :=
  let n := word 1 / 2 ^ 16 % 16
  off + 16 + 8 * n ≤ grant ∧ word 1 / 2 ^ 20 = 0 ∧ n ≤ 8 ∧
  ∀ i, i < n → let w := word (2 + i)
    w / 2 ^ 42 = 0 ∧ w / 2 ^ 21 ≠ 0 ∧ w / 2 ^ 21 % 64 = 0 ∧ w % 2 ^ 21 % 64 = 0 ∧ w % 2 ^ 21 + w / 2 ^ 21 ≤ grant

/-- The words of the lead's whole declaration at YIELD: read at its own YIELD, or, if another strand was lead then, read now. -/
def LeadWords (s : State) (t : Nat) (m : Team) (lead : Strand) (ws : List W64) : Prop :=
  ∃ addr ws0, lead.hold = some (.yield addr ws0) ∧
    if 2 ≤ ws0.length then ws = ws0 else s.declWords t lead m.grant addr true = some ws

/-- Byte o of the grant is in a range that the declaration names (R176). -/
def InDecl (ws : List W64) (o : Nat) : Prop :=
  ∃ i w, i < (ws.getD 1 0).toNat / 2 ^ 16 % 16 ∧ ws[2 + i]? = some w ∧ w.toNat % 2 ^ 21 ≤ o ∧
    o < w.toNat % 2 ^ 21 + w.toNat / 2 ^ 21 % 2 ^ 21

end Sys2Proof.Claims

/-- R176: the words of a strand's save declaration, with no store of the strand on its way: word 0 alone, or for the lead
words 0 and 1 and one for each range; none where the address is no alias address or a check fails. -/
def Sys2Proof.Claims.DeclarationResults : Prop :=
  ∀ (s : State) (t : Nat) (st : Strand) (grant : Nat) (addr : W64),
    (addr.toNat < 0xD000000000000000 ∨ 0xD000000000180000 ≤ addr.toNat → ∀ all, s.declWords t st grant addr all = none) ∧
    ∀ off, off < 0x180000 → addr = nat (0xD000000000000000 + off) → t < 2 ^ 19 → grant ≤ 0x180000 → s.drained (.tile t 0) st = true →
      let word (i : Nat) : Nat := bytesAt s (Loc.spad t (off + 8 * i)).key 8
      (DeclHead word grant off → s.declWords t st grant addr false = some [nat (word 0)]) ∧
      (DeclHead word grant off → DeclTail word grant off → s.declWords t st grant addr true =
        some ((List.range (2 + word 1 / 2 ^ 16 % 16)).map (fun i => nat (word i)))) ∧
      (¬ DeclHead word grant off → ∀ all, s.declWords t st grant addr all = none) ∧
      (¬ DeclTail word grant off → s.declWords t st grant addr true = none)

/-- R175: a YIELD whose save declaration fails its check takes the yield-declaration fault 0x16 with the declaration's address;
one that passes holds when its release action is complete. -/
def Sys2Proof.Claims.YieldArrives : Prop :=
  ∀ (s : State) (t k : Nat) (st : Strand) (m : Team) (a : GReg), s.InTeam t k st m →
    let lead := (s.tile t).anchored.all (fun e => decide (k ≤ e.1))
    (s.declWords t st m.grant (st.rd a) lead = none →
      ∃ s', exec (.yield a) s = .next s' ∧ Traps s s' t k st 0x16 0 (st.rd a)) ∧
    (∀ ws, s.declWords t st m.grant (st.rd a) lead = some ws → s.drained (.tile t k) st = true →
      ∃ s', exec (.yield a) s = .next s' ∧ Held s s' (.tile t k) st (.yield (st.rd a) ws) ∧ s.OnlyStrand s' (.tile t k))

/-- R175, R177: when every anchored strand of the tile waits in YIELD, no team token is pending and both engines are quiet,
a lead whose words 1 onward were not read at its own YIELD and fail now takes the fault there, and no other strand goes on; with
the lead's declaration right and no yield request, all acquire and go on, and the deadline counter starts again. -/
def Sys2Proof.Claims.YieldRetires : Prop :=
  ∀ (s : State) (t k : Nat) (lead : Strand) (m : Team), SlotsOnce s t → (s.tile t).yieldReady = true → s.team t = some m →
    (s.tile t).anchored.head? = some (k, lead) →
    (∀ addr ws, lead.hold = some (.yield addr ws) → ws.length < 2 → s.declWords t lead m.grant addr true = none →
      Traps s (s.yieldTry t) t k lead 0x16 0 addr) ∧
    (∀ ws, LeadWords s t m lead ws → m.yreq = false →
      s.SameBytes (s.yieldTry t) ∧
      ((s.yieldTry t).team t).map (·.count) = some (if m.deadline = 0 then none else some m.deadline) ∧
      ∀ j st, j < 8 → s.strand (.tile t j) = some st →
        ∃ st', (s.yieldTry t).strand (.tile t j) = some st' ∧ Acquired s st st')

/-- R177, R178, R333: with the yield request set and a record of the save area free, the tile is released and its last save, not
yet complete, holds the team: each strand at the word after its YIELD with the g registers it declared, the v, p (p0 always) and
ac registers that the lead declared, every other one zero, the tokens, queues and sys.aflags as they are; the image has the bytes of the declared
ranges, and the incoming fill begins no earlier than their lines and the clk after take.
The index is the model's choice (log entry 15), as is that the bytes move at once (log entry 10). -/
def Sys2Proof.Claims.YieldCompact : Prop :=
  ∀ (s : State) (t k : Nat) (lead : Strand) (m : Team) (ws : List W64) (idx : Nat), SlotsOnce s t →
    (s.tile t).yieldReady = true → s.team t = some m → (s.tile t).anchored.head? = some (k, lead) → LeadWords s t m lead ws →
    m.yreq = true → s.saveIndex m.asid = some idx →
    let s' := s.yieldTry t
    let mask := (ws.getD 0 0).toNat
    let team := { m with yreq := false, stopping := false, exch := [], noExchange := false, tapAt := none }
    s'.team t = none ∧ (∀ j, j < 8 → s'.strand (.tile t j) = none) ∧
    ∃ x, (s'.tile t).swapped = (s.tile t).swapped ++ [x] ∧ x.path = .compact ∧ x.final = false ∧ x.since = s.clk ∧ x.idx = idx ∧
      x.pa = (s.ctx (t / 256) m.asid).save + 2 * 2 ^ 20 * idx ∧ x.decl = ws ∧
      x.team = { team with v := x.team.v, p := x.team.p, ac := x.team.ac } ∧
      (∀ i : Fin 32, x.team.v[i] = if mask.testBit (32 + i) then m.v[i] else 0) ∧
      (∀ i : Fin 8, x.team.p[i] = if i = 0 ∨ (ws.getD 1 0).toNat.testBit i then m.p[i] else 0) ∧
      (∀ i j, i < 8 → j < 512 → x.team.ac.get 0 (512 * i + j) =
        if (ws.getD 1 0).toNat.testBit (8 + i) then m.ac.get 0 (512 * i + j) else 0) ∧
      (∀ j st addr w, j < 8 → s.strand (.tile t j) = some st → st.hold = some (.yield addr w) →
        let g := if j = k then mask else (w.getD 0 0).toNat
        ∃ st', (j, st') ∈ x.strands ∧ st'.uid = st.uid ∧ st'.pc = st.fetch.own + 4 ∧
          ∀ i, st'.rd i = if g.testBit i.toNat then st.rd i else 0) ∧
      (Memory.wf s.mem = true → m.grant ≤ 0x180000 → x.pa + 2 ^ 21 ≤ 2 ^ 50 → (∀ i : Fin 4, m.q[i].length ≤ 8) →
        (∀ e ∈ declRanges ws, e.1 + e.2 ≤ m.grant) → ∀ o, InDecl ws o →
        Memory.read s'.mem (x.pa + 0x10000 + o) = Memory.read s.mem ((Loc.spad t o).key)) ∧
      s.clk + ((declRanges ws).map (·.2)).sum / 64 < (s'.tile t).fillFrom ∧
      Turn.happen .blockDeal { die := t / 256 } ∈ s'.agenda ∧ Turn.happen .dirtyLogMerge { tile := t } ∈ s'.agenda

/-- R175 to R178, R333: DeclarationResults, YieldArrives, YieldRetires and YieldCompact. -/
def Obligations.YieldResults : Prop :=
  Claims.DeclarationResults ∧ Claims.YieldArrives ∧ Claims.YieldRetires ∧ Claims.YieldCompact

/-- R179, R67: QSND whose release action is complete appends ga to the queue when it has fewer than 8 entries and no strand
waits to receive, gives the value to the strand that has waited longest to receive, and holds on a full queue. QRCV takes
the oldest entry into gd and acquires, or holds on an empty queue; QTRY does so with ga := 1, and gives gd and ga 0 on an
empty queue; QCNT gives gd the number of entries. (No strand waits to send in the clauses that take an entry.) -/
def Obligations.QueueResults : Prop :=
  ∀ (s : State) (t k : Nat) (st : Strand) (m : Team) (d a : GReg) (q : QReg), s.InTeam t k st m →
    let l := m.q[q.toNat]'q.isLt
    (s.drained (.tile t k) st = true → l.length < 8 → (∀ e ∈ (s.tile t).strands, ∀ g, e.2.hold ≠ some (.queueRecv q g)) →
      ∃ s' st', exec (.qsnd a q) s = .next s' ∧ s'.strand (.tile t k) = some st' ∧ Retired st st' ∧ s.SameBytes s' ∧
        s'.team t = some { m with q := m.q.set q.toNat (l ++ [st.rd a]) q.isLt }) ∧
    (s.drained (.tile t k) st = true → l.length < 8 → ∀ k2 r g, k2 ≠ k → (s.tile t).longest (Hold.isRecv q) = some (k2, r) →
      s.strand (.tile t k2) = some r → r.hold = some (.queueRecv q g) →
      ∃ s' st' r', exec (.qsnd a q) s = .next s' ∧ s'.strand (.tile t k) = some st' ∧ Retired st st' ∧ s.SameBytes s' ∧
        s'.team t = some m ∧ s'.strand (.tile t k2) = some r' ∧ r.Ended r' (r.fetch.own + 4) ∧ r'.acq = s.podTime ∧
        r.Writes r' g (st.rd a)) ∧
    (s.drained (.tile t k) st = true → 8 ≤ l.length →
      ∃ s', exec (.qsnd a q) s = .next s' ∧ Held s s' (.tile t k) st (.queueSend q a) ∧ s.OnlyStrand s' (.tile t k)) ∧
    (l = [] → (∃ s', exec (.qrcv d q) s = .next s' ∧ Held s s' (.tile t k) st (.queueRecv q d) ∧
        s.OnlyStrand s' (.tile t k)) ∧
      ∃ s' st', exec (.qtry d a q) s = .next s' ∧ s'.strand (.tile t k) = some st' ∧ s.OnlyStrand s' (.tile t k) ∧
        st.Ended st' (st.fetch.own + 4) ∧ st'.rd d = 0 ∧ st'.rd a = 0 ∧ ∀ j, j ≠ d → j ≠ a → st'.rd j = st.rd j) ∧
    ((∀ e ∈ (s.tile t).strands, ∀ g, e.2.hold ≠ some (.queueSend q g)) → ∀ x rest, l = x :: rest →
      (∃ s' st', exec (.qrcv d q) s = .next s' ∧ s'.strand (.tile t k) = some st' ∧ st.Ended st' (st.fetch.own + 4) ∧
        st'.acq = s.podTime ∧ st.Writes st' d x ∧ s.SameBytes s' ∧
        s'.team t = some { m with q := m.q.set q.toNat rest q.isLt }) ∧
      ∃ s' st', exec (.qtry d a q) s = .next s' ∧ s'.strand (.tile t k) = some st' ∧ st.Ended st' (st.fetch.own + 4) ∧
        st'.acq = s.podTime ∧ st'.rd a = 1 ∧ (d ≠ a → st'.rd d = x) ∧ (∀ j, j ≠ d → j ≠ a → st'.rd j = st.rd j) ∧
        s.SameBytes s' ∧ s'.team t = some { m with q := m.q.set q.toNat rest q.isLt }) ∧
    ∃ st', exec (.qcnt d q) s = .next (s.setStrand (.tile t k) st') ∧ st.Ended st' (st.fetch.own + 4) ∧
      st'.acq = st.acq ∧ st.Writes st' d (nat l.length)

/-- R180, R55, R63: FORK at a misaligned PC takes the instruction-alignment fault 0x05 with that address. Otherwise, with
its release action complete, fewer than 65,535 children and room in the spill area, it appends a forked light child to the
tile's deque, with PC ga, g1 = gb and every other register 0, of the parent's context, class, block and edition, and counts
one more child. It holds while its release action is not complete, at 65,535 children, and while the spill area is full, for which the
model looks at the area of the forking context, and at its own tile's deque (the model's choice, log entry 9). -/
def Obligations.ForkResults : Prop :=
  ∀ (s : State) (t k : Nat) (st : Strand) (a b : GReg), s.At (.tile t k) st →
    ((st.rd a).toNat % 4 ≠ 0 → ∃ s', exec (.fork a b) s = .next s' ∧ Traps s s' t k st 0x05 0 (st.rd a)) ∧
    ((st.rd a).toNat % 4 = 0 → s.drained (.tile t k) st = true → st.children < 65535 → s.spillFull t st.asid = false →
      ∃ s' st' c, exec (.fork a b) s = .next s' ∧ s'.strand (.tile t k) = some st' ∧ st'.children = st.children + 1 ∧
        st'.pc = st.fetch.own + 4 ∧ st'.hold = none ∧ st'.SameRegs st ∧ s.OnlyStrand s' (.tile t k) ∧
        (s'.tile t).deque = (s.tile t).deque ++ [c] ∧ c.kind = .forked ∧ c.pc = st.rd a ∧ c.asid = st.asid ∧
        c.cls = st.cls ∧ c.block = st.block ∧ c.edition = st.edition ∧ c.parent = some st.uid ∧ c.mustAcquire = true ∧
        ∀ j, c.rd j = if j = 1 then st.rd b else 0) ∧
    ((st.rd a).toNat % 4 = 0 → s.drained (.tile t k) st = false →
      ∃ s', exec (.fork a b) s = .next s' ∧ Held s s' (.tile t k) st .release ∧ s.OnlyStrand s' (.tile t k)) ∧
    ((st.rd a).toNat % 4 = 0 → s.drained (.tile t k) st = true → 65535 ≤ st.children →
      ∃ s', exec (.fork a b) s = .next s' ∧ Held s s' (.tile t k) st .forkFull ∧ s.OnlyStrand s' (.tile t k)) ∧
    ((st.rd a).toNat % 4 = 0 → s.drained (.tile t k) st = true → st.children < 65535 → s.spillFull t st.asid = true →
      ∃ s', exec (.fork a b) s = .next s' ∧ Held s s' (.tile t k) st .spillFull ∧ s.OnlyStrand s' (.tile t k))

/-- R63, R181, R57: JOIN acquires and goes on with no child left, and holds else. EXIT whose release action is complete
frees the slot (for a light strand once its private tokens are not pending; a light slot is then offered to the strands that
wait), and holds else; no byte of memory changes. -/
def Obligations.JoinExitResults : Prop :=
  ∀ (s : State) (t k : Nat) (st : Strand), s.At (.tile t k) st →
    (st.children = 0 → ∃ s' st', exec .join s = .next s' ∧ s'.strand (.tile t k) = some st' ∧ Acquired s st st' ∧
      s.OnlyStrand s' (.tile t k)) ∧
    (0 < st.children → ∃ s', exec .join s = .next s' ∧ Held s s' (.tile t k) st .join ∧ s.OnlyStrand s' (.tile t k)) ∧
    (s.drained (.tile t k) st = false →
      ∃ s', exec .exit s = .next s' ∧ Held s s' (.tile t k) st .release ∧ s.OnlyStrand s' (.tile t k)) ∧
    (s.drained (.tile t k) st = true → st.kind = .anchored →
      ∃ s', exec .exit s = .next s' ∧ s'.strand (.tile t k) = none ∧ s.SameBytes s' ∧ s.SameSpecial s') ∧
    (s.drained (.tile t k) st = true → st.kind ≠ .anchored → (∀ n : Fin 8, st.toks[n].pending = false) →
      ∃ s', exec .exit s = .next s' ∧ s'.strand (.tile t k) = none ∧ s.SameBytes s' ∧ s.SameSpecial s' ∧
        Turn.happen .lightSlotTake { tile := t } ∈ s'.agenda) ∧
    (s.drained (.tile t k) st = true → st.kind ≠ .anchored → (∃ n : Fin 8, st.toks[n].pending = true) →
      ∃ s', exec .exit s = .next s' ∧ Held s s' (.tile t k) st .drain ∧ s.OnlyStrand s' (.tile t k))

namespace Sys2Proof.Claims
open Sys2Proof.Machine

/-- The strand of tile t has left its slot for tile u with its PC at the next word; it must acquire there (R65). -/
def Leaves (s s' : State) (t k u : Nat) (st : Strand) : Prop :=
  s'.strand (.tile t k) = none ∧ (∀ q, q ≠ .tile t k → s'.strand q = s.strand q) ∧ s.SameBytes s' ∧ s.SameSpecial s' ∧
  ∃ st', s'.transit = s.transit ++ [⟨s.fresh, u, st'⟩] ∧ st'.pc = st.fetch.own + 4 ∧ st'.mustAcquire = true ∧
    st'.uid = st.uid ∧ st'.SameRegs st ∧ Turn.happen .migrationArrival { n := s.fresh } ∈ s'.agenda

end Sys2Proof.Claims

/-- R65, R66, R298: GO to an address of tile u's scratchpad (R13, R64), and HOME with origin u, take a light strand, its
private tokens not pending and its release action complete, off its tile when u is another one, and let it acquire and go on
when it is its own; an anchored strand takes the strand-kind fault 0x04. -/
def Sys2Proof.Claims.MigrationResults : Prop :=
  ∀ (s : State) (t k u : Nat) (st : Strand) (a : GReg), s.At (.tile t k) st →
    (st.kind = .anchored →
      (∃ s', exec (.go a) s = .next s' ∧ Traps s s' t k st 0x04 0 0) ∧
      ∃ s', exec .home s = .next s' ∧ Traps s s' t k st 0x04 0 0) ∧
    (st.kind ≠ .anchored → (∀ n : Fin 8, st.toks[n].pending = false) → s.drained (.tile t k) st = true →
      (∀ off, u < 2 ^ 19 → off < 2 ^ 21 → st.rd a = nat (0xE000000000000000 + u * 2 ^ 21 + off) →
        (u ≠ t → ∃ s', exec (.go a) s = .next s' ∧ Leaves s s' t k u st) ∧
        (u = t → ∃ s' st', exec (.go a) s = .next s' ∧ s'.strand (.tile t k) = some st' ∧ Acquired s st st' ∧
          s.OnlyStrand s' (.tile t k))) ∧
      (st.origin = u →
        (u ≠ t → ∃ s', exec .home s = .next s' ∧ Leaves s s' t k u st) ∧
        (u = t → ∃ s' st', exec .home s = .next s' ∧ s'.strand (.tile t k) = some st' ∧ Acquired s st st' ∧
          s.OnlyStrand s' (.tile t k))))

/-- R23, R62, R65, R197, R368, R308: a free light slot takes the strand that waits on its tile, which is then in that slot,
the slot's generation one higher; a migrating strand that arrives takes the slot, must acquire, and is no more on its way; a
host-command handler that arrives takes it, with a wake event of code 3 at the end of the clk; an idle slot steals the oldest entry of
another tile's deque. (k is the lowest free light slot, the tile is not off, nothing else waits there, and no impression of
the same word that was created earlier waits anywhere.) That the lowest free slot is taken is the model's choice (log entry
43): R23 and R62 name none. -/
def Sys2Proof.Claims.LightSlotResults : Prop :=
  ∀ (s : State) (t k : Nat) (rest : List Nat), s.off t = false → (s.tile t).freeLight = k :: rest → SlotsOnce s t →
    (s.tile t).deque = [] →
    (∀ st, s.ev.tile = t → (s.tile t).waiting = [st] → (st.kind ≠ .impression ∨ st.ready ≤ s.clk) → s.impFirst st = true →
      (∃ s', exec .lightSlotTake s = .next s' ∧ s'.strand (.tile t k) = some st ∧ (s'.tile t).waiting = [] ∧
        (s'.tile t).gens.get 0 k = (s.tile t).gens.get 0 k + 1 ∧ s.SameBytes s') ∧
      ∃ s' st', exec .impressionStart s = .next s' ∧ s'.strand (.tile t k) = some st' ∧
        st' = { st with arrival := st'.arrival } ∧ (s'.tile t).waiting = [] ∧
        (s'.tile t).gens.get 0 k = (s.tile t).gens.get 0 k + 1 ∧ s.SameBytes s') ∧
    (∀ x, s.transit.find? (fun y => y.n == s.ev.n) = some x → x.tile = t → (s.tile t).waiting = [] →
      (x.strand.started = true ∨ x.strand.kind ≠ .impression ∧ x.strand.imp = none) →
      ∃ s' st', exec .migrationArrival s = .next s' ∧ s'.strand (.tile t k) = some st' ∧ st'.uid = x.strand.uid ∧
        st'.pc = x.strand.pc ∧ st'.mustAcquire = true ∧ st'.SameRegs x.strand ∧ (∀ y ∈ s'.transit, y.n ≠ s.ev.n) ∧
        s.SameBytes s') ∧
    (∀ x, s.actives.find? (fun y => y.n == s.ev.n) = some x → x.tile = t → (s.tile t).waiting = [] →
      x.strand.kind = .handler → x.strand.imp = none →
      ∃ s' st', exec .activeMessageDelivery s = .next s' ∧ s'.strand (.tile t k) = some st' ∧ st'.uid = x.strand.uid ∧
        st'.pc = x.strand.pc ∧ st'.SameRegs x.strand ∧ (∀ y ∈ s'.actives, y.n ≠ s.ev.n) ∧
        Turn.happen .wakeEvent { tile := t, k := 3 } ∈ s'.late) ∧
    (∀ v st more, s.ev.tile = t → (s.tile t).waiting = [] → s.victim t = some v → v ≠ t → (s.tile v).deque = st :: more →
      st.hold = none →
      ∃ s', exec .steal s = .next s' ∧ s'.strand (.tile t k) = some st ∧ (s'.tile v).deque = more ∧
        s.SameBytes s')

/-- R65, R66, R298, R23, R62, R197, R368, R308: MigrationResults and LightSlotResults. That a strand takes the lowest free
light slot is the model's choice (log entry 43). -/
def Obligations.LightStrandMoves : Prop := Claims.MigrationResults ∧ Claims.LightSlotResults

/-- R182, R69: PRIO sets the own class to ga, at most 3, and at most the context's ceiling; R183: ID gives gd the value of its
selector (the strand's block and edition where it has them, all ones where it has not). -/
def Obligations.PrioIdResults : Prop :=
  ∀ (s : State) (t k : Nat) (st : Strand) (d a : GReg), s.At (.tile t k) st →
    (∃ s' st', exec (.prio a) s = .next s' ∧ s'.strand (.tile t k) = some st' ∧ s.OnlyStrand s' (.tile t k) ∧
      st'.cls.toNat = Min.min (Min.min (st.rd a).toNat 3) (s.ctx (t / 256) st.asid).ceiling.toNat ∧
      st'.pc = st.fetch.own + 4 ∧ st'.SameRegs st) ∧
    (∀ sel, ∃ st', exec (.id d sel) s = .next (s.setStrand (.tile t k) st') ∧ st.Ended st' (st.fetch.own + 4) ∧
      st'.acq = st.acq ∧ (∀ j, j ≠ d → st'.rd j = st.rd j) ∧
      (sel = .slot → st'.rd d = nat k) ∧ (sel = .tile → st'.rd d = nat t) ∧ (sel = .origin → st'.rd d = nat st.origin) ∧
      (sel = .asid → st'.rd d = nat st.asid) ∧
      (sel = .block → st'.rd d = match st.block with
        | some b => nat b
        | none => int (-1)) ∧
      (sel = .edition → st'.rd d = match st.edition with
        | some e => nat e
        | none => int (-1)) ∧
      (st.kind ≠ .anchored → (sel = .rank ∨ sel = .deadline → st'.rd d = int (-1)) ∧
        (sel = .team ∨ sel = .spad ∨ sel = .yreq → st'.rd d = 0)) ∧
      (∀ m, st.kind = .anchored → s.team t = some m →
        (sel = .rank → st'.rd d = nat st.rank) ∧ (sel = .team → st'.rd d = nat m.n) ∧ (sel = .spad → st'.rd d = nat m.grant) ∧
        (sel = .yreq → st'.rd d = if m.yreq then 1 else 0) ∧
        (sel = .deadline → st'.rd d = nat (m.count.getD (2 ^ 64 - 1))) ∧
        (sel = .ext → st.block.isSome → st'.rd d = m.ext) ∧
        ∀ b, st.block = some b →
          (sel = .bx → st'.rd d = nat (b % (m.ext.toNat % 2 ^ 21))) ∧
          (sel = .by_ → st'.rd d = nat (b / (m.ext.toNat % 2 ^ 21) % (m.ext.toNat / 2 ^ 21 % 2 ^ 21))) ∧
          (sel = .bz → st'.rd d = nat (b / (m.ext.toNat % 2 ^ 21) / (m.ext.toNat / 2 ^ 21 % 2 ^ 21)))) ∧
      ∀ x : Imp, st.imp = some x →
        (sel = .impAddr → st'.rd d = x.vals[0]) ∧ (sel = .impOld → st'.rd d = x.vals[1]) ∧
        (sel = .impNew → st'.rd d = x.vals[2]) ∧ (sel = .impCount → st'.rd d = x.vals[3]) ∧
        (sel = .impArg → st'.rd d = x.vals[4]) ∧ (sel = .impEntry → st'.rd d = x.vals[5]))

/-! ## Editions -/

namespace Sys2Proof.Claims
open Sys2Proof.Machine

/-- Token tk of the strand can be used: its team's tokens are in place, it is neither pending nor failed (R184). -/
def TokenFree (s : State) (t k : Nat) (st : Strand) (tk : TokReg) : Prop :=
  (st.kind ≠ .anchored ∨ ∃ m, s.InTeam t k st m) ∧
  ((s.toks (.tile t k) st)[tk.toNat]'tk.isLt).pending = false ∧ ((s.toks (.tile t k) st)[tk.toNat]'tk.isLt).failed = false

/-- The instruction has retired with token tk pending, that of a LAUNCH of its own where `launch` says so, and has sent `q`
to the context's root imposer, whose step follows; its registers and memory are as before (R184, R319). -/
def Requests (s s' : State) (t k : Nat) (st : Strand) (tk : TokReg) (launch : Bool) (q : Req) (e : Instr) : Prop :=
  ∃ st', s'.strand (.tile t k) = some st' ∧ st'.pc = st.fetch.own + 4 ∧ st'.hold = none ∧ st'.SameRegs st ∧
    s.SameBytes s' ∧ s.SameSpecial s' ∧ (∀ r, r ≠ .tile t k → s'.strand r = s.strand r) ∧
    s'.toks (.tile t k) st' =
      (s.toks (.tile t k) st).set tk.toNat ⟨true, false, 0, if launch then some st.uid else none⟩ tk.isLt ∧
    (s'.root st.asid).reqs = (s.root st.asid).reqs ++ [q] ∧ Turn.happen e { asid := st.asid } ∈ s'.agenda

/-- The team `m` of tile t is that of a context, edition and block. -/
def TeamIs (s : State) (t : Nat) (m : Team) (a i b : Nat) : Prop :=
  s.team t = some m ∧ m.asid = a ∧ m.ident = i ∧ m.block = b

/-- Token tk of the team on tile t has completed with the error word, or without one (R249). -/
def TokenEnds (s' : State) (t : Nat) (m : Team) (tk : TokReg) (err : Option W64) : Prop :=
  let of := (m.toks[tk.toNat]'tk.isLt).launch
  ∃ m', s'.team t = some m' ∧ m'.toks = m.toks.set tk.toNat (match err with
    | none => ⟨false, false, 0, of⟩
    | some e => ⟨false, true, e, of⟩) tk.isLt

end Sys2Proof.Claims

/-- R184 to R187, R190, R191, R193, R319: with its token free, LAUNCH of a descriptor in the tile's own scratchpad that
passes the checks of R187 sends the launch to the root (and takes the descriptor fault 0x14 when it does not pass), NEXT the
request for a work index of the strand's edition (and, in a strand of no edition, an answer of all ones at once), ESTAT the
request for a status record, CANCEL the cancellation: in each case the token becomes pending and the strand goes on.
A request to write says after which accesses of the strand its answer is written (R93). -/
def Obligations.EditionRequests : Prop :=
  ∀ (s : State) (t k off : Nat) (st : Strand) (m : Team) (a b : GReg) (tk : TokReg) (kill : Bool),
    s.At (.tile t k) st → TokenFree s t k st tk →
    (OwnBytes s t st m (st.rd a) off 128 → (st.rd a).toNat % 64 = 0 → s.drained (.tile t k) st = true →
      (∀ e ∈ s.data, e.1 ≠ st.uid) →
      let bs := Memory.readN s.mem (Loc.spad t off).key 128
      (descOk bs = false → ∃ s', exec (.launch a tk) s = .next s' ∧ Traps s s' t k st 0x14 0 (st.rd a)) ∧
      (descOk bs = true → ∃ s', exec (.launch a tk) s = .next s' ∧
        Requests s s' t k st tk true (.launch t st.uid (s.owner (.tile t k) st) tk (parseDesc bs)) .launchAccept)) ∧
    (OwnBytes s t st m (st.rd a) off 4 → (st.rd a).toNat % 4 = 0 →
      (∀ i, st.edition = some i → ∃ s', exec (.next a tk) s = .next s' ∧
        Requests s s' t k st tk false (.next t (s.owner (.tile t k) st) tk ⟨st.uid, s.fresh⟩ i (tileSpace t off)) .nextService) ∧
      (st.edition = none → ∃ s' st', exec (.next a tk) s = .next s' ∧ s'.strand (.tile t k) = some st' ∧
        st'.pc = st.fetch.own + 4 ∧ st'.SameRegs st ∧ s.SameBytes s' ∧
        s'.toks (.tile t k) st' = (s.toks (.tile t k) st).set tk.toNat ⟨true, false, 0, none⟩ tk.isLt ∧
        s'.answers = s.answers ++ [⟨s.fresh, t, s.owner (.tile t k) st, st.asid, tk, some (tileSpace t off),
          [0xFF, 0xFF, 0xFF, 0xFF], none, some ⟨st.uid, s.fresh⟩, none⟩] ∧ Turn.happen .imposerAnswer { n := s.fresh } ∈ s'.agenda)) ∧
    (OwnBytes s t st m (st.rd b) off 768 → (st.rd b).toNat % 64 = 0 →
      ∃ s', exec (.estat a b tk) s = .next s' ∧
        Requests s s' t k st tk false
          (.estat t (s.owner (.tile t k) st) tk ⟨st.uid, s.fresh⟩ (st.rd a) (tileSpace t off)) .estatSnapshot) ∧
    ∃ s', exec (.cancel a kill tk) s = .next s' ∧
      Requests s s' t k st tk false (.cancel t (s.owner (.tile t k) st) tk (st.rd a) kill) .cancelService

/-- R321, R185, R189: the root takes the first launch of a context. With no ground to refuse it, it gives it the next
sequence number and the lowest free identifier, every block undealt at the root, and broadcasts it to every package of the
partition; the request is gone. With a ground, no edition is added and the team's token fails with error code 0x0B and the
lowest reason. -/
def Obligations.LaunchAcceptResults : Prop :=
  ∀ (s : State) (a tile uid : Nat) (own : TokOwner) (tok : TokReg) (d : Desc) (rest : List Req), s.ev.asid = a →
    (s.root a).open = true → (s.root a).reqs = .launch tile uid own tok d :: rest →
    (∀ ident, (s.dropReq a).refusals a d = [] → (s.root a).freeIdent = some ident →
      ∃ s' e, exec .launchAccept s = .next s' ∧ (s'.root a).reqs = rest ∧ (s'.root a).seq = (s.root a).seq + 1 ∧
        (s'.root a).editions = (s.root a).editions ++ [e] ∧ e.ident = ident ∧ e.seq = (s.root a).seq ∧ e.desc = d ∧
        e.state = .running ∧ e.atRoot = [(0, d.x * d.y * d.z)] ∧ e.dealt = [] ∧ e.uid = uid ∧ e.tok = tok ∧
        ∀ p ∈ s'.partPkgs a, Turn.happen .editionBroadcast { asid := a, ident := ident, pkg := p } ∈ s'.agenda) ∧
    (∀ reason more ai i b m, (s.dropReq a).refusals a d = reason :: more → own = .team ai i b → TeamIs s tile m ai i b →
      ∃ s', exec .launchAccept s = .next s' ∧ (s'.root a).reqs = rest ∧ (s'.root a).seq = (s.root a).seq ∧
        (s'.root a).editions = (s.root a).editions ∧
        TokenEnds s' tile m tok (some (nat (0x0B * 2 ^ 56 + reason))))

namespace Sys2Proof.Claims
open Sys2Proof.Machine

/-- Blocks given in one folio: u undealt at the node over `div`, rounded up, at least 1 and at most 65,536 (R324). -/
def folio (u div : Nat) : Nat := Min.min u (Min.min 65536 (Max.max 1 ((u + div - 1) / div)))

/-- Sum of the lengths of index ranges. -/
def blocksIn (l : List (Nat × Nat)) : Nat := (l.map (·.2)).sum

end Sys2Proof.Claims

/-- R322, R323, R324: the broadcast of a context's only edition, with no predecessor, makes it eligible at the package in this
clk, and the package's dies are to deal. A package that runs short takes from the root a folio of the lowest undealt
consecutive indices, of ⌈u/(2P)⌉ blocks at most (P packages in the partition), and a die takes one of ⌈u/8⌉ at most from its
package; a request goes before those of higher packages and dies of the same clk. The die imposer gives a free tile the candidate that comes first: the lowest undealt index of the edition at the
die, which is dealt to that tile and dispatched next. (Every other tile of the die is taken or off.)
(P counted from the partition's packages: log entry 43.) -/
def Obligations.DealingResults : Prop :=
  (∀ (s : State) (a p : Nat) (e : Edition), s.ev.asid = a → s.ev.pkg = p → s.ev.ident = e.ident →
    (s.root a).editions = [e] → e.state = .running → e.pred = none → e.eligible.find p = none → e.desc.gang = false →
    ∃ s' e', exec .editionBroadcast s = .next s' ∧ (s'.root a).editions = [e'] ∧ p ∈ e'.arrived ∧
      e'.eligible.find p = some s.clk ∧ s.SameBytes s' ∧
      ∀ j, j < 4 → Turn.happen .blockDeal { die := 4 * p + j } ∈ s'.agenda) ∧
  (∀ (s : State) (a p f c : Nat) (rest : List (Nat × Nat)) (e : Edition), s.ev.asid = a → s.ev.pkg = p →
    s.edition a s.ev.ident = some e → e.state = .running → s.ev.flag = true → s.agenda.any (folioBefore s.ev) = false →
    e.atRoot = (f, c) :: rest →
    let n := folio (blocksIn e.atRoot) (2 * (s.partPkgs a).length)
    ∃ s' e', exec .folioRequest s = .next s' ∧ s'.edition a e.ident = some e' ∧ p ∈ e'.folios ∧
      e'.atPkg.get [] p = rangesPut (e.atPkg.get [] p) (f, Min.min c n) ∧
      e'.atRoot = (if c ≤ n then rest else (f + n, c - n) :: rest) ∧ s.SameBytes s') ∧
  (∀ (s : State) (a d f c : Nat) (rest : List (Nat × Nat)) (e : Edition), s.ev.asid = a → s.ev.die = d →
    s.edition a s.ev.ident = some e → e.state = .running → s.ev.flag = false → s.agenda.any (folioBefore s.ev) = false →
    e.atPkg.get [] (d / 4) = (f, c) :: rest →
    let n := folio (blocksIn ((f, c) :: rest)) 8
    ∃ s' e', exec .folioRequest s = .next s' ∧ s'.edition a e.ident = some e' ∧
      e'.atDie.get [] d = rangesPut (e.atDie.get [] d) (f, Min.min c n) ∧
      e'.atPkg.get [] (d / 4) = (if c ≤ n then rest else (f + n, c - n) :: rest) ∧ s.SameBytes s' ∧
      Turn.happen .blockDeal { die := d } ∈ s'.agenda) ∧
  (∀ (s : State) (t a ident i c x : Nat) (rest : List (Nat × Nat)) (e : Edition) (r : Ranked), s.ev.die = t / 256 →
    (s.tile t).free = true → s.off t = false → (∀ u, u / 256 = t / 256 → u ≠ t → (s.tile u).free = false ∨ s.off u = true) →
    s.gangCand t = none → s.gangKeeps t = false → bestOf (s.candidates t) = some r →
    r.what = .block a ident x → s.edition a ident = some e → e.atDie.get [] (t / 256) = (i, c) :: rest →
    ∃ s' e', exec .blockDeal s = .next s' ∧ (s'.tile t).dispatch = some ⟨a, ident, i⟩ ∧ s'.edition a ident = some e' ∧
      e'.dealt = e.dealt ++ [⟨i, t⟩] ∧ s.SameBytes s' ∧ Turn.happen .teamDispatch { tile := t } ∈ s'.agenda)

/-- R55, R56, R84: a dealt block whose descriptor lists no operand range becomes the tile's team: of its edition, block,
extents, strand count and grant, its vector registers 0, p0 all ones and the other predicates 0, no token pending, its n anchored strands in slots 0 to
n − 1, each at the descriptor's PC with g1 its argument and g2 its rank and every other register 0, to acquire before its
first instruction; where the tile's last team was of another context, the grant's bytes are 0.
The fill is done at once (log entry 10). -/
def Obligations.DispatchResults : Prop :=
  ∀ (s : State) (t : Nat) (x : Dispatch) (e : Edition), s.ev.tile = t → (s.tile t).dispatch = some x →
    s.edition x.asid x.ident = some e → e.desc.ranges = 0 → e.desc.n ≤ 8 →
    ∃ s' m, exec .teamDispatch s = .next s' ∧ (s'.tile t).dispatch = none ∧ s'.team t = some m ∧
      m.asid = x.asid ∧ m.ident = x.ident ∧ m.block = x.idx ∧ m.n = e.desc.n ∧ m.grant = e.desc.grant ∧
      m.v = Vector.replicate 32 0 ∧ m.p = (Vector.replicate 8 0).set 0 (BitVec.allOnes 128) ∧
      m.toks = Vector.replicate 8 ⟨false, false, 0, none⟩ ∧
      m.q = Vector.replicate 4 [] ∧ m.yreq = false ∧
      (∀ k, k < e.desc.n → ∃ st, s'.strand (.tile t k) = some st ∧ st.kind = .anchored ∧ st.asid = x.asid ∧
        st.edition = some x.ident ∧ st.block = some x.idx ∧ st.rank = k ∧ st.pc = e.desc.pc ∧ st.mustAcquire = true ∧
        ∀ j, st.rd j = if j = 1 then e.desc.arg else if j = 2 then nat k else 0) ∧
      ((s.tile t).lastCtx = some x.asid → s.SameBytes s') ∧
      ((s.tile t).lastCtx ≠ some x.asid → s.SameBytesBut s' (Loc.spad t 0).key e.desc.grant ∧
        ∀ off, off < e.desc.grant → Memory.read s'.mem ((Loc.spad t 0).key + off) = 0)

/-- R325, R191, R190, R61: the root answers the first NEXT with the edition's next work index, which it counts, and with all
ones beyond the count or without a running edition; it answers an ESTAT with the edition's status record, freeing the
identifier of a complete edition, and with state 11 for an unknown one. An answer writes its bytes into the scratchpad of the
team that asked, once the accesses that its strand issued before it are done (R93), every other byte as before, and completes
its token. The answer to a NEXT starts 60 clk later: by R285 where the root is in the issuing tile's package, else by the
model's choice (log entry 43). -/
def Sys2Proof.Claims.RootAnswers : Prop :=
  (∀ (s : State) (a tile ident : Nat) (own : TokOwner) (tok : TokReg) (pt : Point) (dst : W64) (rest : List Req),
    s.ev.asid = a → (s.root a).open = true → (s.root a).reqs = .next tile own tok pt ident dst :: rest →
    let ans (v : Nat) : ImpAnswer := ⟨s.fresh, tile, own, a, tok, some dst, leBytes 4 v, none, some pt,
      if (s.edition a ident).isSome then some ident else none⟩
    (∀ e, s.edition a ident = some e → e.state = .running → e.next < e.desc.work →
      ∃ s' e', exec .nextService s = .next s' ∧ (s'.root a).reqs = rest ∧ s'.answers = s.answers ++ [ans e.next] ∧
        s'.edition a ident = some e' ∧ e'.next = e.next + 1 ∧
        Timer.mk (s.clk + 60) .imposerAnswer { n := s.fresh } ∈ s'.timers) ∧
    ((∀ e, s.edition a ident = some e → e.state ≠ .running ∨ e.desc.work ≤ e.next) →
      ∃ s', exec .nextService s = .next s' ∧ (s'.root a).reqs = rest ∧ s'.answers = s.answers ++ [ans 0xFFFFFFFF])) ∧
  (∀ (s : State) (a tile : Nat) (ident dst : W64) (own : TokOwner) (tok : TokReg) (pt : Point) (rest : List Req),
    s.ev.asid = a → (s.root a).open = true → (s.root a).reqs = .estat tile own tok pt ident dst :: rest →
    let ans (bs : List Byte) : ImpAnswer := ⟨s.fresh, tile, own, a, tok, some dst, bs, none, some pt, none⟩
    (∀ e, s.edition a ident.toNat = some e →
      ∃ s', exec .estatSnapshot s = .next s' ∧ (s'.root a).reqs = rest ∧ s'.answers = s.answers ++ [ans e.status] ∧
        (e.state = .complete → ∀ y ∈ (s'.root a).editions, y.ident ≠ e.ident) ∧
        (e.state ≠ .complete → (s'.root a).editions = (s.root a).editions)) ∧
    (s.edition a ident.toNat = none →
      ∃ s', exec .estatSnapshot s = .next s' ∧ (s'.root a).reqs = rest ∧
        s'.answers = s.answers ++ [ans (leBytes 8 (3 * 2 ^ 24) ++ List.replicate 760 0)])) ∧
  (∀ (s : State) (x : ImpAnswer) (m : Team) (off i b : Nat), s.answers.find? (fun y => y.n == s.ev.n) = some x →
    x.tile < 2 ^ 19 → x.dst = some (tileSpace x.tile off) → x.bytes ≠ [] → x.own = .team x.asid i b →
    TeamIs s x.tile m x.asid i b → off + x.bytes.length ≤ m.grant → m.grant ≤ 0x180000 →
    (s.die (x.tile / 256)).resetting = false → NoWatch s (x.tile / 256) x.asid →
    (∀ p, x.asked = some p → (s.tile x.tile).openBefore p = false) →
    ∃ s', exec .imposerAnswer s = .next s' ∧ TokenEnds s' x.tile m x.tok x.err ∧ (∀ y ∈ s'.answers, y.n ≠ x.n) ∧
      s.SameBytesBut s' (Loc.spad x.tile off).key x.bytes.length ∧
      ∀ j, j < x.bytes.length → Memory.read s'.mem ((Loc.spad x.tile off).key + j) = x.bytes.getD j 0)

/-- R193, R328: the root serves a CANCEL of a running edition by dropping the blocks undealt at the root, which count as
dropped, dealing no more, and broadcasting the cancellation to the packages that know the edition; the CANCEL of an unknown
or complete edition is answered at once. The broadcast drops the blocks undealt at a package and its dies. -/
def Sys2Proof.Claims.CancelResults : Prop :=
  (∀ (s : State) (a tile : Nat) (ident : W64) (own : TokOwner) (tok : TokReg) (kill : Bool) (rest : List Req), s.ev.asid = a →
    (s.root a).open = true → (s.root a).reqs = .cancel tile own tok ident kill :: rest →
    ((∀ e, s.edition a ident.toNat = some e → e.state = .complete) →
      ∃ s', exec .cancelService s = .next s' ∧ (s'.root a).reqs = rest ∧
        s'.answers = s.answers ++ [⟨s.fresh, tile, own, a, tok, none, [], none, none, none⟩]) ∧
    (∀ e, s.edition a ident.toNat = some e → e.state ≠ .complete →
      ∃ s' e', exec .cancelService s = .next s' ∧ (s'.root a).reqs = rest ∧ s'.edition a ident.toNat = some e' ∧
        e'.state = .cancelling ∧ e'.atRoot = [] ∧ e'.dropped = e.dropped + blocksIn e.atRoot ∧
        e'.kill = (e.kill || kill) ∧ e'.cancels = e.cancels ++ [(tile, own, tok)] ∧ s.SameBytes s' ∧
        ∀ p, p ∈ e.arrived ∨ p ∈ e.folios →
          Turn.happen .cancelBroadcast { asid := a, ident := e.ident, pkg := p, flag := kill } ∈ s'.agenda)) ∧
  (∀ (s : State) (a i p : Nat) (e : Edition), s.ev.asid = a → s.ev.ident = i → s.ev.pkg = p → s.ev.flag = false →
    s.edition a i = some e → e.state = .cancelling →
    ∃ s' e', exec .cancelBroadcast s = .next s' ∧ s'.edition a i = some e' ∧ e'.atPkg.get [] p = [] ∧
      (∀ j, j < 4 → e'.atDie.get [] (4 * p + j) = []) ∧ e'.dropped = e.dropped + e.undealtAt p ∧ e'.dealt = e.dealt ∧
      s.SameBytes s')

/-- R325, R191, R190, R61, R193, R328: RootAnswers and CancelResults. The 60 clk of a root in another package than the asking
tile's are the model's choice (log entry 43). -/
def Obligations.RootServices : Prop := Claims.RootAnswers ∧ Claims.CancelResults

/-- R57, R326, R327: a block whose strands, descendants and engine operations are done, and which is not being killed,
leaves its tile, which has no team then; its completion is reported and its die deals again. The root counts the report as
done, or as killed. The report of a package whose last completion has come is merged into the edition's counts, saturating at
2^32 − 1; with the last one, every index being accounted for and no request in flight, the edition is complete and its LAUNCH
token completes without an error; with a request in flight it is not yet. -/
def Obligations.CompletionResults : Prop :=
  (∀ (s : State) (t a i b : Nat) (m : Team), s.ev.tile = t → s.ev.asid = a → s.ev.ident = i → s.ev.n = b →
    TeamIs s t m a i b → m.killed = false → s.blockDone t a i b = true →
    ∃ s', exec .blockComplete s = .next s' ∧ s'.team t = none ∧ s.SameBytes s' ∧
      Turn.happen .completionReport { asid := a, ident := i, pkg := t / 1024, n := b, flag := false } ∈ s'.agenda ∧
      Turn.happen .blockDeal { die := t / 256 } ∈ s'.agenda ∧ Turn.happen .dirtyLogMerge { tile := t } ∈ s'.agenda) ∧
  (∀ (s : State) (a i : Nat) (e : Edition), s.ev.asid = a → s.ev.ident = i → s.edition a i = some e →
    ∃ s' e', exec .completionReport s = .next s' ∧ s'.edition a i = some e' ∧
      e'.done = (if s.ev.flag then e.done else e.done + 1) ∧
      e'.killed = (if s.ev.flag then e.killed + 1 else e.killed) ∧ s.SameBytes s') ∧
  (∀ (s : State) (a p : Nat) (e : Edition), s.ev.asid = a → s.ev.pkg = p → s.edition a s.ev.ident = some e →
    e.state ≠ .complete → e.quietAt p = true → p ∉ e.reported →
    let r := e.reports.get Report.empty p
    ((∃ q ∈ e.reporters, q ≠ p ∧ q ∉ e.reported) →
      ∃ s' e', exec .packageReport s = .next s' ∧ s'.edition a e.ident = some e' ∧ e'.state = e.state ∧
        p ∈ e'.reported ∧ (∀ q ∈ e.reported, q ∈ e'.reported) ∧
        (∀ c : Fin 8, e'.merged.counts[c] = Min.min (e.merged.counts[c] + r.counts[c]) (2 ^ 32 - 1)) ∧
        e'.merged.lost = Min.min (e.merged.lost + r.lost) (2 ^ 32 - 1) ∧ s.SameBytes s') ∧
    (e.over = true → s.asksFor a e.ident = true →
      ∃ s' e', exec .packageReport s = .next s' ∧ s'.edition a e.ident = some e' ∧ e'.state = e.state ∧ s.SameBytes s') ∧
    (∀ m i b, (∀ q ∈ e.reporters, q = p ∨ q ∈ e.reported) → e.over = true → s.asksFor a e.ident = false → e.own = .team a i b → TeamIs s e.tile m a i b →
      e.cancels = [] → (s.root a).editions = [e] → (s.root a).newPkg = none →
      ∃ s' e', exec .packageReport s = .next s' ∧ (s'.root a).editions = [e'] ∧ e'.state = .complete ∧
        TokenEnds s' e.tile m e.tok none))

/-! ## Watches, software traps, special registers -/

/-- R194, R195, R199, R200: WATCH of a 64-byte entry in the tile's own scratchpad installs it at the lowest free index of its
context on the die, which gd holds, or gives gd all ones when the context has no free one, or, when the entry fails its
check, takes the watch-entry fault 0x15 with its address. UNWATCH frees the entry ga, WQRY writes the entry's state word of R200 (0 for a
free one) into gd, and both take the watch-entry fault when ga is above 255. -/
def Obligations.WatchResults : Prop :=
  ∀ (s : State) (t k off : Nat) (st : Strand) (m : Team) (d a : GReg), s.At (.tile t k) st →
    let ea := st.rd a
    let bs := Memory.readN s.mem (Loc.spad t off).key 64
    let w := parseWatch bs s.clk s.podTime s.fresh
    (OwnBytes s t st m ea off 64 → ea.toNat % 64 = 0 → s.drained (.tile t k) st = true → (∀ e ∈ s.data, e.1 ≠ st.uid) →
      (watchOk (t / 256) bs w = false → ∃ s', exec (.watch d a) s = .next s' ∧ Traps s s' t k st 0x15 0 ea) ∧
      (watchOk (t / 256) bs w = true → s.freeWatch (t / 256) st.asid = none →
        ∃ s' st', exec (.watch d a) s = .next s' ∧ s'.strand (.tile t k) = some st' ∧ s.OnlyStrand s' (.tile t k) ∧
          st.Ended st' (st.fetch.own + 4) ∧ st.Writes st' d (int (-1))) ∧
      (∀ i, watchOk (t / 256) bs w = true → s.freeWatch (t / 256) st.asid = some i →
        ∃ s' st', exec (.watch d a) s = .next s' ∧ s'.strand (.tile t k) = some st' ∧ s.SameBytes s' ∧
          s.SameOthers s' (.tile t k) ∧ st.Ended st' (st.fetch.own + 4) ∧ st.Writes st' d (nat i) ∧
          (s'.die (t / 256)).frisket = (s.die (t / 256)).frisket.ins (256 * st.asid + i) w)) ∧
    (ea.toNat < 256 →
      (∃ s' st', exec (.unwatch a) s = .next s' ∧ s'.strand (.tile t k) = some st' ∧ Retired st st' ∧ s.SameBytes s' ∧
        s.SameOthers s' (.tile t k) ∧ (s'.die (t / 256)).frisket = (s.die (t / 256)).frisket.del (256 * st.asid + ea.toNat)) ∧
      ∃ st', exec (.wqry d a) s = .next (s.setStrand (.tile t k) st') ∧ st.Ended st' (st.fetch.own + 4) ∧
        (∀ j, j ≠ d → st'.rd j = st.rd j) ∧
        ((s.die (t / 256)).frisket.find (256 * st.asid + ea.toNat) = none → st'.rd d = 0) ∧
        ∀ e, (s.die (t / 256)).frisket.find (256 * st.asid + ea.toNat) = some e →
          (st'.rd d).getLsbD 0 = true ∧ (st'.rd d).getLsbD 1 = e.armed ∧ (st'.rd d).getLsbD 2 = e.overprint ∧
          (st'.rd d).toNat / 2 ^ 3 % 2 ^ 5 = 0 ∧ (st'.rd d).toNat / 2 ^ 16 % 2 ^ 16 = 0 ∧
          (st'.rd d).toNat / 2 ^ 8 % 2 ^ 8 = Min.min 255 (s.waitingImps (fun x =>
            !x.started && x.imp.any (fun y => y.inst == e.inst))).length ∧
          (st'.rd d).toNat / 2 ^ 32 = e.dropped % 2 ^ 32) ∧
    (256 ≤ ea.toNat →
      (∃ s', exec (.unwatch a) s = .next s' ∧ Traps s s' t k st 0x15 0 ea) ∧
      ∃ s', exec (.wqry d a) s = .next s' ∧ Traps s s' t k st 0x15 0 ea)

/-- R202, R304, R305, R306: TRAP and BRK of a tile strand freeze it with its PC at the instruction; the fault packet has code
0x40 or 0x50 and the instruction's code as cause. -/
def Sys2Proof.Claims.SoftwareTraps : Prop :=
  ∀ (s : State) (t k : Nat) (st : Strand) (code : Byte), s.At (.tile t k) st →
    (∃ s', exec (.trap code) s = .next s' ∧ Traps s s' t k st 0x40 code 0) ∧
    ∃ s', exec (.brk code) s = .next s' ∧ Traps s s' t k st 0x50 code 0

/-- R203, R125: HALT of a supervisor strand goes on when a fault packet of its die is unread and else holds; of a tile strand
it takes the privilege fault 0x02. -/
def Sys2Proof.Claims.HaltResults : Prop :=
  ∀ (s : State) (r : Ref) (st : Strand), s.At r st →
    (∀ d k, r = .sup d k →
      ((s.die d).fhead ≠ (s.die d).ftail → ∃ st', exec .halt s = .next (s.setStrand r st') ∧ Retired st st') ∧
      ((s.die d).fhead = (s.die d).ftail → ∃ s', exec .halt s = .next s' ∧ Held s s' r st .halt ∧ s.OnlyStrand s' r)) ∧
    ∀ t k, r = .tile t k → ∃ s', exec .halt s = .next s' ∧ Traps s s' t k st 0x02 0 0

/-- R123, R124, R126, R305, R306: the undefined-instruction fault has code 0x01 and as cause 0 for the zero word, 1 for an
unassigned opcode, 2 for a reserved field, 3 for a bad IMX pairing, 4 for a disallowed operand type; a fetch fault has code
0x06 for access, 0x05 for alignment, 0x30 for poisoned data, and the address. Both freeze the strand with its PC at the
word, or at its IMX. -/
def Sys2Proof.Claims.FetchFaults : Prop :=
  ∀ (s : State) (t k : Nat) (st : Strand), s.At (.tile t k) st →
    (∃ s', exec .undefinedInstruction s = .next s' ∧ Traps s s' t k st 0x01 (match s.ev.cause with
      | .zeroWord => 0
      | .unassigned => 1
      | .reservedField => 2
      | .badImx => 3
      | .operandType => 4) 0) ∧
    ∃ s', exec .instructionFetchFault s = .next s' ∧ Traps s s' t k st (match s.ev.fetch with
      | .access => 0x06
      | .alignment => 0x05
      | .poisoned => 0x30) 0 s.ev.value

/-- R298: TRAP, BRK, an undefined instruction and a fetch fault of a supervisor strand freeze it and are escalated. -/
def Sys2Proof.Claims.SupervisorTraps : Prop :=
  ∀ (s : State) (d k : Nat) (st : Strand) (code : Byte), s.At (.sup d k) st →
    ∀ i ∈ [Instr.trap code, .brk code, .undefinedInstruction, .instructionFetchFault],
      ∃ s', exec i s = .next s' ∧ SupTraps s s' d k st

/-- R202, R304, R305, R306, R203, R125, R123, R124, R126, R298: SoftwareTraps, HaltResults, FetchFaults and SupervisorTraps. -/
def Obligations.TrapResults : Prop :=
  Claims.SoftwareTraps ∧ Claims.HaltResults ∧ Claims.FetchFaults ∧ Claims.SupervisorTraps

/-- R304, R192, R300: with a ring base loaded, one fault packet waiting, room for it, no notice page and no watch of context 0
there, the packet's 128 bytes are at the base plus 128 times sys.fhead modulo 64, no other byte changes, sys.fhead is one higher and no
packet waits. R298, R372: an escalation of a frozen supervisor strand is posted to the mailbox of its die's supervisor to core 3, with code 0x70.
The form of that post is the model's choice (log entry 32). -/
def Obligations.PacketResults : Prop :=
  (∀ (s : State) (d : Nat) (p : FaultPkt) (base : W64), s.ev.die = d → (s.die d).faults = [p] →
    (s.die d).fring = some base → ((s.die d).fhead - (s.die d).ftail).toNat < 64 →
    let pa := base.toNat + 128 * ((s.die d).fhead.toNat % 64)
    NoWatch s (pa / 2 ^ 39) 0 → s.noticePage pa = false →
    ∃ s', exec .faultPacketWrite s = .next s' ∧ s.SameBytesBut s' pa 128 ∧ (s'.die d).faults = [] ∧
      (s'.die d).fhead = (s.die d).fhead + 1 ∧ (s'.die d).ftail = (s.die d).ftail ∧
      (∀ j, j < 128 → Memory.read s'.mem (pa + j) = p.bytes.getD j 0) ∧
      p.bytes.getD 7 0 = p.code ∧ bytesAt s' (pa + 8) 8 = p.pc.toNat ∧ bytesAt s' (pa + 0x18) 8 = p.addr.toNat ∧
      bytesAt s' (pa + 0x30) 8 = p.time.toNat) ∧
  (∀ (s : State) (d k : Nat) (st : Strand), s.ev.die = d → s.ev.slot = k → s.strand (.sup d k) = some st →
    ∃ s', exec .supervisorEscalation s = .next s' ∧ s.SameBytes s' ∧ (∀ r, s'.strand r = s.strand r) ∧
      ∃ x : EvArg, Turn.happen .mailboxPost x ∈ s'.agenda ∧ x.pkg = d / 4 ∧ x.k = 8 + d % 4 ∧
        x.words.head? = some (nat (0x70 * 2 ^ 56)))

/-- R201, R117, R54, R46, R4, R8: SRD by any tile strand of sys.status gives its slot, kind, own class, pending and failed tokens,
of sys.cycle the clk and of sys.podtime the pod time of the issue; SWR of sys.status changes nothing. An anchored strand
reads its team's sys.aflags, and an SWR clears there the bits that it writes as 1 among 15:8 and 3:0, but for those that were
set in this clk (R47). A tile strand that
names a privileged number, or writes sys.cycle or sys.podtime, takes the privilege fault 0x02, and one that names a number
from 0x004 to 0x0FF the undefined-instruction fault with cause 4 (R125, R123). -/
def Sys2Proof.Claims.UserRegisters : Prop :=
  ∀ (s : State) (t k : Nat) (st : Strand) (g : GReg) (n : BitVec 12), s.At (.tile t k) st → k < 16 →
    (∃ st', exec (.srd g 0) s = .next (s.setStrand (.tile t k) st') ∧ st.Ended st' (st.fetch.own + 4) ∧ st'.acq = st.acq ∧
      (∀ j, j ≠ g → st'.rd j = st.rd j) ∧ (st'.rd g).toNat % 512 = k ∧
      (st'.rd g).extractLsb' 12 2 = st.cls ∧ (st'.rd g).toNat / 2 ^ 10 % 4 = st.kind.code ∧
      ∀ x : Fin 8, (st'.rd g).getLsbD (16 + x) = (s.toks (.tile t k) st)[x].pending ∧
        (st'.rd g).getLsbD (24 + x) = (s.toks (.tile t k) st)[x].failed) ∧
    (∃ st', exec (.srd g 2) s = .next (s.setStrand (.tile t k) st') ∧ st.Ended st' (st.fetch.own + 4) ∧
      st.Writes st' g (nat s.clk)) ∧
    (∃ st', exec (.srd g 3) s = .next (s.setStrand (.tile t k) st') ∧ st.Ended st' (st.fetch.own + 4) ∧
      st.Writes st' g (nat (s.podBase + (5 * s.clk + s.podPhase) / 8))) ∧
    (∃ st', exec (.swr g 0) s = .next (s.setStrand (.tile t k) st') ∧ Retired st st') ∧
    (∀ m, st.kind = .anchored → s.team t = some m →
      (∃ st', exec (.srd g 1) s = .next (s.setStrand (.tile t k) st') ∧ st.Ended st' (st.fetch.own + 4) ∧
        st.Writes st' g m.aflags) ∧
      ∃ s' st', exec (.swr g 1) s = .next s' ∧ s'.strand (.tile t k) = some st' ∧ Retired st st' ∧ s.SameBytes s' ∧
        s.SameSpecial s' ∧ s'.team t = some { m with aflags := (m.aflags &&& ~~~(st.rd g &&& 0xFF0F)) ||| m.raised }) ∧
    (0x100 ≤ n.toNat → (∃ s', exec (.srd g n) s = .next s' ∧ Traps s s' t k st 0x02 0 0) ∧
      ∃ s', exec (.swr g n) s = .next s' ∧ Traps s s' t k st 0x02 0 0) ∧
    (n = 2 ∨ n = 3 → ∃ s', exec (.swr g n) s = .next s' ∧ Traps s s' t k st 0x02 0 0) ∧
    (4 ≤ n.toNat → n.toNat < 0x100 → (∃ s', exec (.srd g n) s = .next s' ∧ Traps s s' t k st 0x01 4 0) ∧
      ∃ s', exec (.swr g n) s = .next s' ∧ Traps s s' t k st 0x01 4 0) ∧
    (∃ s', exec (.srdSysFhead g) s = .next s' ∧ Traps s s' t k st 0x02 0 0) ∧
    (∃ s', exec (.swrSysFtail g) s = .next s' ∧ Traps s s' t k st 0x02 0 0) ∧
    ∃ s', exec (.swrSysCtxload g) s = .next s' ∧ Traps s s' t k st 0x02 0 0

/-- R300, R201, R304, R54, R4: a supervisor strand of die d reads sys.status with its slot and class, sys.cycle and sys.podtime, which its
writes leave; it reads sys.svid, sys.ctxtab, sys.tiletab, sys.fring, sys.ftail, sys.svasid,
sys.secstate (debug level in bits 5:4, security level in 1:0) and sys.pstate (1 in place of 0 while the die is idle, log entry
35), and sys.fhead with an acquire action; it writes
sys.ctxtab, sys.tiletab and sys.fring whole, the low 12 bits of sys.svasid and the low 32 of sys.ftail, and its writes of the
read-only sys.svid, sys.fhead, sys.secstate and sys.pstate change none of them. That sys.ctxtab, sys.tiletab and sys.fring read 0
before their first write is the model's choice (log entry 2). -/
def Sys2Proof.Claims.SupervisorRegisters : Prop :=
  ∀ (s : State) (d k : Nat) (st : Strand) (g : GReg), s.At (.sup d k) st →
    let x := s.die d
    let reads (n : BitVec 12) (v : W64) : Prop := ∃ st', exec (.srd g n) s = .next (s.setStrand (.sup d k) st') ∧
      st.Ended st' (st.fetch.own + 4) ∧ st'.acq = st.acq ∧ st.Writes st' g v
    let writes (i : Instr) (p : Die → Prop) : Prop := ∃ s' st', exec i s = .next s' ∧ s'.strand (.sup d k) = some st' ∧
      Retired st st' ∧ s.SameBytes s' ∧ (∀ e, e ≠ d → s'.die e = s.die e) ∧ p (s'.die d)
    (k < 4 → ∃ st', exec (.srd g 0) s = .next (s.setStrand (.sup d k) st') ∧ st.Ended st' (st.fetch.own + 4) ∧
      (∀ j, j ≠ g → st'.rd j = st.rd j) ∧ (st'.rd g).toNat % 512 = k ∧ (st'.rd g).extractLsb' 12 2 = st.cls) ∧
    reads 2 (nat s.clk) ∧ reads 3 (nat (s.podBase + (5 * s.clk + s.podPhase) / 8)) ∧
    (∀ n, n = 0 ∨ n = 2 ∨ n = 3 → ∃ st', exec (.swr g n) s = .next (s.setStrand (.sup d k) st') ∧ Retired st st') ∧
    reads 0x100 (nat ((s.pkg (d / 4)).number.toNat * 4 + d % 4)) ∧ reads 0x101 (x.ctxtab.getD 0) ∧ reads 0x102 (x.tiletab.getD 0) ∧
    reads 0x103 (x.fring.getD 0) ∧ reads 0x105 (nat x.ftail.toNat) ∧ reads 0x106 (nat x.svasid.toNat) ∧
    reads 0x107 (nat (((s.pkg (d / 4)).debug).toNat * 16 + (s.pkg (d / 4)).sec.toNat)) ∧ reads 0x108 (nat (if x.pstate = 0 ∧ s.dieIdle d = true then 1 else x.pstate.toNat)) ∧
    (∃ s' st', exec (.srdSysFhead g) s = .next s' ∧ s'.strand (.sup d k) = some st' ∧ s.OnlyStrand s' (.sup d k) ∧
      st.Ended st' (st.fetch.own + 4) ∧ st'.acq = s.podTime ∧ st.Writes st' g (nat x.fhead.toNat)) ∧
    writes (.swr g 0x101) (fun y => y.ctxtab = some (st.rd g) ∧ y.tiletab = x.tiletab ∧ y.fring = x.fring ∧ y.svasid = x.svasid) ∧
    writes (.swr g 0x102) (fun y => y.tiletab = some (st.rd g) ∧ y.ctxtab = x.ctxtab ∧ y.fring = x.fring ∧ y.svasid = x.svasid) ∧
    writes (.swr g 0x103) (fun y => y.fring = some (st.rd g) ∧ y.ctxtab = x.ctxtab ∧ y.tiletab = x.tiletab ∧ y.svasid = x.svasid) ∧
    writes (.swr g 0x106) (fun y => y.svasid = (st.rd g).setWidth 12 ∧ y.ctxtab = x.ctxtab ∧ y.tiletab = x.tiletab) ∧
    writes (.swrSysFtail g) (fun y => y.ftail = (st.rd g).setWidth 32 ∧ y.fhead = x.fhead ∧ y.fring = x.fring) ∧
    ∀ n, n = 0x100 ∨ n = 0x104 ∨ n = 0x107 ∨ n = 0x108 → writes (.swr g n) (fun y => y.ctxtab = x.ctxtab ∧
      y.tiletab = x.tiletab ∧ y.fring = x.fring ∧ y.fhead = x.fhead ∧ y.ftail = x.ftail ∧ y.svasid = x.svasid ∧
      y.pstate = x.pstate)

/-- R201, R117, R54, R46, R4, R8, R300, R304: UserRegisters and SupervisorRegisters. -/
def Obligations.RegisterResults : Prop := Claims.UserRegisters ∧ Claims.SupervisorRegisters

/-- R301, R302, R303, R343: a supervisor's SWR of sys.ctxload, with both table bases loaded and a context number other than 0,
loads that context's entry (its valid bit, class ceiling, quantum and page-table root from the 128 bytes at the context
table's base plus 128 times the number) and its 256 grant bits from the grant table; the die's other contexts stay as they
were, no TLB entry of the context's addresses is left on the die, and, when the die's dirty logs are empty and no store of the
context is on its way there, no byte of memory changes. -/
def Obligations.ContextLoad : Prop :=
  ∀ (s : State) (d k a : Nat) (st : Strand) (g : GReg) (cb tb : W64), s.At (.sup d k) st →
    (s.die d).ctxtab = some cb → (s.die d).tiletab = some tb → a = (st.rd g).toNat % 4096 → a ≠ 0 →
    let w0 := bytesAt s (cb.toNat + 128 * a) 8
    ∃ s', exec (.swrSysCtxload g) s = .next s' ∧
      ((∀ e ∈ s.tiles, e.1 / 256 = d → e.2.dirty = [] ∧ ∀ x ∈ e.2.sb, x.asid = a → x.registered = true) → s.SameBytes s') ∧
      (s'.ctx d a).valid = w0.testBit 63 ∧ (s'.ctx d a).ceiling.toNat = w0 / 2 ^ 60 % 4 ∧
      (s'.ctx d a).quantum = w0 % 2 ^ 32 ∧ (s'.ctx d a).ptroot = bytesAt s (cb.toNat + 128 * a + 8) 8 ∧
      ((s'.die d).grants.get 0 a).toNat = bytesAt s (tb.toNat + 32 * a) 32 ∧
      (∀ b, b ≠ a → s'.ctx d b = s.ctx d b ∧ (s'.die d).grants.get 0 b = (s.die d).grants.get 0 b) ∧
      (∀ e ∈ (s'.die d).tlb, e.asid = a → 2 ^ 56 ≤ e.va ∨ e.va + e.size = 0) ∧
      (∀ t, t / 256 = d → ∀ e ∈ (s'.tile t).tlb, e.asid = a → 2 ^ 56 ≤ e.va ∨ e.va + e.size = 0) ∧
      ∃ st', s'.strand (.sup d k) = some st' ∧ st'.pc = st.fetch.own + 4 ∧ st'.SameRegs st

/-! ## Vectors -/

namespace Sys2Proof.Claims
open Sys2Proof.Machine

/-- The low w bits of an integer, as a natural number. -/
def wrap (w : Nat) (x : Int) : Nat := (x % 2 ^ w).toNat

/-- A lane of w bits as a signed integer (R206). -/
def sgn (w x : Nat) : Int := if x < 2 ^ (w - 1) then x else x - 2 ^ w

/-- An integer clamped to w signed bits, and sat where it was outside (R35). -/
def clamp (w : Nat) (x : Int) : Nat × W64 :=
  let lo : Int := -(2 ^ (w - 1))
  let hi : Int := 2 ^ (w - 1) - 1
  (wrap w (Max.max lo (Min.min hi x)), if x < lo ∨ hi < x then flSat else 0)

/-- A rounded floating result with its flags (R43). -/
def rounded (t : LaneType) (ops : List FVal) (x : FVal) : Nat × W64 := fpResult t ops x

/-- The number that a finite datum denotes. -/
def val : FVal → ℚ
  | .fin s n d => (if s then -1 else 1) * ((n : ℚ) / d)
  | .inf _ => 0
  | .nan _ => 0

/-- A finite datum: a fraction over a denominator above 0. -/
def FiniteVal (x : FVal) : Prop := ∃ s n d, x = .fin s n d ∧ 0 < d

/-- The integer nearest a number, the even one of two (R11). -/
def NearestInt (x : ℚ) (q : ℤ) : Prop := |x - q| ≤ 1 / 2 ∧ (|x - q| = 1 / 2 → q % 2 = 0)

/-- The magnitude that the bits below the sign denote, with mb fraction bits and an exponent below 255 (R43). -/
def magnitude (mb c : Nat) : ℚ :=
  if c < 2 ^ mb then c * 2 ^ (-(126 + mb : ℤ)) else (2 ^ mb + c % 2 ^ mb : ℕ) * 2 ^ ((c / 2 ^ mb : ℕ) - 127 - mb : ℤ)

/-- The bits of the magnitude nearest a number, the even ones of two; from half a step above the greatest magnitude on, those
of infinity (R43). -/
def NearestBits (mb : Nat) (x : ℚ) (c : Nat) : Prop :=
  if (2 ^ (mb + 2) - 1) * 2 ^ (126 - mb) ≤ x then c = 255 * 2 ^ mb
  else c < 255 * 2 ^ mb ∧ ∀ k, k < 255 * 2 ^ mb → |x - magnitude mb c| ≤ |x - magnitude mb k| ∧
    (|x - magnitude mb c| = |x - magnitude mb k| → k ≠ c → c % 2 = 0)

/-- R43, R44, R45: what the model's numbers are. Reading the bits of a BF16 (mb 7) or an F32 (mb 23) gives the number they
denote, an infinity or a NaN. Sums and products are exact; a zero sum is −0 only of two −0; ∞ − ∞ and 0 × ∞ are NaNs, and a
NaN stays one. Rounding gives the nearest, OVF where a finite number becomes infinity, the canonical NaN for any NaN, and with
flush-to-zero a zero of its sign for a subnormal, UNF if that was not zero. An integer is the nearest one. 1 ÷ x is exact. -/
def Rounding : Prop :=
  (∀ (mb c : Nat) (s : Bool), c < 2 ^ (mb + 8) →
    (c < 255 * 2 ^ mb → FiniteVal (magVal s mb c) ∧ val (magVal s mb c) = (if s then -1 else 1) * magnitude mb c) ∧
    (c = 255 * 2 ^ mb → magVal s mb c = .inf s) ∧ (255 * 2 ^ mb < c → magVal s mb c = .nan s)) ∧
  (∀ x y : FVal, FiniteVal x → FiniteVal y →
    FiniteVal (x.add y) ∧ val (x.add y) = val x + val y ∧ FiniteVal (x.mul y) ∧ val (x.mul y) = val x * val y ∧
    val x.neg = -val x ∧ (val x ≠ 0 → FiniteVal x.rcp ∧ val x.rcp = 1 / val x) ∧ NearestInt (val x) x.toIntRne) ∧
  (∀ s t n m d e, 0 < d → 0 < e →
    (∀ u q, (FVal.fin s n d).add (.fin t m e) = .fin u 0 q → u = (s && t)) ∧
    (∃ p q, (FVal.fin s n d).mul (.fin t m e) = .fin (s != t) p q) ∧
    (FVal.inf s).add (.fin t m e) = .inf s ∧ (FVal.fin t m e).add (.inf s) = .inf s ∧
    (FVal.inf s).add (.inf t) = (if s = t then .inf s else .nan false) ∧
    (FVal.inf s).mul (.inf t) = .inf (s != t) ∧
    (FVal.inf s).mul (.fin t m e) = (if m = 0 then .nan false else .inf (s != t)) ∧
    (FVal.fin t m e).mul (.inf s) = (if m = 0 then .nan false else .inf (t != s))) ∧
  (∀ (s : Bool) (x : FVal), ((FVal.nan s).add x).isNan = true ∧ (x.add (.nan s)).isNan = true ∧
    ((FVal.nan s).mul x).isNan = true ∧ (x.mul (.nan s)).isNan = true) ∧
  (∀ (x y : FVal), FiniteVal x → FiniteVal y → (x.lt y = true ↔
    val x < val y ∨ val x = val y ∧ (∃ n d, x = .fin true n d) ∧ ∃ n d, y = .fin false n d)) ∧
  ∀ (mb : Nat) (z s : Bool), mb = 7 ∨ mb = 23 →
    let sign : Nat := if s then 2 ^ (mb + 8) else 0
    (FVal.nan s).toBits mb z = (255 * 2 ^ mb + 2 ^ (mb - 1), 0) ∧ (FVal.inf s).toBits mb z = (sign + 255 * 2 ^ mb, 0) ∧
    ∀ n d : Nat, 0 < d → ∃ c, NearestBits mb ((n : ℚ) / d) c ∧ (FVal.fin s n d).toBits mb z =
      (sign + (if z = true ∧ c < 2 ^ mb then 0 else c),
        if c = 255 * 2 ^ mb then flOvf else if z = true ∧ c < 2 ^ mb ∧ c ≠ 0 then flUnf else 0)

/-- Destination, sources, predicate, type and, for the lanes of the sources, the new lane and its flags, of the instructions
that compute lane by lane (R214, R216, R217, R230, R231, R233). Integer lanes are exact modulo 2^w; floating ones are rounded
once from the exact value. -/
def laneOf (i : Instr) (st : Strand) (m : Team) : Option (VReg × List VReg × PReg × LaneType × (Nat → Nat × W64)) :=
  let x (a : VReg) (t : LaneType) (j : Nat) : Nat := lane (m.vr a) t.width j
  let two (d a b : VReg) (p : PReg) (t : LaneType) (f : Nat → Nat → Nat × W64) :
      Option (VReg × List VReg × PReg × LaneType × (Nat → Nat × W64)) :=
    some (d, [a, b], p, t, fun j => f (x a t j) (x b t j))
  let one (d a : VReg) (p : PReg) (t : LaneType) (f : Nat → Nat × W64) :
      Option (VReg × List VReg × PReg × LaneType × (Nat → Nat × W64)) :=
    some (d, [a], p, t, fun j => f (x a t j))
  let fl (t : LaneType) : Nat → FVal := fpLane t
  match i with
  | .vadd d a b p t => two d a b p t (fun y z => if t.int then ((y + z) % 2 ^ t.width, 0)
      else rounded t [fl t y, fl t z] ((fl t y).add (fl t z)))
  | .vsub d a b p t => two d a b p t (fun y z => if t.int then ((y + 2 ^ t.width - z) % 2 ^ t.width, 0)
      else rounded t [fl t y, fl t z] ((fl t y).add (fl t z).neg))
  | .vmul d a b p t => two d a b p t (fun y z => if t.int then (y * z % 2 ^ t.width, 0)
      else rounded t [fl t y, fl t z] ((fl t y).mul (fl t z)))
  | .vmac d a b p t => some (d, [a, b], p, t, fun j =>
      clamp t.width (sgn t.width (x d t j) + sgn t.width (x a t j) * sgn t.width (x b t j)))
  | .vfma d a b p t => some (d, [a, b], p, t, fun j =>
      rounded t [fl t (x a t j), fl t (x b t j), fl t (x d t j)]
        (((fl t (x a t j)).mul (fl t (x b t j))).add (fl t (x d t j))))
  | .vmin d a b p t => two d a b p t (fun y z => (if t.int then if sgn t.width y ≤ sgn t.width z then y else z
      else if (fl t y).isNan || (fl t z).isNan then nanLane t else if (fl t z).lt (fl t y) then z else y, 0))
  | .vmax d a b p t => two d a b p t (fun y z => (if t.int then if sgn t.width z ≤ sgn t.width y then y else z
      else if (fl t y).isNan || (fl t z).isNan then nanLane t else if (fl t y).lt (fl t z) then z else y, 0))
  | .vabs d a p t => one d a p t (fun y => (if t.int then wrap t.width |sgn t.width y|
      else if t = .f8 ∧ y = 0x80 then 1 else y % 2 ^ (t.width - 1), 0))
  | .vneg d a p t => one d a p t (fun y => (if t.int then wrap t.width (-sgn t.width y)
      else if t = .f8 ∧ y = 0 then 0 else if t = .f8 ∧ y = 0x80 then 1
      else (y + 2 ^ (t.width - 1)) % 2 ^ t.width, 0))
  | .vshl d a b p t => two d a b p t (fun y c => (if t.width ≤ c then 0 else y * 2 ^ c % 2 ^ t.width, 0))
  | .vshr d a b p t => two d a b p t (fun y c => (if t.width ≤ c then 0 else y / 2 ^ c, 0))
  | .vsar d a b p t => two d a b p t (fun y c => (wrap t.width (sgn t.width y / 2 ^ Min.min c (t.width - 1)), 0))
  | .vand d a b p t => two d a b p t (fun y z => (y &&& z, 0))
  | .vor d a b p t => two d a b p t (fun y z => (y ||| z, 0))
  | .vxor d a b p t => two d a b p t (fun y z => (y ^^^ z, 0))
  | .vbcst d a p t => some (d, [], p, t, fun _ => ((st.rd a).toNat % 2 ^ t.width, 0))
  | .vmov d a p t => one d a p t (fun y => (y, 0))
  | .vperm d a k p t => some (d, [a, k], p, t, fun j => (if x k t j < t.lanes then x a t (x k t j) else 0, 0))
  | .vslid d a b p t => some (d, [a], p, t, fun j =>
      let y : Int := j + (st.rd b).toInt
      (if 0 ≤ y ∧ y < t.lanes then x a t y.toNat else 0, 0))
  | .vexp2 d a p t => one d a p t (fun y => rounded t [fl t y] (fl t y).exp2)
  | .vrcp d a p t => one d a p t (fun y => rounded t [fl t y] (fl t y).rcp)
  | .vrsq d a p t => one d a p t (fun y => rounded t [fl t y] (fl t y).rsq)
  | .vtunp d a p => some (d, [a], p, .b, fun j =>
      if 125 ≤ j then (0, 0)
      else match t5Trits (BitVec.ofNat 8 (lane (m.vr a) 8 (j / 5))) with
        | some l => (wrap 8 (l.getD (j % 5) 0), 0)
        | none => (0, flInv))
  | _ => none

/-- The relation of a comparison on two lanes (R219): signed, unsigned or floating, where −0 equals +0 and a NaN makes every
relation but VCMP.ne false. -/
def compareOf (i : Instr) : Option (PReg × VReg × VReg × PReg × LaneType × (Nat → Nat → Bool)) :=
  let eq (t : LaneType) (y z : Nat) : Bool := if t.int then y == z else (fpLane t y).eqNum (fpLane t z)
  let lt (t : LaneType) (y z : Nat) : Bool :=
    if t.int then decide (sgn t.width y < sgn t.width z) else (fpLane t y).ltNum (fpLane t z)
  match i with
  | .vcmpEq d a b p t => some (d, a, b, p, t, eq t)
  | .vcmpNe d a b p t => some (d, a, b, p, t, fun y z => !eq t y z)
  | .vcmpLt d a b p t => some (d, a, b, p, t, lt t)
  | .vcmpLe d a b p t => some (d, a, b, p, t, fun y z => lt t y z || eq t y z)
  | .vcmpLtu d a b p t => some (d, a, b, p, t, fun y z => decide (y < z))
  | .vcmpLeu d a b p t => some (d, a, b, p, t, fun y z => decide (y ≤ z))
  | _ => none

/-- No VXCH of the team is still to write one of these registers (R208). -/
def NoExch (m : Team) (l : List VReg) : Prop := ∀ e ∈ m.exch, e.d ∉ l

/-- The instruction of an anchored strand has retired; its team is m' and nothing else has changed of what a program can see:
no register of the strand, no other strand, no other team, no byte of memory, no special register. -/
def TeamStep (s s' : State) (t k : Nat) (st : Strand) (m' : Team) : Prop :=
  (∃ st', s'.strand (.tile t k) = some st' ∧ Retired st st') ∧ s'.team t = some m' ∧
  (∀ u, u ≠ t → s'.team u = s.team u) ∧ (∀ q, q ≠ .tile t k → s'.strand q = s.strand q) ∧
  s.SameBytes s' ∧ s.SameSpecial s'

/-- Of the team, only register vd and the flags differ, and no flag is cleared (R46, R209); flags that become set count as set
in this clk (R47). -/
def OnlyV (m m' : Team) (d : VReg) : Prop :=
  m' = { m with v := m'.v, aflags := m'.aflags, raised := m'.raised } ∧ (∀ r, r ≠ d → m'.vr r = m.vr r) ∧
  m'.aflags &&& m.aflags = m.aflags ∧ m'.raised &&& m.raised = m.raised ∧
  m'.aflags &&& ~~~m.aflags &&& ~~~m'.raised = 0

/-- Of the team, only predicate pd differs; p0 stays (R101). -/
def OnlyP (m m' : Team) (d : PReg) (bit : Nat → Bool) : Prop :=
  m' = { m with p := m'.p } ∧ (∀ r, r ≠ d → m'.pred r = m.pred r) ∧
  (d ≠ 0 → ∀ j, j < 128 → (m'.pred d).getLsbD j = bit j) ∧ (d = 0 → m' = m)

end Sys2Proof.Claims

namespace Sys2Proof.Claims
open Sys2Proof.Machine

/-- R205 to R209, R214, R216, R217, R230, R231, R233: a lane-by-lane vector instruction writes to every active lane of vd the
value its rule gives, leaves every inactive lane as it was, sets the flags of the active lanes and clears none, and changes
no other register. -/
def LaneResults : Prop :=
  ∀ (s : State) (t k : Nat) (st : Strand) (m : Team) (i : Instr) (d : VReg) (src : List VReg) (p : PReg) (ty : LaneType)
    (f : Nat → Nat × W64),
    s.InTeam t k st m → laneOf i st m = some (d, src, p, ty, f) → NoExch m (d :: src) →
    ∃ s' m', exec i s = .next s' ∧ TeamStep s s' t k st m' ∧ OnlyV m m' d ∧
      (∀ j, j < ty.lanes → lane (m'.vr d) ty.width j =
        if (m.pred p).getLsbD j then (f j).1 % 2 ^ ty.width else lane (m.vr d) ty.width j) ∧
      ∀ b, m'.aflags.getLsbD b = (m.aflags.getLsbD b ||
        (List.range ty.lanes).any (fun j => (m.pred p).getLsbD j && (f j).2.getLsbD b))

/-- A floating sum after some halvings (R51): lane j takes lane j plus lane j + n/2, rounded once, with the flags of every
addition. -/
def halved (t : LaneType) (x : Nat → Nat) : Nat → Nat → Nat × W64
  | 0, j => (x j, 0)
  | i + 1, j =>
    let a := halved t x i j
    let b := halved t x i (j + t.lanes / 2 ^ (i + 1))
    let r := rounded t [fpLane t a.1, fpLane t b.1] ((fpLane t a.1).add (fpLane t b.1))
    (r.1, a.2 ||| b.2 ||| r.2)

/-- What VRMAX or VRMIN gives with no active lane (R221). -/
def overNone (t : LaneType) (greatest : Bool) : Nat :=
  if t.int then (if greatest then 2 ^ (t.width - 1) else 2 ^ (t.width - 1) - 1)
  else if t = .f8 then (if greatest then 0xFE else 0x7E)
  else if t.width = 16 then (if greatest then 0xFF80 else 0x7F80) else if greatest then 0xFF800000 else 0x7F800000

/-- The NaN that a reduction gives (R43, R221). -/
def quietNan (t : LaneType) : Nat := if t = .f8 then 0x7F else if t.width = 16 then 0x7FC0 else 0x7FC00000

/-- Lane y lies below lane z: signed, or floating with −0 below +0 (R221). -/
def below (t : LaneType) (y z : Nat) : Bool :=
  if t.int then decide (sgn t.width y < sgn t.width z) else (fpLane t y).lt (fpLane t z)

/-- The greatest or least of the lanes of a list (R221): what an empty list gives; a NaN where one lane is a NaN; else one of
the lanes, none being beyond it. -/
def Extreme (t : LaneType) (greatest : Bool) (l : List Nat) (r : Nat) : Prop :=
  if l = [] then r = overNone t greatest
  else if t.int = false ∧ (l.any (fun y => (fpLane t y).isNan)) = true then r = quietNan t
  else r ∈ l ∧ ∀ y ∈ l, (if greatest then below t r y else below t y r) = false

end Sys2Proof.Claims

/-- R205 to R209, R214, R216, R217, R230, R231, R233, with the numbers of R43 to R45: a lane-by-lane vector instruction writes
to every active lane of vd the value its rule gives, leaves every inactive lane as it was, sets the flags of the active lanes
and clears none, and changes no other register; the sums, products, quotients and roundings it uses are the exact ones, rounded
to nearest. (2^x and 1 ÷ √x are the model's own, FVal.exp2 and FVal.rsq, with their special cases.) -/
def Obligations.VectorLaneResults : Prop := Claims.Rounding ∧ Claims.LaneResults

/-- R218, R220, R221, R232: VSEL takes every lane from va where the predicate bit is 1 and from vb elsewhere. VRSUM of integer
lanes puts the exact sum of the active lanes, clamped to 32 signed bits, into the low 32 bits of vd, every other bit 0, and
of floating lanes the sum by halving, inactive lanes counting as −0 (no active lane: +0), with the flags of its additions.
VRMAX and VRMIN put the greatest and least active lane into lane 0, every other bit 0; a NaN among them gives the canonical NaN,
and no active lane the value of R221's table; they set no flag. VTPK packs the signs of active byte lanes 0 to 124, five to a
byte, into bytes 0 to 24, the others 0, and sets sat for a magnitude above 1. -/
def Obligations.SelectReduceResults : Prop :=
  ∀ (s : State) (t k : Nat) (st : Strand) (m : Team) (d a b : VReg) (p : PReg) (ty : LaneType),
    s.InTeam t k st m → NoExch m [d, a, b] →
    let act := (List.range ty.lanes).filter (fun j => (m.pred p).getLsbD j)
    let x (r : VReg) (j : Nat) : Nat := lane (m.vr r) ty.width j
    (∃ s' m', exec (.vsel d a b p ty) s = .next s' ∧ TeamStep s s' t k st m' ∧ OnlyV m m' d ∧ m'.aflags = m.aflags ∧
      ∀ j, j < ty.lanes → lane (m'.vr d) ty.width j = if (m.pred p).getLsbD j then x a j else x b j) ∧
    (ty.int = true → ∃ s' m', exec (.vrsum d a p ty) s = .next s' ∧ TeamStep s s' t k st m' ∧ OnlyV m m' d ∧
      let r := clamp 32 ((act.map (fun j => sgn ty.width (x a j))).sum)
      (m'.vr d).toNat = r.1 ∧ m'.aflags = m.aflags ||| r.2) ∧
    (ty.int = false → ty ≠ .f8 → ∃ s' m', exec (.vrsum d a p ty) s = .next s' ∧ TeamStep s s' t k st m' ∧ OnlyV m m' d ∧
      let r := halved ty (fun j => if (m.pred p).getLsbD j then x a j else 2 ^ (ty.width - 1)) ty.lanes.log2 0
      (m'.vr d).toNat = (if act = [] then 0 else r.1) ∧ m'.aflags = (if act = [] then m.aflags else m.aflags ||| r.2)) ∧
    (∃ s' m', exec (.vrmax d a p ty) s = .next s' ∧ TeamStep s s' t k st m' ∧ OnlyV m m' d ∧ m'.aflags = m.aflags ∧
      Extreme ty true (act.map (x a)) (m'.vr d).toNat) ∧
    (∃ s' m', exec (.vrmin d a p ty) s = .next s' ∧ TeamStep s s' t k st m' ∧ OnlyV m m' d ∧ m'.aflags = m.aflags ∧
      Extreme ty false (act.map (x a)) (m'.vr d).toNat) ∧
    ∃ s' m', exec (.vtpk d a p) s = .next s' ∧ TeamStep s s' t k st m' ∧ OnlyV m m' d ∧
      m'.aflags = m.aflags ||| (if (List.range 125).any (fun j => (m.pred p).getLsbD j &&
        decide (1 < (sgn 8 (lane (m.vr a) 8 j)).natAbs)) then flSat else 0) ∧
      (∀ j, 25 ≤ j → j < 128 → lane (m'.vr d) 8 j = 0) ∧
      ∀ j, j < 25 → lane (m'.vr d) 8 j = (t5Byte ((List.range 5).map (fun c =>
        if (m.pred p).getLsbD (5 * j + c) then (sgn 8 (lane (m.vr a) 8 (5 * j + c))).sign else 0))).toNat

/-- R219, R234, R235, R101: a comparison gives predicate bit j the relation of the lanes where j is an active lane, and 0
elsewhere; PAND, POR and PNOT work bit by bit; PSET gives bits below ga, the bits of ga, or bits repeated 16 times; PCNT
counts the bits below the lane count into gd. A write of p0 is lost. -/
def Obligations.PredicateResults : Prop :=
  ∀ (s : State) (t k : Nat) (st : Strand) (m : Team), s.InTeam t k st m →
    (∀ i d a b p ty rel, compareOf i = some (d, a, b, p, ty, rel) → NoExch m [a, b] →
      ∃ s' m', exec i s = .next s' ∧ TeamStep s s' t k st m' ∧ OnlyP m m' d (fun j =>
        decide (j < ty.lanes) && (m.pred p).getLsbD j && rel (lane (m.vr a) ty.width j) (lane (m.vr b) ty.width j))) ∧
    (∀ d a b, (∃ s' m', exec (.pand d a b) s = .next s' ∧ TeamStep s s' t k st m' ∧
        OnlyP m m' d (fun j => (m.pred a).getLsbD j && (m.pred b).getLsbD j)) ∧
      (∃ s' m', exec (.por d a b) s = .next s' ∧ TeamStep s s' t k st m' ∧
        OnlyP m m' d (fun j => (m.pred a).getLsbD j || (m.pred b).getLsbD j)) ∧
      ∃ s' m', exec (.pnot d a) s = .next s' ∧ TeamStep s s' t k st m' ∧ OnlyP m m' d (fun j => !(m.pred a).getLsbD j)) ∧
    (∀ (d : PReg) (g : GReg) (mode : LaneType), mode = .b ∨ mode = .h ∨ mode = .w →
      ∃ s' m', exec (.pset d g mode) s = .next s' ∧ TeamStep s s' t k st m' ∧ OnlyP m m' d (fun j =>
        if mode = .b then decide (j < (st.rd g).toNat) else if mode = .h then (st.rd g).getLsbD j
        else (st.rd g).getLsbD (j / 16))) ∧
    ∀ (d : GReg) (a : PReg) (ty : LaneType), ∃ st', exec (.pcnt d a ty) s = .next (s.setStrand (.tile t k) st') ∧
      st.Ended st' (st.fetch.own + 4) ∧
      st.Writes st' d (nat ((List.range ty.lanes).filter (fun j => (m.pred a).getLsbD j)).length)

namespace Sys2Proof.Claims
open Sys2Proof.Machine

/-- The element addresses of the vector loads and stores of R213, with the registers they name beside. -/
def vecAccess (i : Instr) (st : Strand) (m : Team) : Option (VReg × List VReg × PReg × LaneType × W64 × (Nat → W64)) :=
  let row (t : LaneType) (a : GReg) (j : Nat) : W64 := st.rd a + nat (t.size * j)
  let stride (a b : GReg) (j : Nat) : W64 := st.rd a + nat (j * (st.rd b).toNat)
  let index (t : LaneType) (a : GReg) (x : VReg) (j : Nat) : W64 := st.rd a + nat (t.size * lane (m.vr x) t.width j)
  let trans (t : LaneType) (a b : GReg) (j : Nat) : W64 := st.rd a + nat (j % 16 * (st.rd b).toNat + j / 16 * t.size)
  match i with
  | .vld d a p t => some (d, [], p, t, 0, row t a)
  | .vst d a p t => some (d, [], p, t, 0, row t a)
  | .vlds d a b p t => some (d, [], p, t, st.rd b, stride a b)
  | .vsts d a b p t => some (d, [], p, t, st.rd b, stride a b)
  | .vgth d a x p t => some (d, [x], p, t, 0, index t a x)
  | .vsct d a x p t => some (d, [x], p, t, 0, index t a x)
  | .vldt d a b p t => some (d, [], p, t, st.rd b, trans t a b)
  | _ => none

/-- The vector stores. -/
def vecStores (i : Instr) : Bool :=
  match i with
  | .vst _ _ _ _ => true
  | .vsts _ _ _ _ _ => true
  | .vsct _ _ _ _ _ => true
  | _ => false

end Sys2Proof.Claims

/-- R211 to R213: with every active lane's element aligned in the tile's own scratchpad, a vector load writes its elements
into the active lanes, and leaves the others; a vector store appends, for every active lane, a store of its element, in
rising order of lanes, and changes no byte of memory yet. -/
def Obligations.VectorMemoryResults : Prop :=
  ∀ (s : State) (t k : Nat) (st : Strand) (m : Team) (i : Instr) (v : VReg) (src : List VReg) (p : PReg) (ty : LaneType)
    (pitch : W64) (addr : Nat → W64) (off : Nat → Nat),
    s.InTeam t k st m → vecAccess i st m = some (v, src, p, ty, pitch, addr) → NoExch m (v :: src) →
    s.drained (.tile t k) st = true → pitch.toNat % ty.size = 0 →
    (∀ j, j < ty.lanes → (m.pred p).getLsbD j = true →
      OwnBytes s t st m (addr j) (off j) ty.size ∧ (addr j).toNat % ty.size = 0) →
    let act := (List.range ty.lanes).filter (fun j => (m.pred p).getLsbD j)
    (vecStores i = false → ∃ s' m', exec i s = .next s' ∧ TeamStep s s' t k st m' ∧ OnlyV m m' v ∧ m'.aflags = m.aflags ∧
      ∀ j, j < ty.lanes → lane (m'.vr v) ty.width j =
        if (m.pred p).getLsbD j then bytesAt s (Loc.spad t (off j)).key ty.size else lane (m.vr v) ty.width j) ∧
    (vecStores i = true → ∃ s', exec i s = .next s' ∧ TeamStep s s' t k st m ∧
      ((s'.tile t).sb.drop (s.tile t).sb.length).map (fun e => (e.uid, e.segs, e.data, e.registered)) =
        act.map (fun j => (st.uid, [(Loc.spad t (off j), ty.size)], leBytes ty.size (lane (m.vr v) ty.width j), false)) ∧
      (s'.tile t).sb.take (s.tile t).sb.length = (s.tile t).sb)

namespace Sys2Proof.Claims
open Sys2Proof.Machine

/-- R40: the number of an F8N byte that is no NaN. -/
def f8 (b : Nat) : ℚ :=
  if b = 0 then 0 else (if b < 0x80 then 1 else -1) * ((8 + b % 8 : ℕ) : ℚ) / 8 * 2 ^ ((b / 8 % 16 : ℕ) - 7 : ℤ)

/-- R40 to R42: bytes 0x7F and 0xFF are NaN, every other byte its number. Converted to F8N, a NaN keeps its sign; an infinity,
or a magnitude above 464, gives ±448 or a NaN of its sign, and OVF; any other number the nearest F8N number, of two the one with
an even fraction, 0 before −2^−7, and UNF where it is not 0 and becomes 0. -/
def F8nResults : Prop :=
  (∀ b : Byte, if b.toNat % 128 = 127 then FVal.ofF8 b = .nan (b.getLsbD 7)
    else FiniteVal (FVal.ofF8 b) ∧ val (FVal.ofF8 b) = f8 b.toNat) ∧
  ∀ (x : FVal) (sat s : Bool),
    let out : Byte := (if sat then 0x7E else 0x7F) + if s then 0x80 else 0
    (x = .nan s → x.toF8 sat = ((if s then 0xFF else 0x7F), 0)) ∧
    (x = .inf s → x.toF8 sat = (out, flOvf)) ∧
    (FiniteVal x → s = decide (val x < 0) → 464 < |val x| → x.toF8 sat = (out, flOvf)) ∧
    (FiniteVal x → |val x| ≤ 464 → ∃ y : Byte, y.toNat % 128 ≠ 127 ∧
      (∀ k < 256, k % 128 ≠ 127 → |val x - f8 y.toNat| ≤ |val x - f8 k| ∧
        (|val x - f8 y.toNat| = |val x - f8 k| → k ≠ y.toNat → y.toNat % 2 = 0 ∧ (k = 0 → y ≠ 0x80))) ∧
      x.toF8 sat = (y, if y = 0 ∧ val x ≠ 0 then flUnf else 0))

/-- R38, R39: an element P of a block of scale code E is P × 2^(E − 127) × 2^−6, and 0 with the code 0xFF. Quantising a block
gives, where an active value is no number, zeros, the code 0xFF and INV; where all are 0, zeros and the code 0; else the code
of the exponent of the greatest magnitude, kept between 0 and 254, and for every active value the integer nearest its quotient,
kept between −127 and 127, 0 for the others. -/
def MxResults : Prop :=
  (∀ p e : Byte, FiniteVal (mxVal p e) ∧
    val (mxVal p e) = if e = 0xFF then 0 else (p.toInt : ℚ) * 2 ^ (e.toNat - 127 : ℤ) * 2 ^ (-6 : ℤ)) ∧
  ∀ l : List (Option FVal), (∀ s n d, some (FVal.fin s n d) ∈ l → 0 < d) →
    ((∃ x, some x ∈ l ∧ ¬ FiniteVal x) → mxQuant l = (l.map (fun _ => 0), 0xFF, flInv)) ∧
    ((∀ x, some x ∈ l → FiniteVal x ∧ val x = 0) → mxQuant l = (l.map (fun _ => 0), 0, 0)) ∧
    ((∀ x, some x ∈ l → FiniteVal x) → (∃ x, some x ∈ l ∧ val x ≠ 0) → ∃ e : ℤ,
      (∀ x, some x ∈ l → |val x| < 2 ^ (e + 1)) ∧ (∃ x, some x ∈ l ∧ 2 ^ e ≤ |val x|) ∧
      let c : ℤ := Min.min (Max.max (e + 127) 0) 254
      (mxQuant l).2 = (BitVec.ofInt 8 c, 0) ∧ (mxQuant l).1.length = l.length ∧
      ∀ (i : Nat) (x : Option FVal), l[i]? = some x → ∃ q : ℤ, (mxQuant l).1[i]? = some (BitVec.ofInt 8 (Max.max (-127) (Min.min 127 q))) ∧
        match x with
        | none => q = 0
        | some v => NearestInt (val v * 2 ^ (127 - c) * 2 ^ 6) q)

/-- A number at an integer of w bits (R45): the nearest one, clamped, with SAT where that changes it; a NaN gives 0 and INV. -/
def integer (w : Nat) (x : FVal) : Nat × W64 :=
  match x with
  | .nan _ => (0, flInv)
  | .inf s => (if s then 2 ^ (w - 1) else 2 ^ (w - 1) - 1, flSat)
  | .fin s n d => clamp w (FVal.fin s n d).toIntRne

/-- The lane type at which a floating format computes, with or without flush-to-zero. -/
def laneType (x : Fmt) (z : Bool) : LaneType := if x = .bf then (if z then .bfz else .bf) else if z then .fz else .f

/-- A number at an element format, with its flags (R223). -/
def element (x : Fmt) (z sat : Bool) (v : FVal) : Nat × W64 :=
  match x with
  | .i8 => integer 8 v
  | .i4 => integer 4 v
  | .w => integer 32 v
  | .f8 => ((v.toF8 sat).1.toNat, (v.toF8 sat).2)
  | .bf => rounded (laneType .bf z) [v] v
  | .f => rounded (laneType .f z) [v] v
  | .mx8 => (0, 0)

/-- INV of an element in a block of scale code 0xFF (R38). -/
def badScale (x : Fmt) (v : VWord) (j : Nat) : W64 := if x = .mx8 ∧ lane v 8 (64 + j / 32) = 0xFF then flInv else 0

/-- An integer quantised to ±lim (R35, R227): clamped, with SAT where that changes it. -/
def limited (lim : Int) (q : Int) : Int × W64 :=
  (Max.max (-lim) (Min.min lim q), if q < -lim ∨ lim < q then flSat else 0)

/-- The product x × m quantised to ±lim (R227): a NaN gives 0 and INV, an infinity the end of the range and SAT. -/
def quantised (lim : Int) (x m : FVal) : Int × W64 :=
  match x.mul m with
  | .nan _ => (0, flInv)
  | .inf s => (if s then -lim else lim, flSat)
  | .fin s n d => limited lim (FVal.fin s n d).toIntRne

/-- The multiplier of a parameter block (R225), a subnormal one read as a zero of its sign with z (R43). -/
def factor (b : QBlock) : FVal :=
  let w := b.mul.toNat
  FVal.ofF32 (BitVec.ofNat 32 (if b.z = true ∧ w % 2 ^ 31 < 2 ^ 23 then w / 2 ^ 31 * 2 ^ 31 else w))

/-- Flag b is set in m' where it was in m, or where one of n elements that the predicate names raises it. -/
def Raises (m m' : Team) (p : PWord) (n : Nat) (fl : Nat → W64) : Prop :=
  ∀ b, m'.aflags.getLsbD b = (m.aflags.getLsbD b || (List.range n).any (fun j => p.getLsbD j && (fl j).getLsbD b))

/-- The MX register image (R224) of the active elements of a source: block b holds elements 32·b to 32·b + 31, quantised
together (MxResults); every other byte is 0. -/
def MxImage (x : Fmt) (z : Bool) (v : VWord) (p : PWord) (m m' : Team) (d : VReg) : Prop :=
  let n := if x = .bf then 2 else 1
  let block (b : Nat) := mxQuant ((List.range 32).map (fun i =>
    if p.getLsbD (32 * b + i) then some (srcElem x z v (32 * b + i)) else none))
  (∀ j, j < 128 → lane (m'.vr d) 8 j =
    if j < 32 * n then ((block (j / 32)).1.getD (j % 32) 0).toNat
    else if 64 ≤ j ∧ j < 64 + n then (block (j - 64)).2.1.toNat else 0) ∧
  ∀ b, m'.aflags.getLsbD b = (m.aflags.getLsbD b || (List.range n).any (fun j => (block j).2.2.getLsbD b))

/-- R222 to R224: VCVT writes element j of the source, converted, into element j of vd where the predicate bit is 1, and 0 to
the elements past the shorter of the two counts, with the flags of the active elements; to MXINT8 it writes the image. -/
def VcvtResults : Prop :=
  ∀ (s : State) (t k : Nat) (st : Strand) (m : Team) (d a : VReg) (z sat : Bool) (src dst : Fmt) (p : PReg),
    s.InTeam t k st m → NoExch m [d, a] →
    let n := Min.min (src.elems dst) (dst.elems src)
    (dst ≠ .mx8 → ∃ s' m', exec (.vcvt d a z sat src p dst) s = .next s' ∧ TeamStep s s' t k st m' ∧ OnlyV m m' d ∧
      (∀ j, j < 1024 / dst.bits → lane (m'.vr d) dst.bits j = if n ≤ j then 0 else if (m.pred p).getLsbD j
        then (element dst z sat (srcElem src z (m.vr a) j)).1 % 2 ^ dst.bits else lane (m.vr d) dst.bits j) ∧
      Raises m m' (m.pred p) n (fun j => (element dst z sat (srcElem src z (m.vr a) j)).2 ||| badScale src (m.vr a) j)) ∧
    (dst = .mx8 → src = .bf ∨ src = .f → ∃ s' m', exec (.vcvt d a z sat src p dst) s = .next s' ∧ TeamStep s s' t k st m' ∧
      OnlyV m m' d ∧ MxImage src z (m.vr a) (m.pred p) m m' d)

/-- R225 to R229, R35: VQNT and VDQ with a parameter block in the tile's own scratchpad. A block that fails R226 takes the
vector-parameter fault 0x17, after the faults of the map's address (R211: misaligned). VQNT multiplies and quantises every active element, an inactive one being 0; with a duplication
map, whose doubleword lies in the scratchpad too, an element whose bit is set gives two bytes, the upper and the lower half.
VDQ multiplies and rounds once. -/
def QuantResults : Prop :=
  ∀ (s : State) (t k off : Nat) (st : Strand) (m : Team) (d a : VReg) (g : GReg) (dst : Fmt) (p : PReg),
    s.InTeam t k st m → NoExch m [d, a] → OwnBytes s t st m (st.rd g) off 32 → (st.rd g).toNat % 32 = 0 →
    s.drained (.tile t k) st = true →
    let b := QBlock.parse (Memory.readN s.mem (Loc.spad t off).key 32)
    ((b.map = 0 ∨ dst ≠ .i8) →
      (b.check false dst = false → ∃ s', exec (.vqnt d a g p dst) s = .next s' ∧ Traps s s' t k st 0x17 0 (st.rd g)) ∧
      (b.check true dst = false → ∃ s', exec (.vdq d a g p dst) s = .next s' ∧ Traps s s' t k st 0x17 0 (st.rd g))) ∧
    (∀ woff, b.map ≠ 0 → dst = .i8 → OwnBytes s t st m (b.map + nat (b.k0 / 8)) woff 8 →
      ((b.map + nat (b.k0 / 8)).toNat % 8 ≠ 0 →
        ∃ s', exec (.vqnt d a g p dst) s = .next s' ∧ Traps s s' t k st 0x13 0 (b.map + nat (b.k0 / 8))) ∧
      ((b.map + nat (b.k0 / 8)).toNat % 8 = 0 → b.check false dst = false →
        ∃ s', exec (.vqnt d a g p dst) s = .next s' ∧ Traps s s' t k st 0x17 0 (st.rd g))) ∧
    (∀ x, b.map = 0 → b.check false dst = true → b.src = some x → dst = .i8 ∨ dst = .i4 →
      ∃ s' m', exec (.vqnt d a g p dst) s = .next s' ∧ TeamStep s s' t k st m' ∧ OnlyV m m' d ∧
        let r (j : Nat) := quantised (if dst = .i8 then 127 else 7) (srcElem x b.z (m.vr a) j) (factor b)
        (∀ j, j < 1024 / dst.bits → lane (m'.vr d) dst.bits j =
          if j < 1024 / x.bits ∧ (m.pred p).getLsbD j = true then wrap dst.bits (r j).1 else 0) ∧
        Raises m m' (m.pred p) (1024 / x.bits) (fun j => (r j).2)) ∧
    (∀ x woff, b.map ≠ 0 → dst = .i8 → b.check false dst = true → b.src = some x →
      OwnBytes s t st m (b.map + nat (b.k0 / 8)) woff 8 → (b.map + nat (b.k0 / 8)).toNat % 8 = 0 →
      let w := bytesAt s (Loc.spad t woff).key 8
      let q (j : Nat) := quantised (if w.testBit j then 254 else 127) (srcElem x b.z (m.vr a) j) (factor b)
      let pos (j : Nat) := j + ((List.range j).filter (fun i => w.testBit i)).length
      ∃ s' m', exec (.vqnt d a g p dst) s = .next s' ∧ TeamStep s s' t k st m' ∧ OnlyV m m' d ∧
        (∀ j, j < 1024 / x.bits →
          let v : Int := if (m.pred p).getLsbD j then (q j).1 else 0
          if w.testBit j then lane (m'.vr d) 8 (pos j) = wrap 8 (v - v / 2) ∧ lane (m'.vr d) 8 (pos j + 1) = wrap 8 (v / 2)
          else lane (m'.vr d) 8 (pos j) = wrap 8 v) ∧
        (∀ c, pos (1024 / x.bits) ≤ c → c < 128 → lane (m'.vr d) 8 c = 0) ∧
        Raises m m' (m.pred p) (1024 / x.bits) (fun j => (q j).2)) ∧
    (∀ x, b.map = 0 → b.check false dst = true → b.src = some x → dst = .mx8 →
      ∃ s' m', exec (.vqnt d a g p dst) s = .next s' ∧ TeamStep s s' t k st m' ∧ OnlyV m m' d ∧
        MxImage x b.z (m.vr a) (m.pred p) m m' d) ∧
    ∀ x, b.map = 0 → b.check true dst = true → b.src = some x → dst = .bf ∨ dst = .f →
      let n := Min.min (x.elems dst) (dst.elems x)
      let v (j : Nat) := srcElem x false (m.vr a) j
      let r (j : Nat) := if x = .mx8 then rounded (laneType dst b.z) [v j] (v j)
        else rounded (laneType dst b.z) [v j, factor b] ((v j).mul (factor b))
      ∃ s' m', exec (.vdq d a g p dst) s = .next s' ∧ TeamStep s s' t k st m' ∧ OnlyV m m' d ∧
        (∀ j, j < 1024 / dst.bits → lane (m'.vr d) dst.bits j =
          if n ≤ j then 0 else if (m.pred p).getLsbD j then (r j).1 % 2 ^ dst.bits else lane (m.vr d) dst.bits j) ∧
        Raises m m' (m.pred p) n (fun j => (r j).2 ||| badScale x (m.vr a) j)

end Sys2Proof.Claims

/-- R222 to R229, with the formats of R35 and R38 to R42: VCVT, VQNT and VDQ convert the active elements, each to the nearest
number of its format, with the flags of R46. -/
def Obligations.ConversionResults : Prop :=
  Claims.F8nResults ∧ Claims.MxResults ∧ Claims.VcvtResults ∧ Claims.QuantResults

/-- R215: VXCH on a diagonal tile moves the active lanes as VMOV does; with no block of the edition on the mirror tile it takes
the exchange fault 0x18; else it waits, its source taken, for the mirror, which its bits reach 8 + h clk later. When the first
VXCHs of both teams of one edition wait, with equal counts and their bits there, both destinations receive the other's source
in their active lanes, both counts rise and both strands go on. A VXCH on the diagonal counts too.
The time that the bits take is the model's choice (log entry 11). -/
def Obligations.ExchangeResults : Prop :=
  (∀ (s : State) (t k : Nat) (st : Strand) (m : Team) (d a : VReg) (p : PReg) (ty : LaneType),
    s.InTeam t k st m → NoExch m [d, a] →
    let u := t / 256 * 256 + t % 16 * 16 + t / 16 % 16
    (u = t → ∃ s' m1 m', exec (.vxch d a p ty) s = .next s' ∧ TeamStep s s' t k st m' ∧ OnlyV m m1 d ∧
      m' = { m1 with vxch := m.vxch + 1 } ∧
      ∀ j, j < ty.lanes → lane (m'.vr d) ty.width j =
        if (m.pred p).getLsbD j then lane (m.vr a) ty.width j else lane (m.vr d) ty.width j) ∧
    (u ≠ t → s.hasBlock u m.asid m.ident = false →
      ∃ s', exec (.vxch d a p ty) s = .next s' ∧ Traps s s' t k st 0x18 0 0) ∧
    (u ≠ t → s.hasBlock u m.asid m.ident = true →
      ∃ s', exec (.vxch d a p ty) s = .next s' ∧ Held s s' (.tile t k) st .vxch ∧ s.SameBytes s' ∧
        s'.team t = some { m with exch := m.exch ++ [⟨k, d, m.vr a, m.pred p, ty.width, s.clk + (8 + hops t u)⟩] } ∧
        Timer.mk (s.clk + (8 + hops t u)) .vxchExchange { tile := t } ∈ s'.timers)) ∧
  (∀ (s : State) (t u k j : Nat) (m n : Team) (e f : Exch) (es fs : List Exch) (st sf : Strand),
    s.ev.tile = t → s.ev.flag = false → u = mirror t → u ≠ t → s.team t = some m → s.team u = some n →
    m.exch = e :: es → n.exch = f :: fs → e.there ≤ s.clk → f.there ≤ s.clk → m.asid = n.asid → m.ident = n.ident → m.vxch = n.vxch →
    e.slot = k → f.slot = j → s.strand (.tile t k) = some st → s.strand (.tile u j) = some sf →
    ∃ s' m' n' st' sf', exec .vxchExchange s = .next s' ∧ s'.team t = some m' ∧ s'.team u = some n' ∧
      m'.vxch = m.vxch + 1 ∧ n'.vxch = n.vxch + 1 ∧ m'.exch = es ∧ n'.exch = fs ∧
      s'.strand (.tile t k) = some st' ∧ Retired st st' ∧ s'.strand (.tile u j) = some sf' ∧ Retired sf sf' ∧
      (0 < e.w → ∀ c, c < 1024 / e.w → lane (m'.vr e.d) e.w c =
        if e.pred.getLsbD c then lane f.src e.w c else lane (m.vr e.d) e.w c) ∧
      (0 < f.w → ∀ c, c < 1024 / f.w → lane (n'.vr f.d) f.w c =
        if f.pred.getLsbD c then lane e.src f.w c else lane (n.vr f.d) f.w c) ∧ s.SameBytes s')

namespace Sys2Proof.Claims
open Sys2Proof.Machine

/-- The exact sum of the eight products of F8N element e (R237), a sum of zero counting as +0 (R50). -/
def products (va v0 v1 : VWord) (e : Nat) : FVal :=
  let x (v : VWord) (j : Nat) : FVal := FVal.ofF8 (BitVec.ofNat 8 (lane v 8 j))
  let sum := ((List.range 8).map (fun n => (x va (16 * n + e / 32)).mul
    (if e % 32 < 16 then x v0 (16 * n + e % 32) else x v1 (16 * n + e % 32 - 16)))).foldl FVal.add (.fin false 0 1)
  match sum with
  | .fin s n d => if n = 0 then .fin false 0 1 else .fin s n d
  | .inf s => .inf s
  | .nan s => .nan s

/-- Of the team, only accumulator c and the flags differ (R46); no flag is cleared but those of a mask, and those set count as
set in this clk (R47). -/
def OnlyAc (m m' : Team) (c : Nat) (mask : W64) : Prop :=
  m' = { m with ac := m'.ac, aflags := m'.aflags, raised := m'.raised } ∧
  (∀ x e, x ≠ c → e < 512 → m'.acGet x e = m.acGet x e) ∧
  m'.aflags &&& m.aflags = m.aflags &&& ~~~mask ∧ m'.raised &&& m.raised = m.raised &&& ~~~mask ∧
  m'.aflags &&& ~~~m.aflags &&& ~~~m'.raised = 0

end Sys2Proof.Claims

/-- R236 to R240, R210, R46, R50: DMM adds to every element (row i, column j) of an accumulator the sum over eight k of A[i][k]
times B[k][j], clamped to 32 signed bits for bytes, a clamp setting sat and the accumulator's acsat bit, and rounded once for
F8N, with the flags of the roundings; DMMB only in the columns whose predicate bit is 1, the others as they were, with no flag.
ACLR zeroes an accumulator and its acsat flag; ACRD reads row ga mod 16 into the 32 words of vd, and ACWR writes it, and clears
the acsat flag. (The accumulator awaits no exchange and no engine operation.) -/
def Obligations.DenseResults : Prop :=
  ∀ (s : State) (t k : Nat) (st : Strand) (m : Team) (c : AcReg) (a : VReg) (b : BitVec 4) (p : PReg) (g : GReg)
    (ty : LaneType), s.InTeam t k st m → m.exch = [] → (s.tile t).acBusy m c.toNat = false →
    let v0 := m.vr (BitVec.ofNat 5 (2 * b.toNat))
    let v1 := m.vr (BitVec.ofNat 5 (2 * b.toNat + 1))
    let el (x : Team) (e : Nat) : W32 := x.acGet c.toNat e
    let acsat : W64 := 1#64 <<< (8 + c.toNat)
    let sum (e : Nat) : Int := ((List.range 8).map (fun n =>
      sgn 8 (lane (m.vr a) 8 (16 * n + e / 32)) * sgn 8 (if e % 32 < 16 then lane v0 8 (16 * n + e % 32)
        else lane v1 8 (16 * n + e % 32 - 16)))).sum
    let r (e : Nat) : Nat × W64 := if ty.int then clamp 32 ((el m e).toInt + sum e)
      else let x := FVal.ofF32 (el m e)
        rounded .f [x, products (m.vr a) v0 v1 e] (x.add (products (m.vr a) v0 v1 e))
    let Adds (s' : State) (m' : Team) (cols : PWord) : Prop := TeamStep s s' t k st m' ∧ OnlyAc m m' c.toNat 0 ∧
      (∀ e, e < 512 → (el m' e).toNat = if cols.getLsbD (e % 32) then (r e).1 else (el m e).toNat) ∧
      let any (b : Nat) : Bool := (List.range 512).any (fun e => cols.getLsbD (e % 32) && (r e).2.getLsbD b)
      ∀ b, m'.aflags.getLsbD b = (m.aflags.getLsbD b || any b || acsat.getLsbD b && any 0)
    (∃ s' m', exec (.dmm c a b ty) s = .next s' ∧ Adds s' m' (BitVec.allOnes 128)) ∧
    (∃ s' m', exec (.dmmb c a b p ty) s = .next s' ∧ Adds s' m' (m.pred p)) ∧
    (∃ s' m', exec (.aclr c) s = .next s' ∧ TeamStep s s' t k st m' ∧ OnlyAc m m' c.toNat acsat ∧
      (∀ e, e < 512 → el m' e = 0) ∧ m'.aflags = m.aflags &&& ~~~acsat) ∧
    (∀ d, ∃ s' m', exec (.acrd d c g ty) s = .next s' ∧ TeamStep s s' t k st m' ∧ OnlyV m m' d ∧ m'.aflags = m.aflags ∧
      ∀ j, j < 32 → lane (m'.vr d) 32 j = (el m (32 * ((st.rd g).toNat % 16) + j)).toNat) ∧
    ∃ s' m', exec (.acwr c a g ty) s = .next s' ∧ TeamStep s s' t k st m' ∧ OnlyAc m m' c.toNat acsat ∧
      m'.aflags = m.aflags &&& ~~~acsat ∧
      ∀ e, e < 512 → (el m' e).toNat =
        if e / 32 = (st.rd g).toNat % 16 then lane (m.vr a) 32 (e % 32) else (el m e).toNat

namespace Sys2Proof.Claims
open Sys2Proof.Machine

/-- The team instructions (R20, R205): barriers, YIELD, queues, vector, predicate and dense instructions. -/
def teamInstr (i : Instr) : Bool :=
  (laneOf i (Strand.fresh 0 0 .anchored 0 0) fetchTeam).isSome ||
  (compareOf i).isSome || match i with
  | .bart => true
  | .barw _ _ _ => true
  | .yield _ => true
  | .qsnd _ _ => true
  | .qrcv _ _ => true
  | .qtry _ _ _ => true
  | .qcnt _ _ => true
  | .vld _ _ _ _ => true
  | .vst _ _ _ _ => true
  | .vlds _ _ _ _ _ => true
  | .vsts _ _ _ _ _ => true
  | .vgth _ _ _ _ _ => true
  | .vsct _ _ _ _ _ => true
  | .vldt _ _ _ _ _ => true
  | .vxch _ _ _ _ => true
  | .vsel _ _ _ _ _ => true
  | .vrsum _ _ _ _ => true
  | .vrmax _ _ _ _ => true
  | .vrmin _ _ _ _ => true
  | .vcvt _ _ _ _ _ _ _ => true
  | .vqnt _ _ _ _ _ => true
  | .vdq _ _ _ _ _ => true
  | .vtpk _ _ _ => true
  | .pand _ _ _ => true
  | .por _ _ _ => true
  | .pnot _ _ => true
  | .pcnt _ _ _ => true
  | .pset _ _ _ => true
  | .dmm _ _ _ _ => true
  | .dmmb _ _ _ _ _ => true
  | .aclr _ => true
  | .acrd _ _ _ _ => true
  | .acwr _ _ _ _ => true
  | _ => false

/-- The engine instructions, majors 0x38 and 0x39 (R245), and the accesses to the team's flags (R46). -/
def engineInstr (i : Instr) : Bool :=
  match i with
  | .fmap _ _ _ _ _ => true
  | .fset _ _ _ _ => true
  | .fmm _ _ _ _ _ => true
  | .fmmt _ _ _ _ _ => true
  | .fprb _ _ _ _ => true
  | .fscl _ _ _ _ => true
  | .fclr _ _ _ => true
  | .cfil _ _ _ _ _ => true
  | .cpy _ _ _ _ _ => true
  | .cpyr _ _ _ _ => true
  | .cpyg _ _ _ _ _ => true
  | .cqnt _ _ _ _ _ => true
  | .cast _ _ _ _ _ => true
  | _ => false

/-- The coordination instructions that any tile strand may execute and no supervisor may (R298). -/
def tileOnly (i : Instr) : Bool :=
  match i with
  | .waitv _ _ _ => true
  | .waitx _ _ => true
  | .fork _ _ => true
  | .join => true
  | .exit => true
  | .go _ => true
  | .home => true
  | .prio _ => true
  | .id _ _ => true
  | .launch _ _ => true
  | .next _ _ => true
  | .estat _ _ _ => true
  | .cancel _ _ _ => true
  | .watch _ _ => true
  | .unwatch _ => true
  | .wqry _ _ => true
  | _ => false

end Sys2Proof.Claims

/-- R20, R46, R205, R298, R306: a team instruction in a light strand, an engine instruction, and an SRD or SWR of sys.aflags,
takes the not-anchored fault 0x03 with nothing done; in a
supervisor strand a team, engine or coordination instruction of tile strands is frozen by the strand-kind fault and
escalated. -/
def Obligations.TeamInstructionFaults : Prop :=
  ∀ (s : State) (r : Ref) (st : Strand) (i : Instr), s.At r st →
    (∀ t k, r = .tile t k → st.kind ≠ .anchored →
      teamInstr i = true ∨ engineInstr i = true ∨ (∃ g, i = .srd g 1) ∨ (∃ g, i = .swr g 1) →
      ∃ s', exec i s = .next s' ∧ Traps s s' t k st 0x03 0 0) ∧
    ∀ d k, r = .sup d k → teamInstr i = true ∨ engineInstr i = true ∨ tileOnly i = true →
      ∃ s', exec i s = .next s' ∧ SupTraps s s' d k st

/-! ## Engines -/

namespace Sys2Proof.Claims
open Sys2Proof.Machine

/-- Nothing holds an engine instruction of the anchored strand (R246): the tokens of its wait mask and its own token are
neither pending nor failed, both engines have room; no store of it is on its way. -/
def EngineReady (s : State) (t k : Nat) (st : Strand) (m : Team) (tk : TokReg) (w : Byte) : Prop :=
  s.InTeam t k st m ∧ (∀ n : Fin 8, w.getLsbD n = true → m.toks[n].pending = false ∧ m.toks[n].failed = false) ∧
  (m.toks[tk.toNat]'tk.isLt).pending = false ∧ (m.toks[tk.toNat]'tk.isLt).failed = false ∧
  (s.tile t).forme.queue.length < 2 ∧ (s.tile t).copy.queue.length < 2 ∧
  s.drained (.tile t k) st = true ∧ ∀ e ∈ s.data, e.1 ≠ st.uid

/-- The step that starts an operation (R247, R273). -/
def startStep (x : Where) : Instr :=
  match x with
  | .forme => .formeOpStart
  | .copy => .copyOpStart
  | .both => .directCastStart

/-- The instruction is accepted (R246 step 5): it retires, its token is pending, the operation is the last of its queue, or
queues, and may start in the next clk; no byte of memory, no other strand and no register changes. -/
def Accepted (s s' : State) (t k : Nat) (st : Strand) (m : Team) (tk : TokReg) (x : Where) (o : Op) : Prop :=
  (∃ st', s'.strand (.tile t k) = some st' ∧ Retired st st') ∧
  s'.team t = some { m with toks := m.toks.set tk.toNat ⟨true, false, 0, none⟩ tk.isLt } ∧
  (∀ r, r ≠ .tile t k → s'.strand r = s.strand r) ∧ s.SameBytes s' ∧ s.SameSpecial s' ∧
  ∃ n, let y : EngOp := ⟨n, tk, st.uid, m.asid, m.ident, m.block, o⟩
    (s'.tile t).forme.queue = (s.tile t).forme.queue ++ (if x = .copy then [] else [y]) ∧
    (s'.tile t).copy.queue = (s.tile t).copy.queue ++ (if x = .forme then [] else [y]) ∧
    Timer.mk (s.clk + 1) (startStep x) { tile := t } ∈ s'.timers

/-- n bytes at ea, aligned, in the tile's own scratchpad (R245), and what they hold. -/
def Local (s : State) (t : Nat) (st : Strand) (m : Team) (ea : W64) (n al off : Nat) (bs : List Byte) : Prop :=
  OwnBytes s t st m ea off n ∧ ea.toNat % al = 0 ∧ bs = Memory.readN s.mem (Loc.spad t off).key n

end Sys2Proof.Claims

/-- R246, R253 to R256, R259, R261, R265 to R268: acceptance of the forme instructions. FSET, FMAP, FMM, FMMT, FSCL, FCLR
and FPRB are accepted when the checks of their rules pass: block and local operands readable, geometry, handle, chase number,
expected state; FSET then sets the expected state of its chase, FMAP leaves its chase expected unset with the new map. FCLR of
a value beyond 32 bits, and FPRB of a chase number above 31, take the engine-parameter fault 0x19. With a full queue the
instruction holds, its wait on its mask being over. -/
def Obligations.FormeAcceptance : Prop :=
  ∀ (s : State) (t k off : Nat) (st : Strand) (m : Team) (tk : TokReg) (w : Byte) (a b c : GReg) (bs : List Byte),
    EngineReady s t k st m tk w →
    let acc (i : Instr) (o : Op) : Prop := ∃ s', exec i s = .next s' ∧ Accepted s s' t k st m tk .forme o
    let chase := (st.rd b).toNat
    let h := field (dwordAt bs 0) 63 48
    let g := Geo.parse h bs
    ((st.rd a).toNat < 2 ^ 32 → acc (.fclr tk w a) (.fclr ((st.rd a).setWidth 32))) ∧
    (2 ^ 32 ≤ (st.rd a).toNat → ∃ s', exec (.fclr tk w a) s = .next s' ∧ Traps s s' t k st 0x19 0 0) ∧
    (Local s t st m (st.rd a) 192 64 off bs →
      (chase < 32 → acc (.fprb tk w a b) (.fprb chase (tileSpace t off))) ∧
      (32 ≤ chase → ∃ s', exec (.fprb tk w a b) s = .next s' ∧ Traps s s' t k st 0x19 0 0)) ∧
    (Local s t st m (st.rd a) (40 * (st.rd c).toNat) 8 off bs → 1 ≤ (st.rd c).toNat → (st.rd c).toNat ≤ 64 → chase < 32 →
      (∀ j, (bitmapOf bs).countP (fun x => x / 320 == j) ≤ 32) → (s.tile t).expected st.asid chase = none →
      ∃ s', exec (.fmap tk w a b c) s = .next s' ∧ Accepted s s' t k st m tk .forme (.fmap chase (bitmapOf bs)) ∧
        (s'.tile t).expected st.asid chase = none ∧ ((s'.tile t).expects.get Expect.reset chase).dup = bitmapOf bs) ∧
    (Local s t st m (st.rd a) 64 64 off bs →
      (∀ x, chase < 32 → fsetReserved bs = true → g.limits = true → s.handle (t / 256) st.asid h [0] false = some x →
        g.fits x = true →
        ∃ s', exec (.fset tk w a b) s = .next s' ∧
          Accepted s s' t k st m tk .forme (.fset chase { g with k := x.dim0 } x) ∧
          ∃ e, (s'.tile t).expected st.asid chase = some e ∧ e.geo = { g with k := x.dim0 }) ∧
      (∀ x e, chase < 32 → fsetReserved bs = true → g.limits = true → s.handle (t / 256) st.asid h [0] false = some x →
        (s.tile t).expected st.asid chase = some e → e.geo = { g with k := e.geo.k } →
        acc (.fscl tk w a b) (.fscl chase e.geo x)) ∧
      (∀ e tr, let y := FmmBlk.parse bs
        y.ok bs tr = true → (s.tile t).expected st.asid y.chase = some e →
        s.fmmChecks st t y e (st.rd b) (st.rd c) tr = none →
        acc (if tr then .fmmt tk w a b c else .fmm tk w a b c) (.fmm { y with mxaddr := s.ownOff t st.asid y.mxaddr }
          (s.ownOff t st.asid (st.rd b)) (s.ownOff t st.asid (st.rd c)) tr))) ∧
    ∀ s2, s2 = s.modTile t (fun x => { x with forme := { x.forme with queue := [⟨0, tk, 0, 0, 0, 0, .fclr 0⟩, ⟨0, tk, 0, 0, 0, 0, .fclr 0⟩] } }) →
      ∃ s', exec (.fclr tk w a) s2 = .next s' ∧ Held s2 s' (.tile t k) { st with passed := some st.fetch.start } .engine ∧ s2.OnlyStrand s' (.tile t k)

/-- R246, R250 to R252, R269 to R273, R275: acceptance of the copy instructions. CPY, CPYR, CPYG, CFIL, CAST, direct CAST and
CQNT are accepted when the checks of their rules pass: parameter block without reserved bits, handles of an allowed format and
permission, rows and elements inside the tensor, rows of the scratchpad inside the grant, tiles of CPYR in the partition. A
direct CAST enters both queues and sets the expected state of its chase. CFIL of a length that is no multiple of 8 takes the
engine-parameter fault 0x19. -/
def Obligations.CopyAcceptance : Prop :=
  ∀ (s : State) (t k off : Nat) (st : Strand) (m : Team) (tk : TokReg) (w : Byte) (a b c : GReg) (bs : List Byte),
    EngineReady s t k st m tk w →
    let acc (i : Instr) (o : Op) : Prop := ∃ s', exec i s = .next s' ∧ Accepted s s' t k st m tk .copy o
    let d (i : Nat) : Nat := dwordAt bs (8 * i)
    let own (ea : W64) : W64 := s.ownOff t st.asid ea
    let rows (ea : W64) (pitch r n : Nat) : Prop := s.chkRows t st.asid ea pitch r n 1 = none
    let tensor (h : Nat) (fs : List Nat) (wr : Bool) (x : Tensor) : Prop := s.handle (t / 256) st.asid h fs wr = some x
    ((st.rd a).toNat % 8 = 0 → (st.rd b).toNat < 2 ^ 32 →
      ((st.rd b).toNat % 8 ≠ 0 → (st.rd a).toNat < 2 ^ 56 →
        ∃ s', exec (.cfil tk w a b c) s = .next s' ∧ Traps s s' t k st 0x19 0 0) ∧
      ((st.rd b).toNat % 8 = 0 → (st.rd a).toNat < 2 ^ 56 →
        acc (.cfil tk w a b c) (.cfil (st.rd a) (st.rd b).toNat (st.rd c))) ∧
      ((st.rd b).toNat % 8 = 0 → 2 ^ 56 ≤ (st.rd a).toNat → s.chkOwn t st.asid (st.rd a) (st.rd b).toNat 1 = none →
        acc (.cfil tk w a b c) (.cfil (own (st.rd a)) (st.rd b).toNat (st.rd c)))) ∧
    (Local s t st m (st.rd a) 64 64 off bs →
      (∀ x, let toH := (d 0).testBit 32
        let r := d 0 % 2 ^ 32
        let c0 := d 1 / 2 ^ 32
        let cols := d 1 % 2 ^ 32
        let dp := d 2 / 2 ^ 32
        let sc := x.format == 3 && d 3 != 0
        d 0 / 2 ^ 33 % 2 ^ 15 = 0 → d 2 % 2 ^ 32 = 0 → (∀ y ∈ bs.drop 32, y = 0) → tensor (d 0 / 2 ^ 48) anyFormat toH x →
        rows (st.rd b) dp r (cols * x.half / 2) → (sc = true → rows (nat (d 3)) 64 r ((cols + 31) / 32) ∧ c0 % 32 = 0) →
        (st.rd c).toNat + r ≤ x.rows → c0 + cols ≤ x.elems → (x.format = 2 → c0 % 2 = 0 ∧ cols % 2 = 0) →
        acc (.cpy tk w a b c) (.cpy x toH r (st.rd c).toNat c0 cols dp (own (st.rd b)) (if sc then own (nat (d 3)) else 0))) ∧
      (∀ x, let r := d 0 % 2 ^ 32
        let c0 := d 1 / 2 ^ 32
        let cols := d 1 % 2 ^ 32
        d 0 / 2 ^ 32 % 2 ^ 16 = 0 → d 2 % 2 ^ 32 = 0 → (∀ y ∈ bs.drop 24, y = 0) → tensor (d 0 / 2 ^ 48) anyFormat false x →
        s.chkOwn t st.asid (st.rd b) (4 * r) 4 = none → rows (st.rd c) (d 2 / 2 ^ 32) r (cols * x.half / 2) →
        c0 + cols ≤ x.elems → (x.format = 2 → c0 % 2 = 0 ∧ cols % 2 = 0) →
        acc (.cpyg tk w a b c) (.cpyg x r c0 cols (d 2 / 2 ^ 32) (own (st.rd b)) (own (st.rd c)))) ∧
      (∀ x y, d 0 / 2 % 2 ^ 31 = 0 → (∀ z ∈ bs.drop 8, z = 0) → tensor (d 0 / 2 ^ 48) [5, 6] false x →
        tensor (d 0 / 2 ^ 32 % 2 ^ 16) anyFormat true y → y.dim0 = x.dim0 → y.dim1 = x.dim1 →
        (st.rd b).toNat + (st.rd c).toNat ≤ x.dim1 → (y.format = 3 ∨ (y.format = 1 ∨ y.format = 2) ∧ y.grp ≠ 0) →
        acc (.cqnt tk w a b c) (.cqnt x y (st.rd b).toNat (st.rd c).toNat ((d 0).testBit 0))) ∧
      let th := BitVec.ofNat 8 (d 0 / 2 ^ 24 % 2 ^ 8)
      let theta := if th = 0 then 0x30 else th
      th.toNat < 0x7F → d 0 / 2 ^ 6 % 2 ^ 18 = 0 → (∀ z ∈ bs.drop 24, z = 0) →
      (∀ x y, (d 0).testBit 5 = false → d 1 = 0 → d 2 = 0 → tensor (d 0 / 2 ^ 48) [5] false x →
        tensor (d 0 / 2 ^ 32 % 2 ^ 16) [0] true y → y.dim0 = x.dim0 → y.dim1 = x.dim1 →
        (st.rd b).toNat + (st.rd c).toNat ≤ x.dim1 * x.kgs →
        acc (.cast tk w a b c) (.cast x y theta (st.rd b).toNat (st.rd c).toNat)) ∧
      ∀ x, let g := Geo.parse (d 0 / 2 ^ 48) bs
        (d 0).testBit 5 = true → d 0 / 2 ^ 32 % 2 ^ 16 = 0 → d 2 / 2 ^ 32 = 0 → g.limits = true →
        tensor (d 0 / 2 ^ 48) [5] false x → g.fits x = true →
        ∃ s', exec (.cast tk w a b c) s = .next s' ∧
          Accepted s s' t k st m tk .both (.castDirect x theta (d 0 % 32) { g with k := x.dim0 }) ∧
          ∃ e, (s'.tile t).expected st.asid (d 0 % 32) = some e ∧ e.geo = { g with k := x.dim0 }) ∧
    (Local s t st m (st.rd a) 128 64 off bs →
      let n := d 2 % 32
      let list := (List.range 16).map (cpyrTile bs)
      let chunk := d 0 / 2 ^ 32
      let len := d 0 % 2 ^ 32
      chunk ≠ 0 → chunk % 64 = 0 → len % 64 = 0 → d 1 % 64 = 0 → d 1 < 2 ^ 21 → 1 ≤ n → n ≤ 16 → d 2 < 32 →
      (∀ z ∈ (bs.take 64).drop 24, z = 0) → (∀ u ∈ list.take n, u < 2 ^ 19 ∧ s.inPartition (t / 256) st.asid u = true) →
      (∀ u ∈ list.drop n, u = 0) → s.chkOwn t st.asid (st.rd b) len 1 = none →
      acc (.cpyr tk w a b) (.cpyr (own (st.rd b)) chunk len (d 1) (list.take n)))

namespace Sys2Proof.Claims
open Sys2Proof.Machine

/-- The engine's oldest operation can start (R247): it is no direct CAST, the engine is idle and waits for no page, and
nothing that the operation waits for is outstanding: accesses of its strand before it (R93), a dense result in its accumulator
(R239), tokens of another team's operations (R248). -/
def CanStart (s : State) (t : Nat) (forme : Bool) (o : EngOp) (rest : List EngOp) : Prop :=
  let e := (s.tile t).engine forme
  e.queue = o :: rest ∧ e.idleAt s.clk = true ∧ e.stuck = none ∧ o.op.isDirect = false ∧
  (s.tile t).opHeld o s.clk = false

/-- An engine's read of n bytes at va (R249): one page that the tile's TLB maps readable, on device memory from pa on; nothing
there is poisoned, nor is its page being switched. -/
def EngineBytes (s : State) (t a va n pa : Nat) : Prop :=
  va + n ≤ 2 ^ 56 ∧ s.poisoned pa n = false ∧ s.migrating [(.dev pa, 1)] = false ∧
  ∃ e, tlbFind (s.tile t).tlb a va = some e ∧ va + n ≤ e.va + e.size ∧ pteR e.leaf = true ∧ pteHost e.leaf = false ∧
    pa = ptePa e.leaf + va % pageBytes (pteSize e.leaf)

/-- It has started: it has left the queue, the engine is busy for `busy` clk, and its token completes with the error, or
none, at the end of that time and the tail of its rule. -/
def Started (s s' : State) (t : Nat) (forme : Bool) (o : EngOp) (rest : List EngOp) (busy tail : Nat) (err : Option W64) : Prop :=
  let e := (s.tile t).engine forme
  let x := (s'.tile t).engine forme
  x.queue = rest ∧ x.current = none ∧ x.busyUntil = s.clk + busy - 1 ∧
  ∃ y, x.done = e.done ++ [y] ∧ y.n = o.n ∧ y.tok = o.tok ∧ y.due = s.clk + busy - 1 + tail ∧ y.err = err

end Sys2Proof.Claims

namespace Sys2Proof.Claims
open Sys2Proof.Machine

/-! ### What the engines write -/

/-- Bytes are written at their places, in order: where two cover a byte the later stands; no other byte of memory changes. -/
def Wrote (s s' : State) (l : List (Nat × List Byte)) : Prop :=
  (∀ a, (∀ e ∈ l, a < e.1 ∨ e.1 + e.2.length ≤ a) → Memory.read s'.mem a = Memory.read s.mem a) ∧
  ∀ (q : Nat) (e : Nat × List Byte) (j : Nat), l[q]? = some e → j < e.2.length →
    (∀ (q2 : Nat) (f : Nat × List Byte), q < q2 → l[q2]? = some f → e.1 + j < f.1 ∨ f.1 + f.2.length ≤ e.1 + j) →
    Memory.read s'.mem (e.1 + j) = e.2.getD j 0

/-- Nothing that is read, as (place, length), lies where something is written. -/
def Apart (src : List (Nat × Nat)) (l : List (Nat × List Byte)) : Prop :=
  ∀ x ∈ src, ∀ e ∈ l, x.1 + x.2 ≤ e.1 ∨ e.1 + e.2.length ≤ x.1

/-- The team of an operation is on the tile, where no reset goes on. -/
def OwnTeam (s : State) (t : Nat) (o : EngOp) (m : Team) : Prop :=
  t < 2 ^ 19 ∧ s.team t = some m ∧ m.is o.asid o.ident o.block = true ∧ m.grant ≤ 0x180000 ∧ (s.die (t / 256)).resetting = false

/-- n bytes of the tile's scratchpad from an offset on, in the grant and not poisoned. -/
def Readable (s : State) (t : Nat) (m : Team) (off n : Nat) : Prop := off + n ≤ m.grant ∧ s.poisoned (Loc.spad t off).key n = false

/-- An engine's write of n bytes at va (R249): one page that the tile's TLB maps writable, already dirty, on device memory from pa on, no
notice page, that no entry of the context watches on its die. -/
def EngineRoom (s : State) (t a va n pa : Nat) : Prop :=
  va + n ≤ 2 ^ 56 ∧ s.migrating [(.dev pa, 1)] = false ∧ s.noticePage pa = false ∧ pa + n ≤ 2 ^ 50 ∧ NoWatch s (pa / 2 ^ 39) a ∧
  ∃ e, tlbFind (s.tile t).tlb a va = some e ∧ va + n ≤ e.va + e.size ∧ pteW e.leaf = true ∧ pteD e.leaf = true ∧
    pteHost e.leaf = false ∧ pa = ptePa e.leaf + va % pageBytes (pteSize e.leaf)

/-- The operation starts and ends without waiting, and what holds then. -/
def Runs (s : State) (t : Nat) (forme : Bool) (o : EngOp) (rest : List EngOp) (busy tail : Nat) (err : Option W64)
    (post : State → Prop) : Prop :=
  ∃ s', exec (engineStep forme) s = .next s' ∧ Started s s' t forme o rest busy tail err ∧ post s'

/-- An error word (R249). -/
def errOf (code detail : Nat) : W64 := nat (code * 2 ^ 56 + detail % 2 ^ 40)

/-- Its completion will set a chase, and the flags of sys.aflags. -/
def Completes (s' : State) (t : Nat) (forme : Bool) (o : EngOp) (c : Option (Nat × Chase)) (fl : W64) : Prop :=
  ∃ y ∈ ((s'.tile t).engine forme).done, y.n = o.n ∧ y.chase = c ∧ y.flags = fl

/-! ### Plates -/

/-- Ordinals of the groups of a plate, ascending (R257). -/
def ordinals (g : Geo) (x : Tensor) : List Nat :=
  (List.range g.cols).flatMap (fun n => (List.range g.kg).map (fun a => (g.n0 + n) * ((x.dim0 + 319) / 320) + g.j0 + a))

/-- The trit of macro m at local K index k and column c (R257): column 64 · ⌊m / kg⌋ + c of the plate, K-group m mod kg. -/
def plateTrit (gs : List Group) (g : Geo) (m k c : Nat) : Int :=
  let n := 64 * (m / g.kg) + c
  if n < g.cols then ((gs.getD (n * g.kg + m % g.kg) ([], 0)).1).getD k 0 else 0

/-- The row map of a macro (R258): the K indices whose trits are not all zero, ascending, a duplicated one twice. -/
def rowEntries (gs : List Group) (g : Geo) (dup : List Nat) (m : Nat) : List Nat :=
  ((List.range 320).filter (fun k => (List.range 64).any (fun c => plateTrit gs g m k c != 0))).flatMap (fun k =>
    let i := 320 * (m % g.kg) + k
    if dup.contains i && decide (i < Min.min (320 * g.kg) (g.k - 320 * g.j0)) then [2 ^ 15 + k, 2 ^ 15 + 2 ^ 14 + k] else [2 ^ 15 + k])

/-- The chase x holds the plate of these groups: row maps, the trits of its physical rows, column scales (R257, R258). -/
def IsPlate (x : Chase) (a : Nat) (g : Geo) (dup : List Nat) (gs : List Group) : Prop :=
  x.state = .set ∧ x.asid = a ∧ x.geo = g ∧ x.dup = dup ∧ ∀ m, m < g.kg * g.ng →
    (∀ i, i < 320 → x.rows.find (320 * m + i) = ((rowEntries gs g dup m)[i]?).map (BitVec.ofNat 16)) ∧
    (∀ i e c, (rowEntries gs g dup m)[i]? = some e → c < 64 → x.trit (320 * m + i) c = plateTrit gs g m (e % 512) c) ∧
    ∀ c, c < 64 → x.scales.get 0 (64 * m + c) =
      if 64 * (m / g.kg) + c < g.cols then (gs.getD ((64 * (m / g.kg) + c) * g.kg + m % g.kg) ([], 0)).2 else 0

/-- R257, R258: the plate of groups of trits is built when no macro has more than 320 physical rows; the first that has more is the
row overflow. -/
def PlateBuilt : Prop :=
  ∀ (a : Nat) (g : Geo) (dup : List Nat) (gs : List Group), 0 < g.kg →
    (∀ e ∈ gs, ∀ v ∈ e.1, v = -1 ∨ v = 0 ∨ v = 1) →
    ((∀ m, m < g.kg * g.ng → (rowEntries gs g dup m).length ≤ 320) →
      ∃ x, buildChase a g dup gs = .ok x ∧ IsPlate x a g dup gs) ∧
    ∀ m, m < g.kg * g.ng → 320 < (rowEntries gs g dup m).length → (∀ k, k < m → (rowEntries gs g dup k).length ≤ 320) →
      buildChase a g dup gs = .error m

/-- Bytes of the group of an ordinal, and its K extent (R31). -/
def groupLen (x : Tensor) (o : Nat) : Nat := Min.min 320 (x.dim0 - 320 * (o % ((x.dim0 + 319) / 320)))

/-- R257, R260: FSET reads its groups and records, and the chase is set, at the token's completion, from them; the first group with a byte
above 242, or a record of another ordinal, fails, and so does a row overflow; until then, and on a failure, the chase is unset
with its duplication map. It is busy a clk for each group read, and 40 for kerning. -/
def FsetSteps : Prop :=
  ∀ (s : State) (t : Nat) (o : EngOp) (rest : List EngOp) (c : Nat) (g : Geo) (x : Tensor) (pa ra : Nat → Nat),
    s.ev.tile = t → CanStart s t true o rest → o.op = .fset c g x →
    let ords := ordinals g x
    let data (q : Nat) : List Byte := Memory.readN s.mem (pa q) ((groupLen x q + 4) / 5)
    let rec' (q : Nat) : Nat := bytesAt s (ra q) 4
    let good (q : Nat) : Prop := (∀ b ∈ data q, b.toNat ≤ 242) ∧ rec' q / 2 ^ 16 = q % 2 ^ 16
    let gs := ords.map (fun q => (((data q).flatMap (fun b => (List.range 5).map (fun i => tritOf (b.toNat / 3 ^ i % 3)))).take
      (groupLen x q), BitVec.ofNat 16 (rec' q)))
    let dup := (s.chase t c).dup
    let unset (s' : State) : Prop := s.SameBytes s' ∧ s'.chase t c = Chase.unset o.asid dup
    (∀ q ∈ ords, EngineBytes s t o.asid ((x.base.toNat + q * x.pitch) % 2 ^ 64) ((groupLen x q + 4) / 5) (pa q) ∧
      EngineBytes s t o.asid ((x.sbase.toNat + 4 * q) % 2 ^ 64) 4 (ra q)) →
    ((∀ q ∈ ords, good q) →
      (∀ plate, buildChase o.asid g dup gs = .ok plate → Runs s t true o rest (ords.length + 40) 0 none (fun s' => unset s' ∧
        Completes s' t true o (some (c, plate)) 0)) ∧
      ∀ m, buildChase o.asid g dup gs = .error m → Runs s t true o rest (ords.length + 40) 0 (some (errOf 4 m)) (fun s' => unset s' ∧
        Completes s' t true o none 0)) ∧
    ∀ (i q : Nat), ords[i]? = some q → (∀ (j r : Nat), j < i → ords[j]? = some r → good r) → ¬ good q →
      Runs s t true o rest (i + 1) 0 (some (errOf (if ∃ b ∈ data q, 243 ≤ b.toNat then 1 else 2) q)) (fun s' => unset s' ∧
        Completes s' t true o none 0)

/-- R266: FSCL gives a set chase of its context the scales of its records; a record of another ordinal fails and keeps every
old scale, as a chase that is not set does. -/
def FsclSteps : Prop :=
  ∀ (s : State) (t : Nat) (o : EngOp) (rest : List EngOp) (c : Nat) (g : Geo) (x : Tensor) (ra : Nat → Nat),
    s.ev.tile = t → CanStart s t true o rest → o.op = .fscl c g x → 0 < g.kg →
    let ords := ordinals g x
    let y := s.chase t c
    let rec' (q : Nat) : Nat := bytesAt s (ra q) 4
    let runs (err : Option W64) (post : State → Prop) : Prop := Runs s t true o rest (ords.length + 4) 0 err post
    (y.state = .unset ∨ y.asid ≠ o.asid → runs (some (errOf 5 c)) (fun s' => s.SameBytes s' ∧ ∀ k, s'.chase t k = s.chase t k)) ∧
    (y.state ≠ .unset → y.asid = o.asid → (∀ q ∈ ords, EngineBytes s t o.asid ((x.sbase.toNat + 4 * q) % 2 ^ 64) 4 (ra q)) →
      ((∀ q ∈ ords, rec' q / 2 ^ 16 = q % 2 ^ 16) → runs none (fun s' => s.SameBytes s' ∧
        s'.chase t c = { y with scales := (s'.chase t c).scales } ∧ ∀ m k : Nat, m < g.kg * g.ng → k < 64 →
          (s'.chase t c).scales.get 0 (64 * m + k) = ((if 64 * (m / g.kg) + k < g.cols then
            ords[(64 * (m / g.kg) + k) * g.kg + m % g.kg]? else none).map (fun q => BitVec.ofNat 16 (rec' q))).getD 0)) ∧
      ∀ (i q : Nat), ords[i]? = some q → (∀ (j r : Nat), j < i → ords[j]? = some r → rec' r / 2 ^ 16 = r % 2 ^ 16) → rec' q / 2 ^ 16 ≠ q % 2 ^ 16 →
        runs (some (errOf 2 q)) (fun s' => s.SameBytes s' ∧ s'.chase t c = y))

/-- The row time T of a chase (R264). -/
def IsRowTime (x : Chase) (planes n : Nat) : Prop :=
  let rows (m : Nat) : Nat := x.rows.countP (fun e => e.1 / 320 == m)
  let time (m : Nat) : Nat := (rows m + 31) / 32 * planes
  planes ≤ n ∧ (∀ m, m < x.geo.kg * x.geo.ng → time m ≤ n) ∧ (n = planes ∨ ∃ m, m < x.geo.kg * x.geo.ng ∧ time m = n)

/-- R268: the record of a chase: zeros where it is unset or another context's, else state, owner, geometry, handle, duplicated
channels, row times, and the count of physical rows of each used macro. -/
def ProbeRecord : Prop :=
  ∀ (x : Chase) (a t8 t4 : Nat),
    let bs := probe x a
    let word (i : Nat) : Nat := leNat ((bs.drop (8 * i)).take 8)
    bs.length = 192 ∧
    (x.state = .unset ∨ x.asid ≠ a → ∀ b ∈ bs, b = 0) ∧
    (x.state ≠ .unset → x.asid = a → a < 2 ^ 12 → x.geo.cols < 2 ^ 16 → x.geo.kg < 2 ^ 8 → x.geo.ng < 2 ^ 8 →
      x.geo.n0 < 2 ^ 32 → x.geo.j0 < 2 ^ 32 → x.geo.handle < 2 ^ 16 → IsRowTime x 8 t8 → IsRowTime x 4 t4 → t8 < 2 ^ 8 → t4 < 2 ^ 8 →
      let d := x.dup.countP (fun k => decide (k < Min.min (320 * x.geo.kg) (x.geo.k - 320 * x.geo.j0)))
      d < 2 ^ 16 →
      word 0 = (if x.state = .set then 1 else 2) * 2 ^ 62 + a * 2 ^ 40 + x.geo.cols * 2 ^ 16 + x.geo.kg * 2 ^ 8 + x.geo.ng ∧
      word 1 = x.geo.n0 * 2 ^ 32 + x.geo.j0 ∧ word 2 = x.geo.handle * 2 ^ 48 + d * 2 ^ 24 + t8 * 2 ^ 8 + t4 ∧
      (∀ i, 3 ≤ i → i < 8 → word i = 0) ∧ ∀ m, m < 64 →
        leNat ((bs.drop (64 + 2 * m)).take 2) =
          (if m < x.geo.kg * x.geo.ng then x.rows.countP (fun e => e.1 / 320 == m) else 0) % 2 ^ 16)

/-! ### FMM and FMMT -/

/-- Element i of a local row: INT8, or a nibble of INT4 (R34). -/
def rowElem (act : Nat) (bs : List Byte) (i : Nat) : Int :=
  if act = 1 then
    let q := (bs.getD (i / 2) 0).toNat / 16 ^ (i % 2) % 16
    if q < 8 then q else (q : Int) - 16
  else (bs.getD i 0).toInt

/-- P_a of column n (R263): over the physical rows of its macro, the trit times the element that the row's entry names, the channels
expanded for INT8 (R262). -/
def sumFmm (x : Chase) (act : Nat) (bs : List Byte) (a n : Nat) : Int :=
  let m := n / 64 * x.geo.kg + a
  ((x.rows.filter (fun e => e.1 / 320 == m)).map (fun e =>
    let k := 320 * a + e.2.toNat % 512
    let d := x.dup.countP (fun j => decide (j < k) && decide (j < Min.min (320 * x.geo.kg) (x.geo.k - 320 * x.geo.j0)))
    x.trit e.1 (n % 64) * rowElem act bs (if act = 0 then k + d + (if e.2.getLsbD 14 then 1 else 0) else k))).sum

/-- The same for MXINT8, exact (R38, R263). -/
def sumMx (x : Chase) (bs mx : List Byte) (a n : Nat) : FVal :=
  let m := n / 64 * x.geo.kg + a
  let r := (x.rows.filter (fun e => e.1 / 320 == m)).foldl (fun s e =>
    let k := 320 * a + e.2.toNat % 512
    let v := mxVal (bs.getD k 0) (mx.getD (k / 32) 0)
    if x.trit e.1 (n % 64) = 0 then s else s.add (if 0 < x.trit e.1 (n % 64) then v else v.neg)) (FVal.ofInt 0)
  if r.eqNum (FVal.ofInt 0) then FVal.ofInt 0 else r

/-- P_b of output k (R265): the first-half row of its local index, over the columns of macro column b. -/
def sumFmmt (x : Chase) (act : Nat) (bs : List Byte) (b k : Nat) : Int :=
  match x.rows.find? (fun e => e.1 / 320 == b * x.geo.kg + k / 320 && e.2.toNat % 512 == k % 320 && !e.2.getLsbD 14) with
  | none => 0
  | some e => ((List.range 64).map (fun c =>
      if 64 * b + c < x.geo.cols then x.trit e.1 c * rowElem act bs (64 * b + c) else 0)).sum

/-- The terms of an output: factor and partial, in the order in which they add up (R49, R263, R265). -/
def terms (x : Chase) (b : FmmBlk) (tr : Bool) (bs mx : List Byte) (j : Nat) : List (FVal × FVal) :=
  if tr then (List.range x.geo.ng).map (fun i => (FVal.ofInt 1, FVal.ofInt (sumFmmt x b.act bs i j)))
  else (List.range x.geo.kg).map (fun a =>
    let v := x.scales.get 0 (64 * (j / 64 * x.geo.kg + a) + j % 64)
    let v := if b.z = true ∧ v.toNat % 2 ^ 15 < 2 ^ 7 then v &&& 0x8000 else v
    (FVal.ofBf v, if b.act = 2 then sumMx x bs mx a j else FVal.ofInt (sumFmm x b.act bs a j)))

/-- facc := rne_f32(facc + rne_f32(scale × P)), with its flags (R43, R263). -/
def faccOf (z : Bool) (l : List (FVal × FVal)) : FVal × W64 :=
  l.foldl (fun (a : FVal × W64) e =>
    let p := (e.1.mul e.2).toF32 z
    let q := (a.1.add (FVal.ofF32 p.1)).toF32 z
    (FVal.ofF32 q.1, a.2 ||| p.2 ||| q.2 ||| invOf [e.1, e.2] (e.1.mul e.2) |||
      invOf [a.1, FVal.ofF32 p.1] (a.1.add (FVal.ofF32 p.1)))) (FVal.ofInt 0, 0)

/-- A scaled output and its flags (R263): BF16, F32, or INT8 of rne_f32(facc × oscale). -/
def outOf (b : FmmBlk) (a : FVal × W64) : List Byte × W64 :=
  if b.out = 1 then (leBytes 2 (a.1.toBf b.z).1.toNat, a.2 ||| (a.1.toBf b.z).2)
  else if b.out = 2 then (leBytes 4 (a.1.toF32 b.z).1.toNat, a.2)
  else
    let w : W32 := if b.z = true ∧ b.oscale.toNat % 2 ^ 31 < 2 ^ 23 then b.oscale &&& 0x80000000 else b.oscale
    let r := (a.1.mul (FVal.ofF32 w)).toF32 b.z
    let q := (FVal.ofF32 r.1).toSat (-127) 127
    ([BitVec.ofInt 8 q.1], a.2 ||| r.2 ||| q.2 ||| invOf [a.1, FVal.ofF32 w] (a.1.mul (FVal.ofF32 w)))

/-- Bytes of an activation row (R262, R265). -/
def rowLen (x : Chase) (b : FmmBlk) (tr : Bool) : Nat :=
  let kx := Min.min (320 * x.geo.kg) (x.geo.k - 320 * x.geo.j0)
  let n := if tr then x.geo.cols else kx
  if b.act = 1 then (n + 1) / 2 else if b.act = 0 ∧ tr = false then n + x.dup.countP (fun k => decide (k < kx)) else n

/-- R262 to R265, R249, R358: FMM and FMMT on a set chase, or a suspect one, whose row parities match: every output is the sum of its
exact partials; in the accumulator, with one clamp for each, which sets sat and the accumulator's acsat bit; or scaled and converted,
written at its row's pitch, its flags those of the operation. The chase becomes the active one; the busy time is 24 clk for a change of it and the row
time for each row, 8 · planes transposed; a suspect chase fails the token after all is written.
(The accumulator and its flags change at the start, before the token completes: until then nothing may read them, R210.) -/
def FmmSteps : Prop :=
  ∀ (s : State) (t : Nat) (o : EngOp) (rest : List EngOp) (b : FmmBlk) (so dof mo : Nat) (tr : Bool) (m : Team) (n : Nat),
    s.ev.tile = t → CanStart s t true o rest → o.op = .fmm b (tileSpace t so) (tileSpace t dof) tr → 0 < b.rows →
    OwnTeam s t o m → NoWatch s (t / 256) o.asid →
    let x := s.chase t b.chase
    let planes := if b.act = 1 then 4 else 8
    let kx := Min.min (320 * x.geo.kg) (x.geo.k - 320 * x.geo.j0)
    let outs := if tr then kx else x.geo.cols
    let err := if x.state = .suspect then some (errOf 6 b.chase) else none
    let busy := (if (s.tile t).active = some b.chase then 0 else 24) + b.rows * (if tr then 8 * planes else n)
    let row (r : Nat) : List Byte := Memory.readN s.mem (Loc.spad t (so + r * b.spitch)).key (rowLen x b tr)
    let mx (r : Nat) : List Byte :=
      if b.act = 2 then Memory.readN s.mem (Loc.spad t (mo + r * b.mxpitch)).key ((kx + 31) / 32) else []
    x.state ≠ .unset → x.asid = o.asid → x.badParity = [] → IsRowTime x planes n →
    (∀ r, r < b.rows → Readable s t m (so + r * b.spitch) (rowLen x b tr)) →
    (b.act = 2 → b.mxaddr = tileSpace t mo ∧ ∀ r, r < b.rows → Readable s t m (mo + r * b.mxpitch) ((kx + 31) / 32)) →
    (b.out = 0 → b.act < 2 →
      let p (r j : Nat) : Int := ((List.range (if tr then x.geo.ng else x.geo.kg)).map (fun i =>
        if tr then sumFmmt x b.act (row r) i j else sumFmm x b.act (row r) i j)).sum
      let exact (r j : Nat) : Int := (m.acGet b.acc (r * outs + j)).toInt + p r j
      Runs s t true o rest busy 20 err (fun s' => s.SameBytes s' ∧ (s'.tile t).active = some b.chase ∧
        Completes s' t true o none 0 ∧ ∃ m', s'.team t = some m' ∧
          m' = { m with ac := m'.ac, aflags := m'.aflags, raised := m'.raised } ∧
          (∀ k, (∀ r j, r < b.rows → j < outs → k ≠ 512 * b.acc + (r * outs + j)) → m'.ac.get 0 k = m.ac.get 0 k) ∧
          (∀ r j, r < b.rows → j < outs →
            m'.acGet b.acc (r * outs + j) = BitVec.ofInt 32 (Max.max (-2 ^ 31) (Min.min (2 ^ 31 - 1) (exact r j)))) ∧
          ((∀ r j, r < b.rows → j < outs → -2 ^ 31 ≤ exact r j ∧ exact r j < 2 ^ 31) → m'.aflags = m.aflags) ∧
          ((∃ r j, r < b.rows ∧ j < outs ∧ (exact r j < -2 ^ 31 ∨ 2 ^ 31 ≤ exact r j)) →
            m'.aflags = m.aflags ||| 1 ||| (1 <<< (8 + b.acc))))) ∧
    (1 ≤ b.out → b.out ≤ 3 →
      let res (r : Nat) : List (List Byte × W64) := (List.range outs).map (fun j => outOf b (faccOf b.z (terms x b tr (row r) (mx r) j)))
      let out := (List.range b.rows).map (fun r => ((Loc.spad t (dof + r * b.opitch)).key, (res r).flatMap (·.1)))
      (∀ e ∈ out, e.1 + e.2.length ≤ (Loc.spad t m.grant).key) →
      Apart ((List.range b.rows).flatMap (fun r => ((Loc.spad t (so + r * b.spitch)).key, rowLen x b tr) ::
        if b.act = 2 then [((Loc.spad t (mo + r * b.mxpitch)).key, (mx r).length)] else [])) out →
      Runs s t true o rest busy 20 err (fun s' => Wrote s s' out ∧ (s'.tile t).active = some b.chase ∧
        Completes s' t true o none ((List.range b.rows).foldl (fun f r => f ||| (res r).foldl (fun f e => f ||| e.2)
          (if b.act = 2 ∧ (mx r).contains 0xFF then 4 else 0)) 0)))

/-! ### The copy engine -/

/-- Scratchpad lines that n bytes from an offset touch. -/
def linesFrom (off n : Nat) : Nat := if n = 0 then 0 else (off % 64 + n + 63) / 64

/-- R269, R252, R93: CPY moves its rows, and for MXINT8 the scale bytes of each, between the scratchpad and the tensor, unchanged.
That the source is read when the copy starts is the model's choice (log entry 54). -/
def CpySteps : Prop :=
  ∀ (s : State) (t : Nat) (o : EngOp) (rest : List EngOp) (m : Team) (x : Tensor) (toH : Bool) (r r0 c0 cols dp sp so : Nat) (sa : W64)
    (pa qa : Nat → Nat),
    s.ev.tile = t → CanStart s t false o rest → o.op = .cpy x toH r r0 c0 cols dp (tileSpace t sp) sa →
    sa = 0 ∨ sa = tileSpace t so → OwnTeam s t o m → NoWatch s (t / 256) o.asid →
    let n := cols * x.half / 2
    let k := (cols + 31) / 32
    -- (scratchpad offset, place in memory, bytes)
    let moves : List (Nat × Nat × Nat × Nat) := (List.range r).flatMap (fun i =>
      (sp + i * dp, (x.base.toNat + (r0 + i) * x.pitch + c0 * x.half / 2) % 2 ^ 64, pa i, n) ::
        if sa = 0 then [] else [(so + 64 * i, (x.sbase.toNat + (r0 + i) * x.spitch + c0 / 32) % 2 ^ 64, qa i, k)])
    let busy := Max.max 1 ((moves.map (fun e => linesFrom e.1 e.2.2.2)).sum)
    (∀ e ∈ moves, e.1 + e.2.2.2 ≤ m.grant ∧
      s.egress [(.spad t e.1, e.2.2.2)] [(.dev e.2.2.1, e.2.2.2)] = false ∧ s.egress [(.dev e.2.2.1, e.2.2.2)] [(.spad t e.1, e.2.2.2)] = false) →
    (toH = false → (∀ e ∈ moves, EngineBytes s t o.asid e.2.1 e.2.2.2 e.2.2.1 ∧ e.2.2.1 + e.2.2.2 ≤ 2 ^ 50) →
      Runs s t false o rest busy 0 none (fun s' =>
        Wrote s s' (moves.map (fun e => ((Loc.spad t e.1).key, Memory.readN s.mem e.2.2.1 e.2.2.2))))) ∧
    (toH = true → (∀ e ∈ moves, EngineRoom s t o.asid e.2.1 e.2.2.2 e.2.2.1 ∧ s.poisoned (Loc.spad t e.1).key e.2.2.2 = false) →
      Runs s t false o rest busy 0 none (fun s' =>
        Wrote s s' (moves.map (fun e => (e.2.2.1, Memory.readN s.mem (Loc.spad t e.1).key e.2.2.2)))))

/-- R270, R25: CPYR deals its chunks to the tiles of its list, each to the grant of the context's team there; a tile without room for
its chunks gets none of them, and the lowest such index is the error.
That a tile whose team is away is not spoken of here; the order of the chunks is the model's choice (log entry 61). -/
def CpyrSteps : Prop :=
  ∀ (s : State) (t : Nat) (o : EngOp) (rest : List EngOp) (m : Team) (sp chunk len db : Nat) (tiles : List Nat) (g : Nat → Nat),
    s.ev.tile = t → CanStart s t false o rest → o.op = .cpyr (tileSpace t sp) chunk len db tiles → 0 < chunk → chunk % 64 = 0 →
    len % 64 = 0 → tiles ≠ [] → OwnTeam s t o m → Readable s t m sp len →
    (∀ u ∈ tiles, u < 2 ^ 19 ∧ (s.die (u / 256)).resetting = false ∧ NoWatch s (u / 256) o.asid ∧
      ∃ k, s.team u = some k ∧ k.asid = o.asid ∧ k.grant = g u ∧ g u ≤ 0x180000) →
    (∀ n u e, u ∈ tiles → s.egress [(.spad t n, e)] [(.spad u n, e)] = false) →
    -- (source offset, destination offset, bytes) of the chunks of a list entry
    let chunks (j : Nat) : List (Nat × Nat × Nat) := ((List.range ((len + chunk - 1) / chunk)).filter (fun i => i % tiles.length == j)).map
      (fun i => (i * chunk, db + i / tiles.length * chunk, Min.min chunk (len - i * chunk)))
    let takes (j : Nat) : Bool := (chunks j).all (fun e => decide (e.2.1 + e.2.2 ≤ g (tiles.getD j 0)))
    let out := ((List.range tiles.length).filter takes).flatMap (fun j => (chunks j).map (fun e =>
      ((Loc.spad (tiles.getD j 0) e.2.1).key, Memory.readN s.mem (Loc.spad t (sp + e.1)).key e.2.2)))
    Apart [((Loc.spad t sp).key, len)] out →
    Runs s t false o rest (Max.max 1 (linesFrom sp len)) 0
      (((List.range tiles.length).find? (fun j => !takes j)).map (fun j => errOf 10 j)) (fun s' => Wrote s s' out)

/-- R271: CPYG moves the rows of the tensor that its list names, in list order; a row number beyond the tensor is skipped, and its
first place in the list is the error. -/
def CpygSteps : Prop :=
  ∀ (s : State) (t : Nat) (o : EngOp) (rest : List EngOp) (m : Team) (x : Tensor) (r c0 cols dp lo sp : Nat) (pa : Nat → Nat),
    s.ev.tile = t → CanStart s t false o rest → o.op = .cpyg x r c0 cols dp (tileSpace t lo) (tileSpace t sp) → OwnTeam s t o m →
    NoWatch s (t / 256) o.asid → Readable s t m lo (4 * r) →
    let n := cols * x.half / 2
    let row (i : Nat) : Nat := bytesAt s (Loc.spad t (lo + 4 * i)).key 4
    let here := (List.range r).filter (fun i => decide (row i < x.rows))
    (∀ i, i < r → sp + i * dp + n ≤ m.grant) →
    (∀ i ∈ here, EngineBytes s t o.asid ((x.base.toNat + row i * x.pitch + c0 * x.half / 2) % 2 ^ 64) n (pa i) ∧ pa i + n ≤ 2 ^ 50 ∧
      s.egress [(.dev (pa i), n)] [(.spad t (sp + i * dp), n)] = false) →
    let out := here.map (fun i => ((Loc.spad t (sp + i * dp)).key, Memory.readN s.mem (pa i) n))
    Apart [((Loc.spad t lo).key, 4 * r)] out →
    Runs s t false o rest (Max.max 1 (((List.range r).map (fun i => linesFrom (sp + i * dp) n)).sum)) 0
      (((List.range r).find? (fun i => decide (x.rows ≤ row i))).map (fun i => errOf 7 i)) (fun s' => Wrote s s' out)

/-! ### Casting and quantising -/

def FVal.isFinite : FVal → Bool
  | .fin _ _ _ => true
  | .inf _ => false
  | .nan _ => false

/-- A value of the casting unit or of CQNT as F32. -/
def f32 (x : FVal) : FVal := FVal.ofF32 x.toF32.1

/-- R274: trits and scale of a cast group whose values are finite: s = rne_f32(Σ |w| ÷ Kg), summed in K order, each trit the sign of
its weight where |w| > θ × s. One with a NaN or an infinity has zero trits and scale +0, and fails. -/
def CastGroups : Prop :=
  ∀ (th : Byte) (ws : List (BitVec 16)), ws ≠ [] → th.getLsbD 7 = false →
    let xs := ws.map FVal.ofBf
    let sum := xs.foldl (fun a x => f32 (a.add x.abs)) (FVal.ofInt 0)
    ((∃ x ∈ xs, FVal.isFinite x = false) →
      (castGroup th ws).1 = (List.replicate ws.length 0, 0) ∧ (castGroup th ws).2.1 = true) ∧
    ((∀ x ∈ xs, FVal.isFinite x = true) →
      ∀ sc, (∀ f n d, sum = .fin f n d → sc = f32 (.fin f n (d * ws.length))) → (∀ f, sum = .inf f → sc = .inf f) →
      (castGroup th ws).2.1 = false ∧ (castGroup th ws).1.2 = sc.toBf.1 ∧
      (castGroup th ws).1.1 = xs.map (fun x => if ((FVal.ofF8 th).mul sc).ltNum x.abs then (if x.ltNum (FVal.ofInt 0) then -1 else 1) else 0))

/-- The T5 bytes of trits, padding zero (R29, R32). -/
def t5Of (l : List Int) : List Byte :=
  (List.range ((l.length + 4) / 5)).map (fun i => BitVec.ofNat 8 (((List.range 5).map (fun j =>
    (match l.getD (5 * i + j) 0 with
      | 1 => 1
      | -1 => 2
      | _ => 0) * 3 ^ j)).sum))

/-- R273, R274: CAST in memory mode writes the T5 bytes and the record of each group, in ordinal order, and fails with the first group that
held a NaN or an infinity; it is busy a clk for each 64 latent bytes. -/
def CastSteps : Prop :=
  ∀ (s : State) (t : Nat) (o : EngOp) (rest : List EngOp) (x y : Tensor) (th : Byte) (first count : Nat) (pa da ra : Nat → Nat),
    s.ev.tile = t → CanStart s t false o rest → o.op = .cast x y th first count →
    let ords := (List.range count).map (first + ·)
    let kgs := (x.dim0 + 319) / 320
    let ws (q : Nat) : List (BitVec 16) := (List.range (groupLen x q)).map (fun k => BitVec.ofNat 16 (bytesAt s (pa q + 2 * k) 2))
    let cast (q : Nat) := castGroup th (ws q)
    let out := ords.flatMap (fun q => [(da q, t5Of (cast q).1.1), (ra q, leBytes 4 (q % 2 ^ 16 * 2 ^ 16 + (cast q).1.2.toNat))])
    (∀ q ∈ ords, EngineBytes s t o.asid ((x.base.toNat + q / kgs * x.pitch + 640 * (q % kgs)) % 2 ^ 64) (2 * groupLen x q) (pa q) ∧
      EngineRoom s t o.asid ((y.base.toNat + q * y.pitch) % 2 ^ 64) ((groupLen x q + 4) / 5) (da q) ∧
      EngineRoom s t o.asid ((y.sbase.toNat + 4 * q) % 2 ^ 64) 4 (ra q)) →
    Apart (ords.map (fun q => (pa q, 2 * groupLen x q))) out →
    Runs s t false o rest (Max.max 1 ((ords.map (fun q => (2 * groupLen x q + 63) / 64)).sum)) 0
      ((ords.find? (fun q => (cast q).2.1)).map (fun q => errOf 3 q)) (fun s' => Wrote s s' out ∧
        Completes s' t false o none (ords.foldl (fun f q => f ||| (cast q).2.2) 0))

/-- The values of a row of a BF16 or F32 tensor, subnormals flushed with z (R43). -/
def rowOf (s : State) (x : Tensor) (z : Bool) (pa : Nat) : List FVal :=
  (List.range x.dim0).map (fun k =>
    if x.format = 5 then
      let v := BitVec.ofNat 16 (bytesAt s (pa + 2 * k) 2)
      FVal.ofBf (if z = true ∧ v.toNat % 2 ^ 15 < 2 ^ 7 then v &&& 0x8000 else v)
    else
      let v : W32 := BitVec.ofNat 32 (bytesAt s (pa + 4 * k) 4)
      FVal.ofF32 (if z = true ∧ v.toNat % 2 ^ 31 < 2 ^ 23 then v &&& 0x80000000 else v))

/-- R275: a group of n values of a row, quantised to ± qmax: s = rne_bf16(max |x| ÷ qmax), each element the nearest integer to x ÷ s,
clamped; zeros for a group of zeros, and for one with a NaN or an infinity, which sets INV. -/
def QuantGroups : Prop :=
  ∀ (qmax : Nat) (z : Bool) (l : List FVal), 0 < qmax →
    let big := l.foldl (fun (a : FVal) x => if FVal.lt a x.abs then x.abs else a) (FVal.ofInt 0)
    let sc := (big.divFin (FVal.ofInt qmax)).toBf z
    let q (x : FVal) : Int × W64 := (x.divFin (FVal.ofBf sc.1)).toSat (-qmax) qmax
    ((∃ x ∈ l, FVal.isFinite x = false) → quantGroup qmax z l = (List.replicate l.length 0, 0, 4)) ∧
    ((∀ x ∈ l, FVal.isFinite x = true) → sc.1.toNat % 2 ^ 15 = 0 → quantGroup qmax z l = (List.replicate l.length 0, 0, sc.2)) ∧
    ((∀ x ∈ l, FVal.isFinite x = true) → sc.1.toNat % 2 ^ 15 ≠ 0 →
      quantGroup qmax z l = (l.map (fun x => (q x).1), sc.1, l.foldl (fun f x => f ||| (q x).2) sc.2))

/-- R275, R252, R39, R47: CQNT writes the quantised elements of each row, and its scale records, or for MXINT8 its scale bytes; its flags are
those of all groups.
The padding of a row's last MXINT8 block is not written (log entry 54), the unused nibble of an odd INT4 row is 0 (log entry 18). -/
def CqntSteps : Prop :=
  ∀ (s : State) (t : Nat) (o : EngOp) (rest : List EngOp) (x y : Tensor) (r0 r : Nat) (z : Bool) (pa da : Nat → Nat) (ra : Nat → Nat → Nat),
    s.ev.tile = t → CanStart s t false o rest → o.op = .cqnt x y r0 r z → x.format = 5 ∨ x.format = 6 →
    let n := x.dim0
    let e := if x.format = 5 then 2 else 4
    let mx := y.format == 3
    y.format = 3 ∨ (y.format = 1 ∨ y.format = 2) ∧ 0 < y.grp →
    let per := if mx then 32 else y.grp
    let k := (n + per - 1) / per
    -- group j of row i: elements, scale as written, flags
    let group (i j : Nat) : List Int × List Byte × W64 :=
      let l := ((rowOf s x z (pa i)).drop (j * per)).take per
      if mx then
        let q := mxQuant ((List.range 32).map (fun c => l[c]?))
        ((q.1.take l.length).map (fun b => b.toInt), [q.2.1], q.2.2)
      else
        let q := quantGroup (if y.format = 1 then 127 else 7) z l
        (q.1, leBytes 4 (((r0 + i) * k + j) % 2 ^ 16 * 2 ^ 16 + q.2.1.toNat), q.2.2)
    let elems (i : Nat) : List Int := (List.range k).flatMap (fun j => (group i j).1)
    let bytes (i : Nat) : List Byte :=
      if y.format = 2 then (List.range ((n + 1) / 2)).map (fun c =>
        BitVec.ofInt 8 (((elems i).getD (2 * c) 0) % 16 + 16 * (((elems i).getD (2 * c + 1) 0) % 16)))
      else (elems i).map (BitVec.ofInt 8)
    let scaleVa (i j : Nat) : Nat := if mx then y.sbase.toNat + (r0 + i) * y.spitch + j else y.sbase.toNat + 4 * ((r0 + i) * k + j)
    let out := (List.range r).flatMap (fun i => (da i, bytes i) :: (List.range k).map (fun j => (ra i j, (group i j).2.1)))
    (∀ i, i < r → EngineBytes s t o.asid ((x.base.toNat + (r0 + i) * x.pitch) % 2 ^ 64) (n * e) (pa i) ∧
      EngineRoom s t o.asid ((y.base.toNat + (r0 + i) * y.pitch) % 2 ^ 64) (bytes i).length (da i) ∧
      (mx = true → (∀ j, ra i j = ra i 0 + j) ∧ EngineRoom s t o.asid (scaleVa i 0 % 2 ^ 64) k (ra i 0)) ∧
      (mx = false → ∀ j, j < k → EngineRoom s t o.asid (scaleVa i j % 2 ^ 64) 4 (ra i j))) →
    Apart ((List.range r).map (fun i => (pa i, n * e))) out →
    Runs s t false o rest (Max.max 1 (r * ((n * e + 63) / 64))) 0 none (fun s' => Wrote s s' out ∧
      Completes s' t false o none ((List.range r).foldl (fun f i => (List.range k).foldl (fun f j => f ||| (group i j).2.2) f) 0))

end Sys2Proof.Claims

/-- R247 to R249, R259, R263, R264, R267, R268, R272, R273, R358, R359: an engine executes the operation at the head of its
queue: FCLR leaves the named chases of its context unset, FMAP leaves its chase unset with the new map, FPRB writes the 192
bytes of its record, CFIL its pattern, FMM with no rows is done in one clk, and one that names a chase not set makes it the
active one, takes the time of its rows and fails with error code 0x05, 20 clk after its end. A token completes in order of
acceptance, its flags set; with an error it has failed. The scrub moves on by one row
of a macro. A direct CAST starts when both engines are idle: it sets its chase from the cast groups of its source, or fails with
code 0x08 on an address outside virtual memory.
The busy time of an FMM on a chase that is not set, with its rows' passes counted as 1, and of a direct CAST, is the model's
reading (log entry 38). -/
def Sys2Proof.Claims.EngineStarts : Prop :=
  (∀ (s : State) (t : Nat) (o : EngOp) (rest : List EngOp), s.ev.tile = t → CanStart s t true o rest →
    let run : Prop → Nat → Nat → Option W64 → (State → Prop) → Prop := fun p busy tail err post =>
      p → ∃ s', exec .formeOpStart s = .next s' ∧ Started s s' t true o rest busy tail err ∧ post s'
    (∀ mask, run (o.op = .fclr mask) 4 0 none (fun s' => s.SameBytes s' ∧ ∀ c : Fin 32,
      if mask.getLsbD c = true ∧ (s.chase t c).foreign o.asid = false then s'.chase t c = Chase.reset
      else s'.chase t c = s.chase t c)) ∧
    (∀ c dup, run (o.op = .fmap c dup) 8 0 none (fun s' => s.SameBytes s' ∧ s'.chase t c = Chase.unset o.asid dup)) ∧
    (∀ c off m, run (o.op = .fprb c (tileSpace t off) ∧ t < 2 ^ 19 ∧ s.team t = some m ∧
        m.is o.asid o.ident o.block = true ∧ off + 192 ≤ m.grant ∧ m.grant ≤ 0x180000 ∧
        (s.die (t / 256)).resetting = false ∧ NoWatch s (t / 256) o.asid) 4 0 none
      (fun s' => s.SameBytesBut s' (Loc.spad t off).key 192 ∧
        Memory.readN s'.mem (Loc.spad t off).key 192 = probe (s.chase t c) o.asid)) ∧
    (∀ b src dst tr, run (o.op = .fmm b src dst tr ∧ b.rows = 0) 1 0 none (fun s' => s.SameBytes s')) ∧
    ∀ b src dst tr, let planes := if b.act = 1 then 4 else 8
      run (o.op = .fmm b src dst tr ∧ 0 < b.rows ∧
        ((s.chase t b.chase).state = .unset ∨ (s.chase t b.chase).asid ≠ o.asid))
      ((if (s.tile t).active = some b.chase then 0 else 24) + b.rows * (if tr then 8 * planes else planes)) 20
      (some (nat (0x05 * 2 ^ 56 + b.chase % 2 ^ 40)))
      (fun s' => s.SameBytes s' ∧ (s'.tile t).active = some b.chase)) ∧
  (∀ (s : State) (t : Nat) (o : EngOp) (rest : List EngOp) (m : Team) (off n : Nat) (p : W64), s.ev.tile = t →
    CanStart s t false o rest → o.op = .cfil (tileSpace t off) n p → t < 2 ^ 19 → n % 8 = 0 → s.team t = some m →
    m.is o.asid o.ident o.block = true → off + n ≤ m.grant → m.grant ≤ 0x180000 → (s.die (t / 256)).resetting = false →
    NoWatch s (t / 256) o.asid →
    let lines := if n = 0 then 0 else (off % 64 + n + 63) / 64
    ∃ s', exec .copyOpStart s = .next s' ∧ Started s s' t false o rest (Max.max 1 lines) 0 none ∧
      s.SameBytesBut s' (Loc.spad t off).key n ∧
      ∀ j, j < n → (Memory.read s'.mem ((Loc.spad t off).key + j)).toNat = p.toNat / 256 ^ (j % 8) % 256) ∧
  (∀ (s : State) (t : Nat) (o : EngOp) (fs cs : List EngOp) (x : Tensor) (th : Byte) (c : Nat) (g : Geo), s.ev.tile = t →
    (s.tile t).forme.queue = o :: fs → (s.tile t).copy.queue = o :: cs → o.op = .castDirect x th c g →
    (s.tile t).forme.idleAt s.clk = true → (s.tile t).copy.idleAt s.clk = true → (s.tile t).forme.stuck = none →
    (s.tile t).opHeld o s.clk = false →
    2 ^ 56 ≤ (x.base.toNat + (g.n0 * x.kgs + g.j0) / x.kgs * x.pitch + 640 * ((g.n0 * x.kgs + g.j0) % x.kgs)) % 2 ^ 64 →
    0 < g.cols → 0 < g.kg → 0 < x.dim0 →
    ∃ s' e, exec .directCastStart s = .next s' ∧ (s'.tile t).forme.queue = fs ∧ (s'.tile t).copy.queue = cs ∧
      (s'.chase t c).state = .unset ∧ s.SameBytes s' ∧ (∃ y ∈ (s'.tile t).forme.done, y.n = o.n ∧ y.err = some e ∧
        e.toNat / 2 ^ 56 = 8) ∧ ∃ y ∈ (s'.tile t).copy.done, y.n = o.n ∧ y.err = some e) ∧
  (∀ (s : State) (t : Nat) (o : EngOp) (fs cs : List EngOp) (x : Tensor) (th : Byte) (c : Nat) (g : Geo) (pa : Nat → Nat)
    (plate : Chase), s.ev.tile = t →
    (s.tile t).forme.queue = o :: fs → (s.tile t).copy.queue = o :: cs → o.op = .castDirect x th c g →
    (s.tile t).forme.idleAt s.clk = true → (s.tile t).copy.idleAt s.clk = true → (s.tile t).forme.stuck = none →
    (s.tile t).opHeld o s.clk = false →
    let len (j : Nat) : Nat := Min.min 320 (x.dim0 - 320 * (j % x.kgs))
    let groups := (plateGroups g x.kgs).map (fun e =>
      castGroup th ((List.range (len e.2.2)).map (fun n => BitVec.ofNat 16 (bytesAt s (pa e.2.2 + 2 * n) 2))))
    let busy := ((plateGroups g x.kgs).map (fun e => (2 * len e.2.2 + 63) / 64)).sum + 40
    (∀ e ∈ plateGroups g x.kgs, EngineBytes s t o.asid
      ((x.base.toNat + e.2.2 / x.kgs * x.pitch + 640 * (e.2.2 % x.kgs)) % 2 ^ 64) (2 * len e.2.2) (pa e.2.2)) →
    (∀ e ∈ groups, e.2.1 = false) → buildChase o.asid g (s.chase t c).dup (groups.map (·.1)) = .ok plate →
    ∃ s', exec .directCastStart s = .next s' ∧ (s'.tile t).forme.queue = fs ∧ (s'.tile t).copy.queue = cs ∧
      s'.chase t c = Chase.unset o.asid (s.chase t c).dup ∧ plate.state = .set ∧ plate.geo = g ∧ s.SameBytes s' ∧
      (∃ y ∈ (s'.tile t).forme.done, y.n = o.n ∧ y.err = none ∧ y.due = s.clk + busy - 1 ∧ y.chase = some (c, plate)) ∧
      ∃ y ∈ (s'.tile t).copy.done, y.n = o.n ∧ y.err = none ∧ y.due = s.clk + busy - 1) ∧
  (∀ (s : State) (t : Nat) (m : Team) (d : EngDone) (fs : List EngDone), s.ev.tile = t →
    (s.tile t).forme.done = d :: fs → d.due ≤ s.clk → d.direct = false → s.team t = some m → m.asid = d.asid →
    m.ident = d.ident → m.block = d.block → m.noExchange = false →
    ∃ s', exec .engineTokenComplete s = .next s' ∧ (s'.tile t).forme.done = fs ∧ s.SameBytes s' ∧
      (∀ k, s'.chase t k = (d.chase.filter (fun x => x.1 == k)).elim (s.chase t k) (·.2)) ∧
      s'.team t = some { m with
        aflags := m.aflags ||| d.flags
        raised := m.raised ||| d.flags
        toks := m.toks.set d.tok.toNat (match d.err with
          | none => { m.toks[d.tok.toNat] with pending := false, failed := false, err := 0 }
          | some e => { m.toks[d.tok.toNat] with pending := false, failed := true, err := e }) d.tok.isLt }) ∧
  ∀ (s : State) (t n : Nat), s.ev.tile = t → (s.tile t).forme.queue = [] → (s.tile t).forme.idleAt s.clk = true →
    n = (s.tile t).scrub → n < 655360 → (s.chase t (n / 20480)).state = .set →
    n / 320 % 64 < (s.chase t (n / 20480)).geo.kg * (s.chase t (n / 20480)).geo.ng → n % 320 ≠ 319 →
    ∃ s', exec .proofingScrub s = .next s' ∧ (s'.tile t).scrub = n + 1 ∧ s.SameBytes s'

/-- R247 to R275, R31 to R33, R49, R358: EngineStarts, PlateBuilt, FsetSteps, FsclSteps, ProbeRecord, FmmSteps, CpySteps, CpyrSteps, CpygSteps,
CastGroups, CastSteps, QuantGroups and CqntSteps.
The busy times of copies and castings, and of an FMM on a chase that is not set, are the model's reading (log entry 38); that a
CPY reads its source at the start, and the padding of an MXINT8 row, are its choice (log entry 54), as are the order of CPYR's
chunks (log entry 61), the unused nibble of an odd INT4 row (log entry 18), and the place of trit cells (log entry 17). -/
def Obligations.EngineSteps : Prop :=
  Claims.EngineStarts ∧ Claims.PlateBuilt ∧ Claims.FsetSteps ∧ Claims.FsclSteps ∧ Claims.ProbeRecord ∧ Claims.FmmSteps ∧
    Claims.CpySteps ∧ Claims.CpyrSteps ∧ Claims.CpygSteps ∧ Claims.CastGroups ∧ Claims.CastSteps ∧ Claims.QuantGroups ∧
    Claims.CqntSteps

/-! ## Time slices -/

namespace Sys2Proof.Claims
open Sys2Proof.Machine

/-- No strand and no byte of memory changes. -/
def Quiet (s s' : State) : Prop := (∀ r, s'.strand r = s.strand r) ∧ s.SameBytes s'

/-- Team m of tile t has left by the forced path (R332, R334): its tile has no team and no anchored strand; its save, the
last of the tile's, holds the team, its yield request cleared, and its strands with their registers and, unless a store's
registration was awaited, their PCs; its record is written later. The bytes of its grant stand in the image. -/
def ForcedOut (s s' : State) (t : Nat) (m : Team) : Prop :=
  s'.team t = none ∧ (∀ k, k < 8 → s'.strand (.tile t k) = none) ∧
  (∃ x, (s'.tile t).swapped = (s.tile t).swapped ++ [x] ∧ x.path = .forced ∧ x.since = s.clk ∧ x.final = false ∧
    x.team = { m with yreq := false, stopping := false, exch := [], noExchange := false, tapAt := none } ∧
    s.saveIndex m.asid = some x.idx ∧ x.pa = (s.ctx (t / 256) m.asid).save + 2 * 2 ^ 20 * x.idx ∧
    (∀ k st, k < 8 → s.strand (.tile t k) = some st → ∃ st', (k, st') ∈ x.strands ∧ st'.SameRegs st ∧ st'.uid = st.uid ∧
      ((∀ n, st.hold ≠ some (.storeAcq n)) → st'.pc = st.pc)) ∧
    ∀ j, j < m.grant → Memory.wf s.mem = true → m.grant ≤ 0x180000 → x.pa + 2 ^ 21 ≤ 2 ^ 50 →
      Memory.read s'.mem (x.pa + 0x10000 + j) = Memory.read s.mem ((Loc.spad t 0).key + j)) ∧
  Turn.happen .dirtyLogMerge { tile := t } ∈ s'.agenda ∧ Turn.happen .blockDeal { die := t / 256 } ∈ s'.agenda

/-- Nothing delays the forced pre-emption of the team of context a from tile t (R332 step 1, R334): a record of the context's
save area is free, and no answer of an atomic that the team's strands have performed is on its way. -/
def MayLeave (s : State) (t a : Nat) : Prop :=
  (s.saveIndex a).isSome = true ∧ (s.tile t).preemptible = true ∧ ∀ p ∈ s.net, (s.tile t).underWay p = false

end Sys2Proof.Claims

/-- R329: the yield request of a team without one is set, none of whose strands is halted or parked: when its residence has
reached its quantum (320,000 clk where the entry has 0) while a candidate of equal or higher class waits, and when it has
been asleep for 4096 clk while a candidate waited. R330, R332: with the request set and the deadline counter at 0, or
without a deadline ⌊Q/16⌋ clk after the request, the team leaves by the forced path. A candidate counts here although its
block has not come down to the die yet: the model's reading (log entry 58, DEDUCED). -/
def Sys2Proof.Claims.YieldRequests : Prop :=
  ∀ (s : State) (t : Nat) (m : Team), s.ev.tile = t → s.team t = some m → (s.tile t).preemptible = true →
    let q := let n := (s.ctx (t / 256) m.asid).quantum
      if n = 0 then 320000 else n
    (m.yreq = false → q ≤ m.residence → s.contested t = true → ∃ s', exec .quantumExpiry s = .next s' ∧
      s'.team t = some { m with yreq := true, yreqAt := s.clk } ∧ Quiet s s') ∧
    (m.yreq = false → 4096 ≤ m.asleepFor → s.waitingFor t ≠ [] → ∃ s', exec .asleepYieldTimeout s = .next s' ∧
      s'.team t = some { m with yreq := true, yreqAt := s.clk } ∧ Quiet s s') ∧
    (m.yreq = true → m.count = some 0 → MayLeave s t m.asid →
      ∃ s', exec .forcedPreemption s = .next s' ∧ ForcedOut s s' t m) ∧
    (m.yreq = true → m.count = none → m.yreqAt + q / 16 ≤ s.clk → MayLeave s t m.asid →
      ∃ s', exec .preemptGraceExpiry s = .next s' ∧ ForcedOut s s' t m)

/-- R332 step 3: with both engines quiet, the incoming team's accumulators and tokens are in place. R332 step 4, R333, R334:
a save with nothing on its way becomes final; the record of a compact one was complete, that of a forced one is written into
its first 64 KiB, path and block index first. R331: an incoming saved team is back on its tile, its request clear, its
residence 0, its strands in their slots to acquire before they issue, the grant's bytes those of the image, which for a
compact save are those of its declared ranges, all others zero (R178). R357, R74: the chosen strand of a context that is asleep freezes with code 0x60.
A save and a fill move the bytes at once (log entry 10); the index is log entry 15. -/
def Sys2Proof.Claims.SwapResults : Prop :=
  (∀ (s : State) (t : Nat) (m : Team), s.ev.tile = t → s.team t = some m → (s.tile t).forme.quiet = true →
    (s.tile t).copy.quiet = true →
    ∃ s', exec .accTokenExchange s = .next s' ∧ s'.team t = some { m with noExchange := false } ∧ s.SameBytes s') ∧
  (∀ (s : State) (t : Nat) (x : Saved), s.ev.tile = t → (s.tile t).savedAt s.ev.asid s.ev.n = some x → x.final = false →
    x.since = s.ev.k → s.savePending t x = false →
    ∃ s', exec .saveRecordWrite s = .next s' ∧ { x with final := true } ∈ (s'.tile t).swapped ∧
      (∀ r, s'.strand r = s.strand r) ∧ Turn.happen .blockDeal { die := t / 256 } ∈ s'.agenda ∧
      (x.path = .compact → s.SameBytes s') ∧
      (x.path = .forced → (∀ e ∈ x.strands, e.1 < 8) → x.team.block < 2 ^ 62 → (∀ i : Fin 4, x.team.q[i].length ≤ 8) →
        s.SameBytesBut s' x.pa 0x10000 ∧ bytesAt s' x.pa 8 = 2 ^ 62 + x.team.block)) ∧
  (∀ (s : State) (t a n : Nat) (x : Saved), s.ev.tile = t → s.ev.asid = a → s.ev.n = n →
    (s.tile t).incoming = some (.saved n a) → (s.tile t).savedAt a n = some x → s.team t = none →
    Table.risingFrom 0 x.strands = true → (s.root a).chosen = none →
    ∃ s' m, exec .teamResume s = .next s' ∧ (s'.tile t).incoming = none ∧ (s'.tile t).savedAt a n = none ∧
      s'.team t = some m ∧ m.v = x.team.v ∧ m.p = x.team.p ∧ m.ac = x.team.ac ∧ m.toks = x.team.toks ∧ m.q = x.team.q ∧
      m.yreq = false ∧ m.residence = 0 ∧
      (∀ e ∈ x.strands, ∃ st, s'.strand (.tile t e.1) = some st ∧ st.SameRegs e.2 ∧ st.pc = e.2.pc ∧ st.mustAcquire = true) ∧
      (Memory.wf s.mem = true → x.team.grant ≤ 0x180000 → x.pa + 2 ^ 21 ≤ 2 ^ 50 → ∀ j, j < x.team.grant →
        (x.path = .forced ∨ InDecl x.decl j →
          Memory.read s'.mem ((Loc.spad t 0).key + j) = Memory.read s.mem (x.pa + 0x10000 + j)) ∧
        (x.path = .compact → ¬ InDecl x.decl j → Memory.read s'.mem ((Loc.spad t 0).key + j) = 0))) ∧
  (∀ (s : State) (a t k uid : Nat) (st : Strand), s.ev.asid = a → (s.root a).chosen = some uid →
    s.findUid uid = some (.tile t k) → s.strand (.tile t k) = some st → st.run = .running →
    s.asleepAt (.tile t k) st = true →
    ∃ s' st', exec .allAsleepFault s = .next s' ∧ (s'.root a).chosen = none ∧ s'.strand (.tile t k) = some st' ∧
      st'.uid = st.uid ∧ st'.run = .frozen ∧
      ∃ p ∈ (s'.die (t / 256)).faults, p.code = 0x60 ∧ p.tile = t ∧ p.slot = k ∧ p.asid = st.asid)

/-- R329 to R334: YieldRequests and SwapResults. What counts as waiting for a tile is log entry 58 (DEDUCED), that a save moves
its bytes at once log entry 10, and its index log entry 15. -/
def Obligations.TimeSliceResults : Prop := Claims.YieldRequests ∧ Claims.SwapResults

/-- R335: the first slice of a gang edition is fixed at 2L from acceptance, L = Q/8, with its request L before. The request
asks for a yield of every team on the gang's tiles that is not the gang's, and, L before the slice ends, of the gang's own.
The slice starts (with no take-over of core 1 going on, R337): its end is due Q later, the next start 2Q later, and the dies
deal; its end forces out the gang's teams that are still there. R336: a start on time resets the package's count of late
starts, a late one adds 1.
That the first slice is 2L from acceptance is the model's choice (log entry 43). -/
def Obligations.GangResults : Prop :=
  ∀ (s : State) (a : Nat) (e : Edition), s.ev.asid = a → s.ev.n = e.seq → s.edition a s.ev.ident = some e →
    e.state = .running → e.desc.gang = true → e.gangTiles ≠ [] →
    let q := s.gangQ a
    let x : EvArg := { asid := a, ident := e.ident, n := e.seq }
    (s.ev.k = 2 → e.gangStart = none → ∃ s' e', exec .gangPreSliceRequest s = .next s' ∧ s'.edition a e.ident = some e' ∧
      e'.gangStart = some (s.podTimeAt (s.clk + 2 * (q / 8))) ∧ Quiet s s' ∧
      Timer.mk (s.clk + q / 8) .gangPreSliceRequest x ∈ s'.timers ∧
      Timer.mk (s.clk + 2 * (q / 8)) .gangSliceStart x ∈ s'.timers) ∧
    (s.ev.k < 2 → ∀ y m, y ∈ e.gangTiles → s.team y.tile = some m →
      (m.is a e.ident y.idx = true ↔ s.ev.k = 1) →
      ∃ s' m', exec .gangPreSliceRequest s = .next s' ∧ s'.team y.tile = some m' ∧ m'.yreq = true ∧ Quiet s s') ∧
    ((s.pkg (s.root a).pkg).gangReady = true → ∃ s' e', exec .gangSliceStart s = .next s' ∧
      s'.edition a e.ident = some e' ∧ e'.gangOn = true ∧ e'.slice = e.slice + 1 ∧ e'.sliceAt = s.podTime ∧ Quiet s s' ∧
      Timer.mk (s.clk + q) .gangSliceEnd x ∈ s'.timers ∧ Timer.mk (s.clk + 2 * q) .gangSliceStart x ∈ s'.timers ∧
      ∀ y ∈ e.gangTiles, Turn.happen .blockDeal { die := y.tile / 256 } ∈ s'.agenda) ∧
    (∃ s' e', exec .gangSliceEnd s = .next s' ∧ s'.edition a e.ident = some e' ∧ e'.gangOn = false ∧ Quiet s s' ∧
      ∀ y ∈ e.gangTiles, s.gangHere a e y = true →
        Turn.happen .forcedPreemption { tile := y.tile, asid := a, ident := e.ident, n := y.idx, flag := true } ∈ s'.agenda) ∧
    let late := e.late.get 0 s.ev.pkg
    ∃ s' e', exec .gangLateNotice s = .next s' ∧ s'.edition a e.ident = some e' ∧
      e'.late.get 0 s.ev.pkg = if s.ev.value.toNat ≤ e.sliceAt.toNat then 0 else late + 1


/-! ## The memory system -/

namespace Sys2Proof.Claims
open Sys2Proof.Machine

/-- The n bytes from off on of tile u's scratchpad are in its bank, inside the grant of its team, of context a; none is
poisoned (R25, R354, R362). -/
def InBank (s : State) (u a off n : Nat) : Prop :=
  (∃ m, s.team u = some m ∧ m.asid = a ∧ off + n ≤ m.grant ∧ m.grant ≤ 0x180000) ∧ (s.die (u / 256)).resetting = false ∧
  s.poisoned (Loc.spad u off).key n = false

/-- The load of a strand in slot k of tile t is on its way as packet p (R25, R156). -/
def LoadOut (s : State) (t k : Nat) (st : Strand) (p : Packet) (d : GReg) (n : Nat) (sg : Bool) (h : Hold) : Prop :=
  s.net.find? (fun x => x.n == s.ev.n) = some p ∧ p.ref = .tile t k ∧ s.strand (.tile t k) = some st ∧ st.uid = p.uid ∧
  st.hold = some h ∧ p.acc = .load d n sg ∧ p.store = none

end Sys2Proof.Claims

/-- R25, R152, R165: a load that reaches another tile's scratchpad gives the bytes there as its answer, or the context fault
0x11 where its context has no grant; when the answer returns, the register takes the bytes and the strand goes on, with the
acquire its order asks for, or takes the fault at its instruction. R156, R157: a completion from the host gives the bytes of
host memory, when both requests of an access to two 64-byte lines have theirs, and one with an error the host-access fault
0x21. -/
def Sys2Proof.Claims.AnswerResults : Prop :=
  ∀ (s : State) (t k n : Nat) (st : Strand) (p : Packet) (d : GReg) (sg : Bool),
    let loaded (i : Instr) (bs : List Byte) : Prop := ∃ s' st', exec i s = .next s' ∧ s'.strand (.tile t k) = some st' ∧
      s.OnlyStrand s' (.tile t k) ∧ st.Ended st' (st.fetch.own + 4) ∧ st'.acq = acqAfter s st p.ord ∧
      st.Writes st' d (extend bs.length sg (leNat bs)) ∧ ∀ x ∈ s'.net, x.n ≠ p.n
    (∀ u off, LoadOut s t k st p d n sg (.remote p.n) → p.answer = none → p.segs = [(.spad u off, n)] →
      (InBank s u p.asid off n → ∃ s', exec .remoteAccessArrival s = .next s' ∧ Quiet s s' ∧
        { p with answer := some (.bytes (Memory.readN s.mem (Loc.spad u off).key n)) } ∈ s'.net) ∧
      ((s.die (u / 256)).resetting = false → (s.tile u).grantOf p.asid = none →
        ∃ s', exec .remoteAccessArrival s = .next s' ∧ Quiet s s' ∧ { p with answer := some (.fault 0x11) } ∈ s'.net)) ∧
    (LoadOut s t k st p d n sg (.remote p.n) →
      (∀ bs, p.answer = some (.bytes bs) → loaded .remoteAnswer bs) ∧
      ∀ c, p.answer = some (.fault c) → ∃ s', exec .remoteAnswer s = .next s' ∧ Traps s s' t k st c 0 p.addr) ∧
    ∀ bus, LoadOut s t k st p d n sg (.host p.n) → p.segs = [(.host bus, n)] → 0 < n → n ≤ 64 →
      let room := 64 - bus % 64
      let bytes (from_ len : Nat) : List Byte := Memory.readN s.mem (2 ^ 64 + bus + from_) len
      (n ≤ room → s.ev.k = 0 → p.parts = [] → s.poisoned (2 ^ 64 + bus) n = false → s.ev.status = .ok →
        loaded .hostCompletion (bytes 0 n)) ∧
      (room < n → s.ev.k = 0 → p.parts = [] → s.poisoned (2 ^ 64 + bus) room = false → s.ev.status = .ok →
        ∃ s', exec .hostCompletion s = .next s' ∧ Quiet s s' ∧ { p with parts := [(0, bytes 0 room)] } ∈ s'.net) ∧
      (∀ bs, room < n → s.ev.k = 1 → p.parts = [(0, bs)] → s.poisoned (2 ^ 64 + bus + room) (n - room) = false →
        s.ev.status = .ok → loaded .hostCompletion (bs ++ bytes room (n - room))) ∧
      (s.ev.k = 0 ∨ s.ev.k = 1 ∧ room < n → s.ev.status ≠ .ok →
        ∃ s', exec .hostCompletion s = .next s' ∧ Traps s s' t k st 0x21 0 p.addr)

/-- R174, R196: a write from outside to a scratchpad, with no watch of its context there, stores its bytes and is a wake event of
code 1 on the tile at the end of the clk. R155, R157, R351: a store that the host refuses counts as registered, and its
acknowledgement follows; when it refuses one of two requests, the other's bytes are still to be registered. R79: the write-back of
an owned word returns the ownership to its home. R97, R98, R350: a settled entry that is alone in the side log is performed
at its home and leaves the log. R198: the next budget window of a watch entry begins with no impression created. -/
def Sys2Proof.Claims.StoreSteps : Prop :=
  (∀ (s : State) (w : HostWrite) (t off : Nat), s.ev.write = some w → s.ev.status = .ok → w.key = (Loc.spad t off).key →
    t < 2 ^ 19 → off < 2 ^ 21 → NoWatch s (t / 256) w.asid →
    ∃ s', exec .hostWriteIngress s = .next s' ∧ s.SameBytesBut s' w.key w.bytes.length ∧
      Memory.readN s'.mem w.key w.bytes.length = w.bytes ∧ Turn.happen .wakeEvent { tile := t, k := 1 } ∈ s'.late) ∧
  (∀ (s : State) (t bus n : Nat) (e : StoreEnt), s.ev.tile = t →
    (s.tile t).sb.find? (fun x => x.n == s.ev.n && !x.registered) = some e →
    e.segs = [(.host bus, n)] → n ≤ 64 →
    let room := 64 - bus % 64
    (n ≤ room → s.ev.k = 0 → ∃ s', exec .hostWriteRefused s = .next s' ∧
      (∀ x ∈ (s'.tile t).sb, x.n = e.n → x.registered = true) ∧
      Turn.happen .registrationAck { tile := t, n := e.n } ∈ s'.agenda) ∧
    (room < n → s.ev.k < 2 → ∃ s' x, exec .hostWriteRefused s = .next s' ∧ x ∈ (s'.tile t).sb ∧ x.n = e.n ∧
      x.registered = false ∧
      if s.ev.k = 0 then x.segs = [(.host (bus + room), n - room)] ∧ x.data = e.data.drop room
      else x.segs = [(.host bus, room)] ∧ x.data = e.data.take room ++ e.data.drop n)) ∧
  (∀ (s : State) (t w : Nat), s.ev.tile = t → s.ev.k = w → (s.die (4 * w / 2 ^ 39)).owner.find w = some t →
    ∃ s', exec .ownedWordWriteback s = .next s' ∧ (s'.die (4 * w / 2 ^ 39)).owner.find w = none ∧
      (s'.tile t).l1.find w = none ∧ Quiet s s') ∧
  (∀ (s : State) (t off : Nat) (e : SideEnt), s.ev.tile = t → (s.tile t).side = [e] → (s.tile t).sb = [] → t < 2 ^ 19 →
    e.addr = tileSpace t off → e.settled = true → e.discard = false → e.kind = .store → e.data ≠ [] →
    InBank s t e.asid off e.data.length → NoWatch s (t / 256) e.asid →
    ∃ s', exec .sideLogReplay s = .next s' ∧ (s'.tile t).side = [] ∧
      s.SameBytesBut s' (Loc.spad t off).key e.data.length ∧
      Memory.readN s'.mem (Loc.spad t off).key e.data.length = e.data) ∧
  ∀ (s : State) (d : Nat) (e : Watch), s.ev.die = d → (s.die d).frisket.find s.ev.n = some e → e.budget ≠ 0 →
    e.armed = true → e.winClk + e.window ≤ s.clk →
    ∃ s' e', exec .budgetWindowRoll s = .next s' ∧ (s'.die d).frisket.find s.ev.n = some e' ∧ e'.created = 0 ∧
      e'.winClk = e.winClk + e.window ∧ e'.armed = true ∧ Quiet s s'

/-- R25, R152, R165, R174, R196: AnswerResults and StoreSteps. -/
def Obligations.MemorySystemResults : Prop := Claims.AnswerResults ∧ Claims.StoreSteps

namespace Sys2Proof.Claims
open Sys2Proof.Machine

/-- No entry of a list of TLB entries maps the address for the context. -/
def Unmapped (l : List TlbEnt) (a va : Nat) : Prop := ∀ e ∈ l, e.asid = a → va < e.va ∨ e.va + e.size ≤ va

end Sys2Proof.Claims

/-- R341, R349: a walk that finds no page asks the memory manager; one that ends in a leaf lets the tile strands that wait
for that page translate again. A decision of the memory manager leaves no translation of the page in a TLB of a die that
has the context, and no request for it waits. R343: a ranged invalidation leaves none on its die. R348: a tile's
dirty log is merged and empty.
The decision itself is an input (log entry 44). -/
def Sys2Proof.Claims.TranslationResults : Prop :=
  (∀ (s : State) (d a va : Nat), s.ev.die = d → s.ev.asid = a → s.ev.value.toNat = va →
    (s.fill d a va = .absent → ∃ s', exec .pageWalk s = .next s' ∧ (⟨a, nat va⟩ : MMReq) ∈ (s'.die d).mm ∧ Quiet s s') ∧
    ∀ s1 e t k st x, s.fill d a va = .entry s1 e → t / 256 = d → s.strand (.tile t k) = some st → st.asid = a →
      st.hold = some (.xlate x) → e.va ≤ x.toNat → x.toNat < e.va + e.size →
      ∃ s' st', exec .pageWalk s = .next s' ∧ s'.strand (.tile t k) = some st' ∧ st' = { st with hold := none } ∧
        s.SameBytes s') ∧
  (∀ (s : State) (x : MMDecision) (d t : Nat), s.ev.decision = some x → (∀ w ∈ x.writes, s.retiredLeaf w.2 = false) →
    d ∈ s.diesOf x.asid →
    ∃ s', exec .mmFaultDecision s = .next s' ∧ Unmapped (s'.die d).tlb x.asid x.va.toNat ∧
      (t / 256 = d → Unmapped (s'.tile t).tlb x.asid x.va.toNat) ∧
      ∀ q ∈ (s'.die d).mm, q.asid = x.asid → q.va ≠ x.va) ∧
  (∀ (s : State) (d t va : Nat), s.ev.die = d → s.ev.value.toNat ≤ va → va < s.ev.value.toNat + s.ev.n →
    ∃ s', exec .tlbRangedInvalidate s = .next s' ∧ Unmapped (s'.die d).tlb s.ev.asid va ∧
      (t / 256 = d → Unmapped (s'.tile t).tlb s.ev.asid va)) ∧
  ∀ (s : State) (t : Nat), s.ev.tile = t → ∃ s', exec .dirtyLogMerge s = .next s' ∧ (s'.tile t).dirty = []

/-- R352, R353: the memory manager sets the threshold of a die, and may clear its overflow bits and its missed count; it
takes the oldest migration notice, and with a plan on frames in service begins to copy
the page that the plan's entry maps; the first phase copies the page's bytes; the lines that changed meanwhile are copied again,
once at least and four times at most, and when few are left the leaf is switched; the release ends the migration, and waiting stores go to the new frame.
The plan itself is an input (log entry 44). -/
def Sys2Proof.Claims.PageMigrationResults : Prop :=
  (∀ (s : State) (d : Nat), s.ev.die = d → s.ev.flag = true → s.ev.n < 2 ^ 16 →
    ∃ s', exec .migrationNoticeTake s = .next s' ∧ (s'.die d).migThreshold = s.ev.n ∧
      (s.ev.k = 1 → (s'.die d).migOver = [] ∧ (s'.die d).migMissed = 0) ∧ (s'.die d).migQueue = (s.die d).migQueue ∧
      Quiet s s') ∧
  (∀ (s : State) (d : Nat) (n : MigNotice) (rest : List MigNotice), s.ev.die = d → s.ev.flag = false →
    (s.die d).migQueue = n :: rest →
    (s.ev.plan = none → ∃ s', exec .migrationNoticeTake s = .next s' ∧ (s'.die d).migQueue = rest ∧
      (s'.die d).migrations = (s.die d).migrations ∧ Quiet s s') ∧
    ∀ p, s.ev.plan = some p → s.retiredLeaf p.newLeaf = false →
      let old := nat (bytesAt s p.pteKey 8)
      ∃ s', exec .migrationNoticeTake s = .next s' ∧ (s'.die d).migQueue = rest ∧ Quiet s s' ∧
        (s'.die d).migrations = (s.die d).migrations ++ [⟨p, ptePa old, ptePa p.newLeaf, pageBytes (pteSize old), 0, [], .copy⟩] ∧
        Turn.happen .pageMigration { die := d, n := p.pteKey } ∈ s'.agenda) ∧
  ∀ (s : State) (d : Nat) (m : Migration), s.ev.die = d → (s.die d).migrations = [m] → m.plan.pteKey = s.ev.n →
    (m.phase = .copy → Memory.wf s.mem = true → (m.dst + m.size ≤ m.src ∨ m.src + m.size ≤ m.dst) →
      ∃ s', exec .pageMigration s = .next s' ∧ s.SameBytesBut s' m.dst m.size ∧
        (∀ j, j < m.size → Memory.read s'.mem (m.dst + j) = Memory.read s.mem (m.src + j)) ∧
        (s'.die d).migrations = [{ m with copied := m.size / 64, phase := .recopy 0 }]) ∧
    (∀ c, m.phase = .recopy c → c < 4 → (c = 0 ∨ 16 < m.dirty.length) →
      ∃ s', exec .pageMigration s = .next s' ∧ (s'.die d).migrations = [{ m with dirty := [], phase := .recopy (c + 1) }] ∧
        Timer.mk (s.clk + 1) .pageMigration s.ev ∈ s'.timers) ∧
    (∀ c, m.phase = .recopy c → c ≠ 0 → m.dirty = [] → (∀ t, (s.tile t).dirty = []) →
      ∃ s', exec .pageMigration s = .next s' ∧ bytesAt s' m.plan.pteKey 8 = m.plan.newLeaf.toNat ∧
        (s'.die d).migrations.map (·.phase) = [.switch] ∧
        Timer.mk (s.clk + 1) .migrationRelease { die := d, n := m.plan.pteKey } ∈ s'.timers) ∧
    (m.phase = .switch → ∃ s', exec .migrationRelease s = .next s' ∧ (s'.die d).migrations = [] ∧
      ∀ t n pa, (∀ e ∈ (s.tile t).sb, e.n = n → e.registered = false ∧ e.segs = [(.dev pa, e.data.length)]) →
        m.src ≤ pa → pa < m.src + m.size →
        ∀ e ∈ (s'.tile t).sb, e.n = n → e.segs = [(.dev (pa - m.src + m.dst), e.data.length)])

/-- R341, R349, R352, R353: TranslationResults and PageMigrationResults. -/
def Obligations.TranslationAndMigration : Prop := Claims.TranslationResults ∧ Claims.PageMigrationResults


/-! ## Debug and trace -/

/-- R307 to R310: an action that names a slot's generation, in a state that allows it, is performed: resume and step let the
strand run from its PC, halt and park stop it at its instruction, which it executes anew (a store's acquire apart; an access
at another tile or the host goes on), and park stops every strand of its block, which the host debugger's resume lets run
again; escalate posts the strand's packet with code 0x70 to core 3; kill takes every strand of the
block away, and kill-edition cancels the edition with kill. With another generation, or an empty slot, err of the slot is set
and no strand changes. A window write changes the bytes of the scratchpad, or a general register of a stopped strand; of a
running one it sets err.
That a stop abandons the held instruction, and that a parked block may be resumed, are the model's reading (log entries 46 and
52). -/
def Sys2Proof.Claims.DebugResults : Prop :=
  ∀ (s : State) (t k : Nat) (st : Strand), s.ev.tile = t → s.strand (.tile t k) = some st →
    (s.ev.slot = k → (s.tile t).gens.get 0 k = s.ev.gen →
      (st.run = .frozen ∨ st.run = .halted →
        exec .dbgResume s = .next (s.setStrand (.tile t k) { st with run := .running, stepping := false })) ∧
      (st.run = .halted → exec .dbgStep s = .next (s.setStrand (.tile t k) { st with run := .running, stepping := true })) ∧
      (let away := ∃ n, st.hold = some (.host n) ∨ st.hold = some (.remote n)
        let stops (i : Instr) (run : Run) : Prop := ∃ s' st', exec i s = .next s' ∧ s.SameBytes s' ∧
          s'.strand (.tile t k) = some st' ∧
          (away → st' = { st with run := run }) ∧ (st.hold = none → st' = { st with run := run }) ∧
          (st.hold ≠ none → ¬ away → st' = { st with run := run, hold := none, passed := none })
        (∀ n, st.hold ≠ some (.storeAcq n)) →
        (st.run = .running → stops .dbgHalt .halted) ∧
        (st.run = .frozen ∨ st.run = .halted → st.edition = none → stops .dbgPark .parked)) ∧
      (∀ i b, st.run = .parked → s.ev.flag = true → st.edition = some i → st.block = some b →
        ∃ s' st', exec .dbgResume s = .next s' ∧ s.SameBytes s' ∧ s'.strand (.tile t k) = some st' ∧ st'.run = .running ∧
          ∀ u j x, s'.strand (.tile u j) = some x → x.ofBlock st.asid i b = true → x.run ≠ .parked) ∧
      (∀ i b, st.edition = some i → st.block = some b → (st.run = .frozen ∨ st.run = .halted) →
        s.blockKilled st.asid i b = false →
        ∃ s' st', exec .dbgPark s = .next s' ∧ s.SameBytes s' ∧ s'.strand (.tile t k) = some st' ∧ st'.run = .parked ∧
          ∀ u j x, s'.strand (.tile u j) = some x → x.ofBlock st.asid i b = true → x.run = .parked) ∧
      (st.run = .frozen → ∃ s', exec .dbgEscalate s = .next s' ∧ Quiet s s' ∧
        ∃ a b : List W64, a.length = 8 ∧ b.length = 8 ∧ (∃ w, a.head? = some w ∧ w.toNat / 2 ^ 56 = 0x70) ∧
          (∀ p, st.pkt = some p → a ++ b = { p with code := 0x70 }.words) ∧
          ∀ w ∈ [a, b], Turn.happen .mailboxPost { pkg := t / 256 / 4, k := 8 + t / 256 % 4, words := w } ∈ s'.agenda) ∧
      (∀ i b x m, st.run ≠ .running → st.edition = some i → st.block = some b →
        (s.edition st.asid i).bind (fun e => e.dealt.find? (fun y => y.idx == b)) = some x →
        (s.tile x.tile).blockTeam st.asid i b = some m → m.killed = false →
        ∃ s', exec .dbgKillBlock s = .next s' ∧ s.SameBytes s' ∧
          (∀ u j y, s'.strand (.tile u j) = some y → y.ofBlock st.asid i b = false) ∧
          Turn.happen .blockComplete { tile := x.tile, asid := st.asid, ident := i, n := b } ∈ s'.agenda) ∧
      ∀ i e, st.run ≠ .running → st.edition = some i → s.edition st.asid i = some e → e.state = .running →
        ∃ s' e', exec .dbgKillEdition s = .next s' ∧ s'.edition st.asid i = some e' ∧ e'.state = .cancelling ∧
          e'.kill = true ∧ Quiet s s') ∧
    (s.ev.slot = k → (s.tile t).gens.get 0 k ≠ s.ev.gen →
      ∀ i ∈ [Instr.dbgResume, .dbgStep, .dbgHalt, .dbgPark, .dbgEscalate, .dbgKillBlock, .dbgKillEdition],
        ∃ s', exec i s = .next s' ∧ k ∈ (s'.tile t).errs ∧ Quiet s s') ∧
    (s.ev.flag = false → s.ev.n = 8 →
      (s.ev.k + 8 ≤ 0x180000 → s.frameTile t = false → NoWatch s (t / 256) (((s.team t).map (·.asid)).getD 0) →
        t < 2 ^ 19 →
        ∃ s', exec .debugWindowWrite s = .next s' ∧ s.SameBytesBut s' (Loc.spad t s.ev.k).key 8 ∧
          bytesAt s' (Loc.spad t s.ev.k).key 8 = s.ev.value.toNat) ∧
      ∀ j : Fin 16, s.ev.k = 0x800000 + 0x100 * k + 8 * j → k < 16 → (s.tile t).gated = false →
        (st.run ≠ .running → ∃ s' st', exec .debugWindowWrite s = .next s' ∧ s'.strand (.tile t k) = some st' ∧
          s.OnlyStrand s' (.tile t k) ∧ st.Writes st' (BitVec.ofFin j) s.ev.value ∧ st'.pc = st.pc ∧ st'.run = st.run) ∧
        (st.run = .running → ∃ s', exec .debugWindowWrite s = .next s' ∧ k ∈ (s'.tile t).errs ∧ Quiet s s'))

/-- R312: a write of the trace control doubleword changes its writable fields, and restarts the buffer; a trigger records an
entry of kind 7 at the write pointer, which advances, and freezes the buffer at once when post is 0, or after post more
entries; of a frozen buffer, or with tracing off, it changes nothing. -/
def Sys2Proof.Claims.TraceResults : Prop :=
  ∀ (s : State) (t : Nat), s.ev.tile = t →
    let x := (s.tile t).trace
    let c := x.ctl.toNat
    (s.ev.k % 8 = 0 → s.ev.n = 8 → ∃ s', exec .traceControlWrite s = .next s' ∧ Quiet s s' ∧ (s'.tile t).trace.left = none ∧
      (s'.tile t).trace.ctl = (s.ev.value &&& 0x80FF0FFF0FFF0000) ||| (x.ctl &&& ~~~0x80FF0FFF0FFF0000) ∧
      (s'.tile t).trace.buf = x.buf) ∧
    (c / 2 ^ 63 = 0 → c / 2 ^ 48 % 256 ≠ 0 → x.left = none →
      ∃ s', exec .traceTrigger s = .next s' ∧ Quiet s s' ∧
        let y := (s'.tile t).trace
        y.ctl.toNat % 4096 = (c % 4096 + 1) % 4096 ∧ ((y.buf.get 0 (c % 4096)).toNat / 2 ^ 125 = 7) ∧
        y.left = (if c / 2 ^ 32 % 4096 = 0 then none else some (c / 2 ^ 32 % 4096)) ∧
        y.ctl.toNat / 2 ^ 63 = if c / 2 ^ 32 % 4096 = 0 then 1 else 0) ∧
    (c / 2 ^ 63 = 1 ∨ c / 2 ^ 48 % 256 = 0 → exec .traceTrigger s = .next s)

/-- R307 to R310, R312: DebugResults and TraceResults. -/
def Obligations.DebugAndTrace : Prop := Claims.DebugResults ∧ Claims.TraceResults


/-! ## The host -/

namespace Sys2Proof.Claims
open Sys2Proof.Machine

/-- BAR0 of function f of a package answers and goes straight to the device (R365, R369, R376). -/
def Bar0Up (s : State) (p f : Nat) : Prop :=
  (s.pkg p).done 2 = true ∧ (s.pkg p).pstate ≠ 4 ∧ (s.pkg p).waking = false ∧ f < 256

end Sys2Proof.Claims

/-- R365 to R367, R371: a doorbell sets the tail of its queue, at most the ring's size ahead of its head, and the queue is
looked at. A ready queue gives its next command to the step of its opcode; its head moves on, and no other command is taken
until that one completes. Writes of evtail, of evsize, of evbase, and of the base of a queue that is not enabled set those
registers; even becomes the bit written once step 6 of the bring-up (R376) is done, and stays 0 before. R369: in P4 a doorbell
is latched, and the first starts the exit, 2 ms long; the replay gives each latched tail to its queue, one a turn, and ends
with the latch clear.
The core that takes a command (log entry 25), that a command waits for the one before it in its queue (log entry 30), and that
even stays 0 before step 6 and one latched write is replayed a turn (log entry 31), are the model's choice, no rule. -/
def Obligations.HostQueueResults : Prop :=
  ∀ (s : State) (p f q : Nat), s.ev.pkg = p → s.ev.n = f → s.ev.k = q →
    let c := (s.fn p f).queue q
    let v : W32 := s.ev.value.setWidth 32
    (s.ev.flag = false → q < 16 → s.ev.status = .ok → Bar0Up s p f → (v - c.head).toNat ≤ 2 ^ (4 + c.size) →
      ∃ s', exec .doorbell s = .next s' ∧ ((s'.fn p f).queue q) = { c with tail := v } ∧ Quiet s s' ∧
        Turn.happen .doorbell { pkg := p, n := f, k := q, flag := true } ∈ s'.agenda) ∧
    (∀ e w, s.ev.flag = true → (s.pkg p).ready f q = true → w = dwords (Memory.readN s.mem c.slot 64) →
      s.poisoned c.slot 64 = false → (w.getD 0 0).toNat.testBit 48 = false →
      (s.pkg p).coreLive (opCore ((w.getD 0 0).toNat / 2 ^ 56)) = true →
      (pfOnly ((w.getD 0 0).toNat / 2 ^ 56) = true → f = 0) → commandStep w = .ok e →
      ∃ s', exec .doorbell s = .next s' ∧ ((s'.fn p f).queue q) = { c with head := c.head + 1, blocked := true } ∧
        Quiet s s' ∧ Turn.happen e { pkg := p, n := f, k := q, words := w } ∈ s'.agenda) ∧
    (Bar0Up s p f →
      (∃ s', exec .evtailWrite s = .next s' ∧ (s'.fn p f).evtail = s.ev.value) ∧
      (∃ s', exec .eventRingEnable s = .next s' ∧ (s'.fn p f).even = (s.ev.value.getLsbD 4 && (s.pkg p).done 6) ∧
        (s'.fn p f).evsize = s.ev.value.toNat % 16) ∧
      (q = 0x08 → ∃ s', exec .bar0RegisterWrite s = .next s' ∧ (s'.fn p f).evbase = s.ev.value ∧ Quiet s s') ∧
      ∀ n, n < 16 → q = 0x1000 + 0x40 * n → ((s.fn p f).queue n).en = false →
        ∃ s', exec .bar0RegisterWrite s = .next s' ∧ ((s'.fn p f).queue n).base = s.ev.value ∧ Quiet s s') ∧
    (∀ n, n < 16 → q = 0x1010 + 0x40 * n → f < 256 → (s.pkg p).pstate = 4 →
      ∃ s', exec .doorbellLatch s = .next s' ∧ (16 * f + n, v) ∈ (s'.pkg p).tails ∧ (s'.pkg p).waking = true ∧ Quiet s s' ∧
        ((s.pkg p).waking = false →
          Timer.mk (s.clk + 3200000) .powerExitComplete { pkg := p, k := 4 } ∈ s'.timers)) ∧
    ((s.pkg p).waking = true → (s.pkg p).pstate ≠ 4 → (s.pkg p).coreLive 0 = true → (s.pkg p).writes = [] →
      (∀ key x rest, (s.pkg p).tails = (key, x) :: rest →
        let y := (s.fn p (key / 16)).queue (key % 16)
        (x - y.head).toNat ≤ 2 ^ (4 + y.size) →
        ∃ s', exec .latchReplay s = .next s' ∧ (s'.pkg p).tails = rest ∧
          ((s'.fn p (key / 16)).queue (key % 16)) = { y with tail := x } ∧
          Turn.happen .latchReplay { pkg := p } ∈ s'.agenda) ∧
      ((s.pkg p).tails = [] → ∃ s', exec .latchReplay s = .next s' ∧ (s'.pkg p).waking = false ∧
        (s'.pkg p).discards = 0))

namespace Sys2Proof.Claims
open Sys2Proof.Machine

/-- The step of a host command c (R366, R367): its eight doublewords are given, its common fields are well formed, and its
function owns its ASID; the core that completes it is live and its function's event ring takes the entry. -/
def CmdGiven (s : State) (c : Cmd) : Prop :=
  s.ev.pkg = c.p ∧ s.ev.n = c.f ∧ s.ev.k = c.q ∧ c.p < 512 ∧ c.f < 256 ∧ c.q < 16 ∧ s.ev.words = c.w ∧
  c.w.length = 8 ∧ s.ev.status = .ok ∧
  (s.fn c.p c.f).room = true ∧ (s.fn c.p c.f).lostSince = 0 ∧ (s.fn c.p c.f).heldDone = [] ∧
  (s.pkg c.p).coreLive (opCore c.op) = true

/-- It is complete with a status and a result (R367, R370): the next entry of the event ring is its completion, and its queue
goes on. -/
def Completed (s s' : State) (c : Cmd) (status result : Nat) : Prop :=
  let x := s.fn c.p c.f
  let pa := 2 ^ 64 + (x.evbase.toNat + 32 * (x.evhead.toNat % x.ringSize)) % 2 ^ 64
  (s'.fn c.p c.f).evhead = x.evhead + 1 ∧ ((s'.fn c.p c.f).queue c.q).blocked = false ∧
  bytesAt s' (pa + 7) 1 = 1 ∧ bytesAt s' (pa + 6) 1 = c.q % 256 ∧ bytesAt s' (pa + 4) 2 = c.tag ∧
  bytesAt s' (pa + 3) 1 = status ∧ bytesAt s' (pa + 16) 8 = result

/-- Its effect takes place and it completes with status 0, or its signature fails (R372) and it completes with that status. -/
def CmdDoes (s : State) (i : Instr) (c : Cmd) (status result : Nat) (post : State → Prop) : Prop :=
  ∃ s', exec i s = .next s' ∧ match s.signature c with
    | some n => Completed s s' c n 0
    | none => Completed s s' c status result ∧ post s'

/-- The command passes the checks of every command (R366). -/
def CmdOk (s : State) (c : Cmd) : Prop := CmdGiven s c ∧ c.headOk = true ∧ s.ownsAsid c.p c.f c.asid = true

end Sys2Proof.Claims

/-- R366, R367, R372: a command with reserved bits in its common fields completes with status 2, and a command, well formed
in what every row shares, that fails no check but the ownership of its ASID with status 3; neither changes anything else a
program sees. (Stated for platetag and yield, whose other operands are then within range.) R323, R329: platetag sets the tile's tag for the
context, and yield the yield request of the tile's team. R366: tensor writes an entry of the context's table; context records
the function that owns the ASID. R345, R346: release untags the frames of its range, and no other; sealed copies host bytes
into sealed frames. R368: active sends a handler to the home of its data address, with its PC and registers, and completes
later. R317: frame is submitted in attested state with a key, and completes with status 5 in another.
The order of the checks and the status of each are the model's choice (log entry 27). -/
def Obligations.ContextCommands : Prop :=
  ∀ (s : State) (c : Cmd),
    (CmdGiven s c → c.headOk = false → ∀ i ∈ [Instr.cmdPlatetag, .cmdYield, .cmdTensor, .cmdContext, .cmdRelease, .cmdSealed,
        .cmdFrame, .cmdActive, .cmdAttest, .cmdResetcore, .repairTileRow, .repairMacro, .powerP0, .secureZeroKey],
      ∃ s', exec i s = .next s' ∧ Completed s s' c 2 0 ∧ ∀ r, s'.strand r = s.strand r) ∧
    (CmdGiven s c → c.headOk = true → s.ownsAsid c.p c.f c.asid = false → c.dw 1 < 2 ^ 19 →
      (c.dw 2 < 2 ^ 16 → c.zeroFrom 3 = true → ∃ s', exec .cmdPlatetag s = .next s' ∧ Completed s s' c 3 0) ∧
      (c.zeroFrom 2 = true → ∃ s', exec .cmdYield s = .next s' ∧ Completed s s' c 3 0)) ∧
    (CmdOk s c →
      (c.dw 1 < 2 ^ 19 → c.dw 2 < 2 ^ 16 → c.zeroFrom 3 = true → CmdDoes s .cmdPlatetag c 0 0 (fun s' =>
        (s'.tile (c.dw 1)).tags.get 0 c.asid = c.dw 2 ∧ Turn.happen .blockDeal { die := c.dw 1 / 256 } ∈ s'.agenda)) ∧
      (∀ m, c.dw 1 < 2 ^ 19 → c.zeroFrom 2 = true → s.team (c.dw 1) = some m → m.yreq = false →
        CmdDoes s .cmdYield c 0 0 (fun s' => s'.team (c.dw 1) = some { m with yreq := true, yreqAt := s.clk })) ∧
      (∀ bs, let x := s.ctx (s.edgeDie c.p c.asid) c.asid
        let pa := x.ttbase + 64 * c.dw 1
        c.dw 1 < 2 ^ 16 → c.zeroFrom 3 = true → s.hostPoisoned (c.dw 2) 64 = false → bs = s.hostBytes (c.dw 2) 64 →
        x.valid = true → c.dw 1 < x.ttlen → tensorReserved bs = true →
        ((dwordAt bs 0x28).testBit 63 = true → field (dwordAt bs 0x28) 51 40 = c.asid) → pa + 64 ≤ 2 ^ 50 →
        (s.die (pa / 2 ^ 39)).frisket = [] →
        CmdDoes s .cmdTensor c 0 0 (fun s' => Memory.readN s'.mem pa 64 = bs)) ∧
      (c.dw 3 < 256 → c.zeroFrom 4 = true → s.hostPoisoned (c.dw 1) 128 = false → s.hostPoisoned (c.dw 2) 128 = false →
        ctxReserved (s.hostBytes (c.dw 1) 128) = true → CmdDoes s .cmdContext c 0 0 (fun s' =>
          (s'.pkg c.p).owners.get 0 c.asid = c.dw 3)) ∧
      (c.dw 1 % 4096 = 0 → c.dw 2 % 4096 = 0 → c.dw 1 + c.dw 2 ≤ 2 ^ 50 → c.zeroFrom 3 = true →
        CmdDoes s .cmdRelease c 0 0 (fun s' => ∀ d k, (s'.die d).frames.find k =
          if c.dw 1 ≤ k * 4096 ∧ k * 4096 < c.dw 1 + c.dw 2 then none else (s.die d).frames.find k)) ∧
      (c.dw 3 % 64 = 0 → c.dw 1 + c.dw 3 ≤ 2 ^ 50 → c.zeroFrom 4 = true →
        s.allSealed (c.dw 1) (c.dw 3) = true → s.hostPoisoned (c.dw 2) (c.dw 3) = false → (∀ d, (s.die d).frisket = []) →
        CmdDoes s .cmdSealed c 0 0 (fun s' => ∀ j, j < c.dw 3 →
          Memory.read s'.mem (c.dw 1 + j) = Memory.read s.mem (2 ^ 64 + c.dw 2 + j))) ∧
      (∀ t, c.dw 1 % 4 = 0 → c.dw 7 < 4 → s.signature c = none →
        (∃ off, off < 0x180000 ∧ c.w.getD 2 0 = tileSpace t off) → t < 2 ^ 19 →
        s.inPartition (s.edgeDie c.p c.asid) c.asid t = true →
        ∃ s' x, exec .cmdActive s = .next s' ∧ s'.actives = s.actives ++ [x] ∧ x.tile = t ∧ x.tag = c.tag ∧ x.fn = c.f ∧
          x.strand.kind = .handler ∧ x.strand.asid = c.asid ∧ x.strand.pc = c.w.getD 1 0 ∧
          (∀ j : Fin 5, x.strand.rd (BitVec.ofNat 4 (1 + j)) = c.w.getD (2 + j) 0) ∧ x.strand.rd 6 = nat c.tag ∧
          x.strand.rd 7 = nat c.f ∧ Quiet s s' ∧ Turn.happen .activeMessageDelivery { n := x.n } ∈ s'.agenda) ∧
      (c.zeroFrom 2 = true → s.hostPoisoned (c.dw 1) 64 = false →
        let bs := s.hostBytes (c.dw 1) 64
        s.ownsAsid c.p c.f (parseFrame bs).asid = true →
        ((s.pkg c.p).sec ≠ 2 → CmdDoes s .cmdFrame c 5 0 (fun s' => (s'.pkg c.p).marker = (s.pkg c.p).marker)) ∧
        ((s.pkg c.p).sec = 2 → (s.pkg c.p).key ≠ none → CmdDoes s .cmdFrame c 0 0 (fun s' =>
          (s'.pkg c.p).marker = (s.pkg c.p).marker ++ [⟨c.f, c.q, c.tag, bs, true⟩] ∧
          Turn.happen .frameMark { pkg := c.p } ∈ s'.agenda))))

/-- R372: attest writes its report to the host address and completes with its size. R375: resetcore of a verified image puts
the core into place; an image that does not verify completes with status 4, one for another core or below the least version
with 2, and leaves the core. R313, R314, R317: the secure requests set the debug level, load and zero the key; a key load at
full debug level is refused with status 5. R317, R318: the marker takes the oldest submission; without a key it does not
count one, nor one submitted before the key was zeroed; with one, a well-formed frame in readable frame-class device memory is
counted, and the manifest begins with its number.
The statuses 2 and 4, the states that a key load and a zeroing lead to, and the marker without a key are
the model's choice (log entries 27 to 29 and 33); the report's layout is free (log entry 22). The 89 bytes of a key load, 32 of
the marking secret and then 57 of the private key, are taken from outside the spec (log entry 26, PRESUMED). -/
def Obligations.SecureCommands : Prop :=
  (∀ (s : State) (c : Cmd), CmdOk s c →
    (c.zeroFrom 3 = true → s.hostPoisoned (c.dw 1) 64 = false →
      let r := Config.attestReport (s.hostBytes (c.dw 1) 64) (s.pkg c.p).nonce
        (((List.range 8).map (fun i => ((s.pkg c.p).core i).image)).filter (fun bs => !bs.isEmpty) |>.map imageDigest)
        (s.pkg c.p).secstate ((s.pkg c.p).key.map (fun k => ed448Public k.2))
      CmdDoes s .cmdAttest c 0 (r.length % 2 ^ 64) (fun s' => ∀ a, a < 2 ^ 64 → Memory.read s'.mem a = Memory.read s.mem a)) ∧
    (∀ bs, c.dw 1 < 8 → c.zeroFrom 3 = true → s.coreImage c.p (c.dw 1) (c.dw 2) = some bs →
      let status := if imageSigned bs = false then 4 else if imageFits (c.dw 1) bs = false then 2 else 0
      CmdDoes s .cmdResetcore c status 0 (fun s' =>
        if status = 0 then ((s'.pkg c.p).core (c.dw 1)).running = true ∧ ((s'.pkg c.p).core (c.dw 1)).image = bs
        else (s'.pkg c.p).core (c.dw 1) = (s.pkg c.p).core (c.dw 1))) ∧
    (c.dw 1 < 16 → c.zeroFrom 3 = true →
      (c.dw 2 ≤ 2 → CmdDoes s .secureSetDebugLevel c 0 0 (fun s' => ((s'.pkg c.p).debug).toNat = c.dw 2 ∧
        (c.dw 2 = 2 → (s'.pkg c.p).key = none ∧ (s'.pkg c.p).sec ≠ 2))) ∧
      CmdDoes s .secureZeroKey c 0 0 (fun s' => (s'.pkg c.p).key = none ∧ (s'.pkg c.p).sec ≠ 2) ∧
      ((s.pkg c.p).debug = 2 → CmdDoes s .secureLoadKey c 5 0 (fun s' => (s'.pkg c.p).key = (s.pkg c.p).key)) ∧
      ((s.pkg c.p).debug ≠ 2 → s.hostPoisoned (c.dw 2) 89 = false → CmdDoes s .secureLoadKey c 0 0 (fun s' =>
        (s'.pkg c.p).key = some ((s.hostBytes (c.dw 2) 89).take 32, (s.hostBytes (c.dw 2) 89).drop 32) ∧
        (s'.pkg c.p).frames = 0 ∧ (s'.pkg c.p).sec = 2)))) ∧
  ∀ (s : State) (p : Nat) (x : Submission) (rest : List Submission), s.ev.pkg = p → (s.pkg p).marker = x :: rest →
    ((s.pkg p).key = none ∨ x.live = false → ∃ s', exec .frameMark s = .next s' ∧ (s'.pkg p).marker = rest ∧
      (s'.pkg p).frames = (s.pkg p).frames) ∧
    ∀ km priv l, (s.pkg p).key = some (km, priv) → x.live = true → frameOk x.desc = true →
      let y := parseFrame x.desc
      s.frameRuns (s.edgeDie p y.asid) y.asid (y.len / 4096 + 2) y.src y.len = some l →
      (∀ e ∈ l, s.frameClass [e] = true) → s.segsPoisoned l = false →
      ∃ s', exec .frameMark s = .next s' ∧ (s'.pkg p).marker = rest ∧ (s'.pkg p).frames = (s.pkg p).frames + 1 ∧
        bytesAt s' (2 ^ 64 + y.mdst) 8 = (s.pkg p).frames.toNat ∧ bytesAt s' (2 ^ 64 + y.mdst + 8) 8 = y.len


/-! ## Repair, power, firmware, links -/

/-- R378, R360: a repair whose parts hold no grant or are not in use is done: the row is on its spare, with chases unset and
scratchpads zero; the macro's chase is unset and a spare is used; the channel, and the frame, are retired; the port is up on one
lane; the bypassed package is handled as lost. R379, R315: power commands: P0 ends the states of the named dies, 64 clk a gated
tile or 400 µs; P2 gates tiles of one die; P3 switches dies off; P4 the package. When the exit ends, the die's or package's
state is P0 again.
What a repair takes with it, the packing of its operands, and what a power state loses are the model's choice
(log entries 34 and 35). -/
def Obligations.RepairPowerCommands : Prop :=
  (∀ (s : State) (c : Cmd), CmdOk s c →
    (c.dw 1 = 1 → c.dw 2 < 4 → c.dw 3 < 16 → c.zeroFrom 4 = true →
      let row (i : Nat) : Nat := 256 * (4 * c.p + c.dw 2) + 16 * c.dw 3 + i
      (∀ i, i < 16 → s.ungranted (row i) = true) → (s.pkg c.p).rowSpared.contains (c.dw 2) = false →
      CmdDoes s .repairTileRow c 0 0 (fun s' => c.dw 2 ∈ (s'.pkg c.p).rowSpared ∧ ∀ i, i < 16 →
        (s'.tile (row i)).chases = [] ∧ ∀ off, off < 0x180000 → Memory.read s'.mem ((Loc.spad (row i) 0).key + off) = 0)) ∧
    (∀ t n m, c.dw 1 = 2 → c.dw 2 = t → t < 2 ^ 19 → c.dw 3 = 256 * n + m → n < 32 → m < 64 → c.zeroFrom 4 = true →
      (s.chase t n).state ≠ .set → (s.tile t).spares.length < 32 →
      CmdDoes s .repairMacro c 0 0 (fun s' => s'.chase t n = Chase.reset ∧
        (s'.tile t).spares = (s.tile t).spares ++ [(n, m)])) ∧
    (c.dw 1 = 3 → c.dw 2 < 4 → c.zeroFrom 4 = true →
      (∀ e ∈ (s.die (4 * c.p + c.dw 2)).frames, Config.channelOf e.1 ≠ c.dw 3) →
      CmdDoes s .repairLp6Channel c 0 0 (fun s' => c.dw 2 * 2 ^ 32 + c.dw 3 ∈ (s'.pkg c.p).channels)) ∧
    (c.dw 1 = 4 → c.dw 2 < 144 → c.zeroFrom 3 = true → ((s.pkg c.p).port (c.dw 2)).up = false →
      CmdDoes s .repairLane c 0 0 (fun s' => ((s'.pkg c.p).port (c.dw 2)).up = true ∧
        ((s'.pkg c.p).port (c.dw 2)).lanes = 1)) ∧
    (c.dw 1 = 5 → c.dw 2 < 512 → c.zeroFrom 3 = true → (∀ i, i < 1024 → s.ungranted (1024 * c.dw 2 + i) = true) →
      CmdDoes s .repairPackageBypass c 0 0 (fun s' => (s'.pkg (c.dw 2)).bypassed = true ∧
        Turn.happen .packageReset { pkg := c.dw 2, flag := true } ∈ s'.agenda)) ∧
    (c.dw 1 = 6 → c.dw 2 % 4096 = 0 → c.dw 2 < 2 ^ 50 → c.zeroFrom 3 = true →
      (s.die (c.dw 2 / 2 ^ 39)).frames.find (c.dw 2 / 4096) = none →
      CmdDoes s .repairFrameRetire c 0 0 (fun s' => c.dw 2 / 4096 ∈ (s'.pkg (c.dw 2 / 2 ^ 41)).retired)) ∧
    (∀ j, j < 4 → c.dw 1 = 0 → c.dw 2 = 2 ^ j → c.zeroFrom 3 = true → CmdDoes s .powerP0 c 0 0 (fun s' =>
      ((s.die (4 * c.p + j)).pstate = 3 →
        Timer.mk (s.clk + 640000) .powerExitComplete { pkg := c.p, die := 4 * c.p + j, k := 3 } ∈ s'.timers) ∧
      ((s.die (4 * c.p + j)).pstate = 2 →
        Timer.mk (s.clk + 64 * (s.tiles.filter (fun (e : Nat × Tile) => e.1 / 256 == 4 * c.p + j && e.2.gated)).length)
          .powerExitComplete { pkg := c.p, die := 4 * c.p + j, k := 2 } ∈ s'.timers))) ∧
    (∀ j, j < 4 → c.dw 1 = 2 → c.dw 2 = 2 ^ j → (∀ t, t < 256 → s.ungranted (256 * (4 * c.p + j) + t) = true) →
      (s.die (4 * c.p + j)).pstate.toNat < 3 → CmdDoes s .powerP2 c 0 0 (fun s' => (s'.die (4 * c.p + j)).pstate = 2 ∧
        ∀ t, t < 256 → (c.dw (3 + t / 64)).testBit (t % 64) = true → (s'.tile (256 * (4 * c.p + j) + t)).gated = true)) ∧
    (∀ j, j < 4 → c.dw 1 = 3 → c.dw 2 = 2 ^ j → c.zeroFrom 3 = true → s.dieUngranted (4 * c.p + j) = true →
      CmdDoes s .powerP3 c 0 0 (fun s' => (s'.die (4 * c.p + j)).pstate = 3 ∧
        ∀ t off, t / 256 = 4 * c.p + j → off < 0x180000 → Memory.read s'.mem ((Loc.spad t 0).key + off) = 0)) ∧
    (c.dw 1 = 4 → c.dw 2 < 16 → c.zeroFrom 3 = true → (∀ j, j < 4 → s.dieUngranted (4 * c.p + j) = true) →
      (s.pkg c.p).waitingCommands = false → CmdDoes s .powerP4 c 0 0 (fun s' => (s'.pkg c.p).pstate = 4 ∧
        (s'.pkg c.p).sec ≠ 2 ∧ ∀ j, j < 4 → (s'.die (4 * c.p + j)).pstate = 4))) ∧
  ∀ (s : State) (p d : Nat), s.ev.pkg = p → s.ev.die = d →
    (s.ev.k = 2 → (s.die d).pstate = 2 → ∃ s', exec .powerExitComplete s = .next s' ∧ (s'.die d).pstate = 0 ∧
      ∀ t, t / 256 = d → (s'.tile t).gated = false) ∧
    (s.ev.k = 3 → (s.die d).pstate = 3 → ∃ s', exec .powerExitComplete s = .next s' ∧ (s'.die d).pstate = 0) ∧
    (s.ev.k = 4 → (s.pkg p).pstate = 4 → ∃ s', exec .powerExitComplete s = .next s' ∧ (s'.pkg p).pstate = 0 ∧
      Turn.happen .latchReplay { pkg := p } ∈ s'.agenda)

/-- R372, R373, R375, R376: an entry posted to a mailbox with room, of a core or of a die supervisor to core 3, stands in it as 64
bytes, and core 3 takes an escalation with an event for the host; an event for a die ends the HALTs of its
supervisor. A core that fails stops, and core 7, when it is live, stands by for none and takes over none, begins to take
over; once live it plays the failed core's part, and the held completions are written. The first bring-up step zeroes the scratchpads
of the package; a step that fails stops the sequence.
That a take-over takes some clk, how entries are filled and reported, and what a failed bring-up step leaves, are the model's choice
(log entries 24, 32 and 33). -/
def Obligations.FirmwareResults : Prop :=
  ∀ (s : State) (p k : Nat), s.ev.pkg = p → s.ev.k = k →
    (s.ev.toDie = none → s.ev.flag = false → k < 12 → (s.mailbox p k).length < 16 →
      ∃ s', exec .mailboxPost s = .next s' ∧ Quiet s s' ∧
        s'.mailbox p k = s.mailbox p k ++ [(s.ev.words ++ List.replicate 8 0).take 8]) ∧
    (s.ev.toDie = none → s.ev.flag = true → (s.pkg p).coreLive 3 = true → k = 3 ∨ (8 ≤ k ∧ k < 12) →
      ∀ w rest, s.mailbox p k = w :: rest → (w.getD 0 0).toNat / 2 ^ 56 = 0x70 → w.getD 4 0 = 0 →
        (s.fn p 0).room = true → (s.fn p 0).lostSince = 0 →
        ∃ s', exec .mailboxPost s = .next s' ∧ s'.mailbox p k = rest ∧ (s'.fn p 0).evhead = (s.fn p 0).evhead + 1) ∧
    (∀ d j st, s.ev.toDie = some d → (s.die d).sups = [(j, st)] → st.hold = some .halt →
      ∃ s' st', exec .mailboxPost s = .next s' ∧ s'.strand (.sup d j) = some st' ∧ Retired st st' ∧ s.SameBytes s') ∧
    (((s.pkg p).core k).running = true → k ≠ 7 → ((s.pkg p).core 7).running = true → (s.pkg p).role = none →
      (s.pkg p).takeover = none →
      ∃ s', exec .coreFailure s = .next s' ∧ ((s'.pkg p).core k).running = false ∧
        (s'.pkg p).takeover = some (k, s.podTime) ∧ Quiet s s' ∧
        ∃ x ∈ s'.timers, x.ev = .takeoverLive ∧ x.arg = { pkg := p } ∧ s.clk < x.due) ∧
    (∀ c time, (s.pkg p).takeover = some (c, time) → ((s.pkg p).core 7).running = true → ((s.pkg p).core c).running = false →
      ∃ s', exec .takeoverLive s = .next s' ∧ (s'.pkg p).takeover = none ∧ (s'.pkg p).role = some c ∧
        (s'.pkg p).coreLive c = true ∧ (s'.pkg p).heldDone = []) ∧
    ((s.pkg p).failed = false → (s.pkg p).step = 0 → s.ev.flag = false →
      ∃ s', exec .bringUp s = .next s' ∧ (s'.pkg p).step = 1 ∧ (s'.pkg p).failed = false ∧
        (∀ t off, t / 1024 = p → off < 0x180000 → Memory.read s'.mem ((Loc.spad t 0).key + off) = 0) ∧
        ∀ t, t / 1024 = p → s'.team t = none) ∧
    ((s.pkg p).failed = false → (s.pkg p).step < 6 → s.ev.flag = true →
      ∃ s', exec .bringUp s = .next s' ∧ (s'.pkg p).step = (s.pkg p).step + 1 ∧ (s'.pkg p).failed = true ∧ Quiet s s')

/-- R377: a good flit with the number that a port expects is received, acknowledged and its successor expected; one that was
received before is acknowledged again, and any other leaves the port. An acknowledgement takes flits out of the sender's buffer; what is not acknowledged is resent,
which counts as a replay. A lane that fails training takes its port down. R380: core 4's
sensors are read; at 105 % of the current limit, and at 110 °C, the trip acts and the die is reset. R356, R320, R354: a die that resets has no team
and no strand on its tiles, its scratchpads are zero, and it refuses accesses until the reset ends; a package that is reset is as
before bring-up.
What a reset loses, when a flit or an acknowledgement arrives and how the sensors' limits are read, are the model's choice (log
entries 36 and 37). -/
def Obligations.LinkResetResults : Prop :=
  ∀ (s : State) (p k d : Nat), s.ev.pkg = p → s.ev.k = k → s.ev.die = d →
    let x := (s.pkg p).port k
    (∀ f, x.up = true → s.ev.flag = false → s.ev.flit = some f →
      let ack : EvArg := { pkg := x.peer, k := Config.peerPort (144 * p + k), flag := true, n := f.seq }
      (f.good = true → f.seq = x.expect → ∃ s' y, exec .flitReceive s = .next s' ∧
        ((s'.pkg p).port k).expect = x.expect + 1 ∧ ((s'.pkg p).port k).received = x.received ++ [y] ∧
        y.payload = f.payload ∧ y.seq = f.seq ∧ Turn.happen .flitReceive ack ∈ s'.agenda) ∧
      (f.good = true → f.seq < x.expect → exec .flitReceive s = .next (s.post .flitReceive ack)) ∧
      (f.good = false ∨ x.expect < f.seq → exec .flitReceive s = .next s)) ∧
    (x.up = true → s.ev.flag = true → ∃ s', exec .flitReceive s = .next s' ∧ Quiet s s' ∧
      ((s'.pkg p).port k).buffer = x.buffer.filter (fun f => decide (s.ev.n < f.seq))) ∧
    (x.up = true → x.buffer ≠ [] → s.ev.flit = none → x.replays < 15 →
      ∃ s', exec .flitReplay s = .next s' ∧ ((s'.pkg p).port k).replays = x.replays + 1 ∧
        ((s'.pkg p).port k).total = x.total + 1 ∧ ((s'.pkg p).port k).buffer = x.buffer ∧ Quiet s s' ∧
        ∀ f ∈ x.buffer, Turn.happen .flitReceive { pkg := x.peer, k := Config.peerPort (144 * p + k), flit := some f } ∈ s'.agenda) ∧
    (x.up = true → s.ev.flag = false → ∃ s', exec .laneTrainFail s = .next s' ∧ ((s'.pkg p).port k).up = false) ∧
    (s.ev.flag = true → ∃ s', exec .powerReport s = .next s' ∧ (s'.pkg p).watts = k ∧ (s'.pkg p).amps = s.ev.n ∧
      (s'.pkg p).celsius = s.ev.slot ∧ Quiet s s' ∧ (5250 ≤ s.ev.n → Turn.happen .currentTrip { die := d } ∈ s'.agenda) ∧
      (110 ≤ s.ev.slot → Turn.happen .thermalTrip { die := d } ∈ s'.agenda)) ∧
    (5250 ≤ (s.pkg (d / 4)).amps →
      ∃ s', exec .currentTrip s = .next s' ∧ Turn.happen .dieReset { die := d } ∈ s'.agenda ∧ Quiet s s') ∧
    (110 ≤ (s.pkg (d / 4)).celsius →
      ∃ s', exec .thermalTrip s = .next s' ∧ Turn.happen .dieReset { die := d } ∈ s'.agenda ∧ Quiet s s') ∧
    (s.ev.flag = false → (s.die d).resetting = false → d < 2048 →
      ∃ s', exec .dieReset s = .next s' ∧ (s'.die d).resetting = true ∧
        (∀ t, t / 256 = d → s'.team t = none ∧ ∀ j, s'.strand (.tile t j) = none) ∧
        ∀ t off, t / 256 = d → off < 0x180000 → Memory.read s'.mem ((Loc.spad t 0).key + off) = 0) ∧
    (s.ev.flag = true → ∃ s', exec .dieReset s = .next s' ∧ (s'.die d).resetting = false ∧ Quiet s s') ∧
    (s.ev.flag = false → ∃ s', exec .packageReset s = .next s' ∧ (s'.pkg p).step = 0 ∧ (s'.pkg p).sec = 0 ∧
      (s'.pkg p).key = none ∧ ∀ t, t / 1024 = p → s'.team t = none ∧ (s'.die (t / 256)).resetting = true)


/-! ## The machine as a whole -/

/-- R126, R108, R140, R55: a strand whose turn it is, that can issue and whose fetched word or IMX pair decodes to the
instruction i with its operands written, executes i in that step: in the state that the fetch left, with this strand as the
current one and the word and its address noted in it. For a tile strand the word is the four bytes at its PC, through a
readable-to-fetch page of its TLB, and the next four after an IMX (here with no write to them noted, so that the read-only
path holds one value, R92). A turn of another agent is that step with its operands.
The agenda of turns is the model's own (log entry 1). -/
def Obligations.StepRunsDecoded : Prop :=
  (∀ (s s0 s1 : State) (r : Ref) (st : Strand) (i : Instr) (f : Fetch),
    (s.agenda = .issue r :: s0.agenda ∧ s0 = { s with agenda := s0.agenda } ∨
      s.agenda = [] ∧ s0 = s ∧ s.nextIssuer = some r) →
    s0.strand r = some st → s0.canIssue r st = true → s0.fetchAt r st = .instr s1 i f → s1.operandsAt r st i ≤ s1.clk →
    let s2 := (s1.begin r st f).noteIssue r i
    step s = exec i s2 ∧ decodeWords f.word f.word2 = .ok i ∧ s1.SameBytes s2 ∧
    ∃ st', s2.At r st' ∧ st'.fetch = f ∧ st'.SameRegs st ∧ st'.asid = st.asid ∧ st'.kind = st.kind) ∧
  (∀ (s : State) (t k : Nat) (st : Strand) (e : TlbEnt) (i : Instr) (pa : Nat),
    let u := st.pc.toNat
    u % 4 = 0 → u + 8 ≤ 2 ^ 56 → tlbFind (s.tile t).tlb st.asid u = some e → tlbFind (s.tile t).tlb st.asid (u + 4) = some e →
    pteX e.leaf = true → pteHost e.leaf = false → pa = ptePa e.leaf + (u - e.va) →
    s.poisoned pa 4 = false → s.poisoned (pa + 4) 4 = false → s.migrating [(.dev pa, 4)] = false →
    s.migrating [(.dev (pa + 4), 4)] = false →
    (∀ h ∈ s.hist, h.key + h.old.length ≤ pa ∨ pa + 8 ≤ h.key) →
    let w : W32 := BitVec.ofNat 32 (bytesAt s pa 4)
    let w2 : W32 := BitVec.ofNat 32 (bytesAt s (pa + 4) 4)
    (isImx w = false → decodeWords w 0 = .ok i →
      s.fetchAt (.tile t k) st = .instr s i ⟨st.pc, st.pc, w, 0⟩) ∧
    (isImx w = true → decodeWords w w2 = .ok i →
      s.fetchAt (.tile t k) st = .instr s i ⟨st.pc, st.pc + 4, w, w2⟩)) ∧
  ∀ (s : State) (e : Instr) (x : EvArg) (rest : List Turn), s.agenda = .happen e x :: rest → e.isEvent = true →
    step s = exec e { s with agenda := rest, ev := x }

/-- R103, R107, R108, R112 to R122: words written out field by field from the tables decode to the instructions they stand
for: one of each format, an immediate widened by an IMX, and the refusals of R123 with their causes. -/
def Obligations.DecodeWords : Prop :=
  decodeWords (0x01#6 ++ 5#4 ++ 4#4 ++ 3#4 ++ 0#10 ++ 0#4) 0 = .ok (.add 5 4 3) ∧
  decodeWords (0x04#6 ++ 1#4 ++ 2#4 ++ 0x3FFFF#18) 0 = .ok (.addi 1 2 (-1)) ∧
  decodeWords (0x26#6 ++ 7#4 ++ 6#4 ++ 1#2 ++ 0xFFF8#16) 0 = .ok (.ldd 7 6 .acquire (-8)) ∧
  decodeWords (0x2C#6 ++ 1#4 ++ 2#4 ++ 3#4 ++ 4#4 ++ 3#2 ++ 9#4 ++ 3#2 ++ 0#2) 0 = .ok (.acas 1 2 3 4 .acqRel .d) ∧
  decodeWords (0x10#6 ++ 1#4 ++ 2#4 ++ 4#18) 0 = .ok (.beq 1 2 4) ∧
  decodeWords (0x18#6 ++ 15#4 ++ 0x3FFFFF#22) 0 = .ok (.jal 15 (-1)) ∧
  decodeWords (0x3B#6 ++ 1#5 ++ 2#5 ++ 3#5 ++ 4#3 ++ 2#3 ++ 0#5) 0 = .ok (.vadd 1 2 3 4 .w) ∧
  decodeWords (0x39#6 ++ 3#3 ++ 0x81#8 ++ 1#4 ++ 2#4 ++ 3#4 ++ 2#3) 0 = .ok (.fmm 3 0x81 1 2 3) ∧
  decodeWords (0x3F#6 ++ 2#4 ++ 0xFF#22) 0 = .ok (.wait 0xFF) ∧
  decodeWords 0xD8C00104 0 = .ok (.srdSysFhead 3) ∧ decodeWords 0xDC100105 0 = .ok (.swrSysFtail 4) ∧
  decodeWords (0x3F#6 ++ 1#4 ++ 1#22) (0x0C#6 ++ 2#4 ++ 0#4 ++ 0#18) = .ok (.li 2 0x40000) ∧
  decodeWords 0 0 = .error .zeroWord ∧ decodeWords (0x3E#6 ++ 0#26) 0 = .error .unassigned ∧
  decodeWords (0x01#6 ++ 5#4 ++ 4#4 ++ 3#4 ++ 0#10 ++ 1#4) 0 = .error .reservedField ∧
  decodeWords (0x3F#6 ++ 1#4 ++ 1#22) (0x3F#6 ++ 0#26) = .error .badImx

/-- R103 to R109, R112 to R123: every well-formed instruction with an encoding is one word, or an IMX and a word, and
decoding what it is encoded as gives it back with every operand. -/
def Obligations.DecodeOfEncode : Prop :=
  ∀ i : Instr, i.wf = true → i.isEvent = false →
    (∃ w, encode i = [w] ∧ isImx w = false ∧ decodeWords w 0 = .ok i) ∨
    ∃ x w, encode i = [x, w] ∧ isImx x = true ∧ decodeWords x w = .ok i

/-- R102, R104, R123: what the decoder accepts is a well-formed instruction, and a word accepted alone, without an IMX, is the
one word that the instruction is encoded as: no bit of it is ignored. (With an IMX of 0 before it, an immediate form decodes to
the same instruction.) -/
def Obligations.EncodeOfDecode : Prop :=
  ∀ (w w2 : W32) (i : Instr), decodeWords w w2 = .ok i →
    i.wf = true ∧ i.isEvent = false ∧ (isImx w = false → encode i = [w])

namespace Sys2Proof.Claims
open Sys2Proof.Machine

/-- Memory is in its canonical form; the tile table lists each tile once, and each tile's strand table each slot once. -/
def Inv (s : State) : Prop :=
  Memory.wf s.mem = true ∧ Table.risingFrom 0 s.tiles = true ∧ ∀ e ∈ s.tiles, Table.risingFrom 0 e.2.strands = true

end Sys2Proof.Claims

/-- The model's own invariant (log entries 3 and 4), which other statements have as a premise: every step keeps it, from any
state that has it. -/
def Obligations.StepKeepsTables : Prop := ∀ s s' : State, Claims.Inv s → step s = .next s' → Claims.Inv s'

/-- R300, R365, R376, R7, R100, R345: after reset sys.fhead, sys.ftail, sys.svasid and sys.pstate are 0, the state is
unprovisioned and the debug level closed; the event ring registers and every queue's registers of every function are 0; no
bring-up step is done; no tile holds a strand or a team; no frame is tagged, every byte of memory reads 0 (host memory by log
entry 4). The model's invariant holds, and the first step passes a clk.
The zero bases of sys.fring, sys.ctxtab and sys.tiletab are the model's choice (log entry 2). -/
def Obligations.ResetState : Prop :=
  let s := State.reset
  (∀ d, (s.die d).fhead = 0 ∧ (s.die d).ftail = 0 ∧ (s.die d).svasid = 0 ∧ (s.die d).pstate = 0 ∧
    (∀ k, (s.die d).frames.find k = none ∧ (s.die d).frisket.find k = none) ∧ (s.die d).fring = none ∧
    (s.die d).ctxtab = none ∧ (s.die d).tiletab = none) ∧
  (∀ p, (s.pkg p).sec = 0 ∧ ((s.pkg p).debug).toNat = 0 ∧ (s.pkg p).step = 0 ∧ (s.pkg p).key = none ∧
    ∀ f, let x := s.fn p f
      x.evbase = 0 ∧ x.even = false ∧ x.evsize = 0 ∧ x.evhead = 0 ∧ x.evtail = 0 ∧ x.evlost = 0 ∧ x.evovf = 0 ∧
      ∀ q, (x.queue q).base = 0 ∧ (x.queue q).en = false ∧ (x.queue q).size = 0 ∧ (x.queue q).tail = 0 ∧
        (x.queue q).head = 0) ∧
  (∀ r, s.strand r = none) ∧ (∀ t, s.team t = none) ∧ (∀ a, Memory.read s.mem a = 0) ∧ Claims.Inv s ∧
  step s = .next s.tick
end

