-- ==== Sys2Proof/Laws/Float.lean ====
section
/-! SUPPORT. Laws of the number formats: the nearest integer, the exponent of a fraction, its scaling, and the rounding of a
magnitude to a binary format (R43). -/
namespace Sys2Proof.Machine

/-- A quotient and its remainder, as fractions. -/
theorem div_eq_quot (a : Nat) {b : Nat} (hb : 0 < b) : (a : ℚ) / b = (a / b : ℕ) + ((a % b : ℕ) : ℚ) / b := by
  have h : (a : ℚ) = b * (a / b : ℕ) + (a % b : ℕ) := by exact_mod_cast (Nat.div_add_mod a b).symm
  have hq : (b : ℚ) ≠ 0 := by exact_mod_cast hb.ne'
  field_simp
  linarith

/-- rneDiv is the nearest integer, the even one of two (R11). -/
theorem rneDiv_nearest (a : Nat) {b : Nat} (hb : 0 < b) :
    |(a : ℚ) / b - rneDiv a b| ≤ 1 / 2 ∧ (|(a : ℚ) / b - rneDiv a b| = 1 / 2 → rneDiv a b % 2 = 0) := by
  have hq : (0 : ℚ) < b := by exact_mod_cast hb
  have hr : a % b < b := Nat.mod_lt a hb
  have hx : (a : ℚ) / b - (a / b : ℕ) = ((a % b : ℕ) : ℚ) / b := by rw [div_eq_quot a hb]; ring
  have h0 : (0 : ℚ) ≤ ((a % b : ℕ) : ℚ) / b := by positivity
  unfold rneDiv
  simp only
  split
  · next h =>
    have : ((a % b : ℕ) : ℚ) / b < 1 / 2 := by
      rw [div_lt_div_iff₀ hq two_pos]; exact_mod_cast (by omega : a % b * 2 < 1 * b)
    rw [hx, abs_of_nonneg h0]
    exact ⟨this.le, fun e => absurd e this.ne⟩
  · split
    · next h =>
      have hlt : (1 : ℚ) / 2 < ((a % b : ℕ) : ℚ) / b := by
        rw [div_lt_div_iff₀ two_pos hq]; exact_mod_cast (by omega : 1 * b < a % b * 2)
      have hle : ((a % b : ℕ) : ℚ) / b ≤ 1 := by rw [div_le_one hq]; exact_mod_cast hr.le
      have e : (a : ℚ) / b - ((a / b + 1 : ℕ) : ℚ) = ((a % b : ℕ) : ℚ) / b - 1 := by
        push_cast; linarith
      rw [e, abs_of_nonpos (by linarith)]
      exact ⟨by linarith, fun h => by linarith⟩
    · next h1 h2 =>
      have he : ((a % b : ℕ) : ℚ) / b = 1 / 2 := by
        rw [div_eq_div_iff hq.ne' two_ne_zero]; exact_mod_cast (by omega : a % b * 2 = 1 * b)
      split
      · next hev =>
        rw [hx, he, abs_of_nonneg (by norm_num)]
        exact ⟨le_refl _, fun _ => hev⟩
      · next hod =>
        have e : (a : ℚ) / b - ((a / b + 1 : ℕ) : ℚ) = -(1 / 2) := by push_cast; linarith
        rw [e, abs_of_nonpos (by norm_num)]
        exact ⟨by norm_num, fun _ => by omega⟩

/-- floorLog is the exponent of a positive fraction. -/
theorem floorLog_spec {n d : Nat} (hn : 0 < n) (hd : 0 < d) :
    (2 : ℚ) ^ floorLog n d ≤ (n : ℚ) / d ∧ (n : ℚ) / d < 2 ^ (floorLog n d + 1) := by
  have hdq : (0 : ℚ) < d := by exact_mod_cast hd
  have n1 : (2 : ℚ) ^ (n.log2 : ℤ) ≤ n := by
    rw [zpow_natCast]; exact_mod_cast Nat.log2_self_le hn.ne'
  have n2 : (n : ℚ) < 2 ^ ((n.log2 : ℤ) + 1) := by
    have : n < 2 ^ (n.log2 + 1) := Nat.lt_log2_self
    rw [← Nat.cast_succ, zpow_natCast]; exact_mod_cast this
  have d1 : (2 : ℚ) ^ (d.log2 : ℤ) ≤ d := by
    rw [zpow_natCast]; exact_mod_cast Nat.log2_self_le hd.ne'
  have d2 : (d : ℚ) < 2 ^ ((d.log2 : ℤ) + 1) := by
    have : d < 2 ^ (d.log2 + 1) := Nat.lt_log2_self
    rw [← Nat.cast_succ, zpow_natCast]; exact_mod_cast this
  have key (k : ℤ) : (if 0 ≤ k then d * 2 ^ k.toNat ≤ n else d ≤ n * 2 ^ (-k).toNat) ↔ (2 : ℚ) ^ k ≤ n / d := by
    rw [le_div_iff₀ hdq]
    split
    · next h =>
      obtain ⟨m, rfl⟩ := Int.eq_ofNat_of_zero_le h
      simp only [Int.toNat_natCast, zpow_natCast]
      rw [mul_comm]; exact_mod_cast Iff.rfl
    · next h =>
      obtain ⟨m, hm⟩ := Int.eq_ofNat_of_zero_le (by omega : 0 ≤ -k)
      have hk : k = -(m : ℤ) := by omega
      subst hk
      simp only [neg_neg, Int.toNat_natCast, zpow_neg, zpow_natCast]
      rw [inv_mul_le_iff₀ (by positivity), mul_comm]
      exact_mod_cast Iff.rfl
  have two : (2 : ℚ) ≠ 0 := two_ne_zero
  set k : ℤ := (n.log2 : ℤ) - (d.log2 : ℤ) with hk
  have lo : (2 : ℚ) ^ (k - 1) < n / d := by
    rw [lt_div_iff₀ hdq]
    calc (2 : ℚ) ^ (k - 1) * d < 2 ^ (k - 1) * 2 ^ ((d.log2 : ℤ) + 1) := by gcongr
      _ = 2 ^ (n.log2 : ℤ) := by rw [← zpow_add₀ two]; congr 1; omega
      _ ≤ n := n1
  have hi : (n : ℚ) / d < 2 ^ (k + 1) := by
    rw [div_lt_iff₀ hdq]
    calc (n : ℚ) < 2 ^ ((n.log2 : ℤ) + 1) := n2
      _ = 2 ^ (k + 1) * 2 ^ (d.log2 : ℤ) := by rw [← zpow_add₀ two]; congr 1; omega
      _ ≤ 2 ^ (k + 1) * d := by gcongr
  unfold floorLog
  simp only [← hk, key]
  split
  · next h => exact ⟨h, hi⟩
  · next h => exact ⟨lo.le, by rw [sub_add_cancel]; exact lt_of_not_ge h⟩

/-- scaleFrac divides by a power of two. -/
theorem scaleFrac_spec (n : Nat) {d : Nat} (hd : 0 < d) (q : Int) :
    0 < (scaleFrac n d q).2 ∧ ((scaleFrac n d q).1 : ℚ) / (scaleFrac n d q).2 = (n : ℚ) / d / 2 ^ q := by
  unfold scaleFrac
  split
  · next h =>
    obtain ⟨m, rfl⟩ := Int.eq_ofNat_of_zero_le h
    refine ⟨by positivity, ?_⟩
    simp only [Int.toNat_natCast, zpow_natCast]
    push_cast; rw [div_div]
  · next h =>
    obtain ⟨m, hm⟩ := Int.eq_ofNat_of_zero_le (by omega : 0 ≤ -q)
    have hk : q = -(m : ℤ) := by omega
    subst hk
    refine ⟨hd, ?_⟩
    simp only [neg_neg, Int.toNat_natCast, zpow_neg, zpow_natCast]
    push_cast; rw [div_inv_eq_mul]; ring

/-! ## Rounding to a binary format -/

/-- The magnitude that code c of a format with mb fraction bits denotes. -/
def codeVal (mb c : Nat) : ℚ :=
  if c < 2 ^ mb then c * 2 ^ (-(126 + mb : ℤ)) else (2 ^ mb + c % 2 ^ mb : ℕ) * 2 ^ ((c / 2 ^ mb : ℕ) - 127 - mb : ℤ)

/-- The code of significand m at exponent E, carries included. -/
theorem codeVal_eq (mb E m : Nat) (hm : m ≤ 2 ^ (mb + 1)) (hE : E = 0 ∨ 2 ^ mb ≤ m) :
    codeVal mb (E * 2 ^ mb + m) = m * 2 ^ ((E : ℤ) - 126 - mb) := by
  have hp : 0 < 2 ^ mb := Nat.two_pow_pos mb
  have h2 : 2 ^ (mb + 1) = 2 * 2 ^ mb := by ring
  unfold codeVal
  rcases Nat.lt_or_ge m (2 ^ mb) with h | h
  · obtain rfl : E = 0 := by omega
    rw [Nat.zero_mul, Nat.zero_add, if_pos h]
    congr 2; push_cast; ring
  · have hc : ¬ (E * 2 ^ mb + m < 2 ^ mb) := by have := Nat.zero_le (E * 2 ^ mb); omega
    rw [if_neg hc]
    rcases Nat.lt_or_ge m (2 ^ (mb + 1)) with h' | h'
    · have e : E * 2 ^ mb + m = (m - 2 ^ mb) + 2 ^ mb * (E + 1) := by
        have : 2 ^ mb * (E + 1) = E * 2 ^ mb + 2 ^ mb := by ring
        omega
      have r : (m - 2 ^ mb) < 2 ^ mb := by omega
      rw [e, Nat.add_mul_mod_self_left, Nat.add_mul_div_left _ _ hp, Nat.mod_eq_of_lt r, Nat.div_eq_of_lt r]
      have : 2 ^ mb + (m - 2 ^ mb) = m := by omega
      rw [this]; congr 2; push_cast; ring
    · obtain rfl : m = 2 * 2 ^ mb := by omega
      have e : E * 2 ^ mb + 2 * 2 ^ mb = 0 + 2 ^ mb * (E + 2) := by ring
      rw [e, Nat.add_mul_mod_self_left, Nat.add_mul_div_left _ _ hp, Nat.zero_mod, Nat.zero_div]
      have : ((0 + (E + 2) : ℕ) : ℤ) - 127 - mb = ((E : ℤ) - 126 - mb) + 1 := by push_cast; ring
      rw [this, zpow_add_one₀ two_ne_zero]; push_cast; ring

/-- Codes are in the order of what they denote. -/
theorem codeVal_strictMono (mb : Nat) : StrictMono (codeVal mb) := by
  refine strictMono_nat_of_lt_succ (fun c => ?_)
  have hp : 0 < 2 ^ mb := Nat.two_pow_pos mb
  have h2 : 2 ^ (mb + 1) = 2 * 2 ^ mb := by ring
  obtain ⟨E, m, rfl, hm, hE⟩ : ∃ E m, c = E * 2 ^ mb + m ∧ m + 1 ≤ 2 ^ (mb + 1) ∧ (E = 0 ∨ 2 ^ mb ≤ m) := by
    rcases Nat.lt_or_ge c (2 ^ mb) with h | h
    · exact ⟨0, c, by omega, by omega, .inl rfl⟩
    · have hd := Nat.div_add_mod c (2 ^ mb)
      have hr := Nat.mod_lt c hp
      have hq : 1 ≤ c / 2 ^ mb := (Nat.one_le_div_iff hp).2 h
      refine ⟨c / 2 ^ mb - 1, 2 ^ mb + c % 2 ^ mb, ?_, by omega, .inr (by omega)⟩
      have : (c / 2 ^ mb - 1) * 2 ^ mb + 2 ^ mb = 2 ^ mb * (c / 2 ^ mb) := by
        rw [Nat.sub_mul, Nat.one_mul, Nat.sub_add_cancel (Nat.le_mul_of_pos_left _ hq), Nat.mul_comm]
      omega
  rw [Nat.add_assoc, codeVal_eq mb E m (by omega) hE, codeVal_eq mb E (m + 1) hm (by omega)]
  have : (0 : ℚ) < 2 ^ ((E : ℤ) - 126 - mb) := by positivity
  push_cast; nlinarith

/-- The nearest code to a number, ties to even. -/
def NearestCode (mb : Nat) (x : ℚ) (c : Nat) : Prop :=
  ∀ k, k ≠ c → |x - codeVal mb c| ≤ |x - codeVal mb k| ∧ (|x - codeVal mb c| = |x - codeVal mb k| → c % 2 = 0)

/-- The code of the integer nearest the significand is the nearest code. -/
theorem nearestCode_of_significand {mb E m : Nat} {y : ℚ} (h1 : 1 ≤ mb) (h0 : 0 ≤ y) (hy : y < 2 ^ (mb + 1))
    (hE : E = 0 ∨ 2 ^ mb ≤ y) (hm : |y - m| ≤ 1 / 2) (ht : |y - m| = 1 / 2 → m % 2 = 0) :
    NearestCode mb (y * 2 ^ ((E : ℤ) - 126 - mb)) (E * 2 ^ mb + m) ∧ m ≤ 2 ^ (mb + 1) ∧ (E = 0 ∨ 2 ^ mb ≤ m) := by
  have hab := abs_le.1 hm
  have hp : 0 < 2 ^ mb := Nat.two_pow_pos mb
  have hle : m ≤ 2 ^ (mb + 1) := by
    have : (m : ℚ) < (2 ^ (mb + 1) + 1 : ℕ) := by push_cast; linarith [hab.1]
    exact Nat.lt_succ_iff.1 (by exact_mod_cast this)
  have hge : E = 0 ∨ 2 ^ mb ≤ m := hE.imp_right (fun h => by
    have : ((2 ^ mb : ℕ) : ℚ) < (m + 1 : ℕ) := by push_cast; linarith [hab.2]
    exact Nat.lt_succ_iff.1 (by exact_mod_cast this))
  refine ⟨fun k hk => ?_, hle, hge⟩
  set u : ℚ := 2 ^ ((E : ℤ) - 126 - mb) with hu
  have hupos : 0 < u := by positivity
  have hc : codeVal mb (E * 2 ^ mb + m) = m * u := codeVal_eq mb E m hle hge
  have dist : |y * u - codeVal mb (E * 2 ^ mb + m)| = |y - m| * u := by
    rw [hc, ← sub_mul, abs_mul, abs_of_pos hupos]
  have mono := codeVal_strictMono mb
  -- either the other code is half a step away, or it is further on the same side
  have far : u / 2 ≤ |y * u - codeVal mb k| ∨ |y * u - codeVal mb (E * 2 ^ mb + m)| < |y * u - codeVal mb k| := by
    rcases Nat.lt_or_gt_of_ne hk with hlt | hgt
    · have hm1 : codeVal mb k < codeVal mb (E * 2 ^ mb + m) := mono hlt
      by_cases hs : 1 ≤ m ∧ (E = 0 ∨ 2 ^ mb ≤ m - 1)
      · left
        have hk' : codeVal mb k ≤ codeVal mb (E * 2 ^ mb + (m - 1)) := mono.monotone (by omega)
        rw [codeVal_eq mb E (m - 1) (by omega) hs.2, ← hu] at hk'
        have hcast : ((m - 1 : ℕ) : ℚ) = m - 1 := by push_cast [hs.1]; ring
        rw [hcast] at hk'
        refine le_trans ?_ (le_abs_self _)
        nlinarith [hab.1]
      · right
        have hyE : (m : ℚ) ≤ y := by
          rcases hE with rfl | h
          · have : m = 0 := by omega
            rw [this]; exact_mod_cast h0
          · have : m = 2 ^ mb := by
              rcases hge with rfl | h'
              · omega
              · omega
            rw [this]; exact_mod_cast h
        rw [hc] at hm1 ⊢
        have : (m : ℚ) * u ≤ y * u := by gcongr
        rw [abs_of_nonneg (by linarith), abs_of_nonneg (by linarith)]
        linarith
    · have hm1 : codeVal mb (E * 2 ^ mb + m) < codeVal mb k := mono hgt
      by_cases hs : m + 1 ≤ 2 ^ (mb + 1)
      · left
        have hk' : codeVal mb (E * 2 ^ mb + (m + 1)) ≤ codeVal mb k := mono.monotone (by omega)
        rw [codeVal_eq mb E (m + 1) hs (by omega), ← hu] at hk'
        push_cast at hk'
        rw [abs_sub_comm]
        refine le_trans ?_ (le_abs_self _)
        nlinarith [hab.2]
      · right
        obtain rfl : m = 2 ^ (mb + 1) := by omega
        have hlt : y * u < codeVal mb (E * 2 ^ mb + 2 ^ (mb + 1)) := by
          rw [hc]; push_cast; gcongr
        rw [abs_of_neg (by linarith), abs_of_neg (by linarith)]
        linarith
  have near : |y * u - codeVal mb (E * 2 ^ mb + m)| ≤ u / 2 := by rw [dist]; nlinarith
  refine ⟨far.elim near.trans le_of_lt, fun e => ?_⟩
  have hf : u / 2 ≤ |y - m| * u := by
    rcases far with h | h
    · rw [← dist, e]; exact h
    · exact absurd e h.ne
  have hhalf : |y - m| = 1 / 2 := le_antisymm hm (by nlinarith)
  have hme := ht hhalf
  obtain ⟨j, rfl⟩ : ∃ j, mb = j + 1 := ⟨mb - 1, by omega⟩
  have : E * 2 ^ (j + 1) = 2 * (E * 2 ^ j) := by ring
  omega

/-- A nearest code reaches infinity's exactly from half a step above the greatest magnitude on. -/
theorem nearestCode_overflow {mb c : Nat} {x : ℚ} (h1 : 1 ≤ mb) (hm : mb ≤ 126) (h : NearestCode mb x c) :
    255 * 2 ^ mb ≤ c ↔ (2 ^ (mb + 2) - 1) * 2 ^ (126 - mb) ≤ x := by
  have hp : 0 < 2 ^ mb := Nat.two_pow_pos mb
  have h2 : 2 ^ (mb + 1) = 2 * 2 ^ mb := by ring
  obtain ⟨p, hpe⟩ : ∃ p, p + 1 = 255 * 2 ^ mb := ⟨255 * 2 ^ mb - 1, by omega⟩
  have hexp : (2 : ℚ) ^ (((253 : ℕ) : ℤ) - 126 - mb) = 2 * 2 ^ (126 - mb) := by
    rw [← pow_succ', ← zpow_natCast]; congr 1; omega
  have vp : codeVal mb p = (2 ^ (mb + 2) - 2) * 2 ^ (126 - mb) := by
    have e : p = 253 * 2 ^ mb + (2 ^ (mb + 1) - 1) := by omega
    have hcast : ((2 ^ (mb + 1) - 1 : ℕ) : ℚ) = 2 ^ (mb + 1) - 1 := by
      rw [Nat.cast_sub (Nat.one_le_two_pow)]; push_cast; ring
    rw [e, codeVal_eq mb 253 _ (by omega) (.inr (by omega)), hcast, hexp]; ring
  have vi : codeVal mb (p + 1) = 2 ^ (mb + 2) * 2 ^ (126 - mb) := by
    have e : p + 1 = 253 * 2 ^ mb + 2 ^ (mb + 1) := by omega
    rw [e, codeVal_eq mb 253 _ le_rfl (.inr (by omega)), hexp]; push_cast; ring
  set w : ℚ := 2 ^ (126 - mb) with hw
  have hwp : 0 < w := by positivity
  set g : ℚ := 2 ^ (mb + 2) with hg
  have mono := codeVal_strictMono mb
  obtain ⟨j, rfl⟩ : ∃ j, mb = j + 1 := ⟨mb - 1, by omega⟩
  have hodd : p % 2 = 1 := by
    have : 2 ^ (j + 1) = 2 * 2 ^ j := by ring
    omega
  constructor
  · intro hc
    by_contra hx
    push Not at hx
    have hne : p ≠ c := by omega
    have hcv : codeVal (j + 1) (p + 1) ≤ codeVal (j + 1) c := mono.monotone (by omega)
    have hd := (h p hne).1
    rw [vi] at hcv
    rw [abs_of_neg (by nlinarith : x - codeVal (j + 1) c < 0), vp] at hd
    rcases abs_cases (x - (g - 2) * w) with ⟨e, _⟩ | ⟨e, _⟩ <;> rw [e] at hd <;> nlinarith
  · intro hx
    by_contra hc
    have hne : p + 1 ≠ c := by omega
    have hcv : codeVal (j + 1) c ≤ codeVal (j + 1) p := mono.monotone (by omega)
    have hd := h (p + 1) hne
    rw [vp] at hcv
    rw [abs_of_nonneg (by nlinarith : 0 ≤ x - codeVal (j + 1) c), vi] at hd
    rcases abs_cases (x - g * w) with ⟨e, _⟩ | ⟨e, _⟩ <;> rw [e] at hd
    · nlinarith [hd.1]
    · have hv : codeVal (j + 1) c = codeVal (j + 1) p := le_antisymm (by rw [vp]; exact hcv) (by rw [vp]; nlinarith [hd.1])
      have hcp : c = p := mono.injective hv
      have := hd.2 (by rw [hv, vp]; nlinarith [hd.1, hv, vp])
      omega

/-- roundMag gives the nearest code, and infinity's from half a step above the greatest magnitude on (R43). -/
theorem roundMag_nearest {mb : Nat} (n : Nat) {d : Nat} (h1 : 1 ≤ mb) (hm : mb ≤ 126) (hd : 0 < d) :
    if (2 ^ (mb + 2) - 1) * 2 ^ (126 - mb) ≤ (n : ℚ) / d then roundMag mb n d = 255 * 2 ^ mb
    else roundMag mb n d < 255 * 2 ^ mb ∧ NearestCode mb ((n : ℚ) / d) (roundMag mb n d) := by
  obtain ⟨c, hc, he⟩ : ∃ c, NearestCode mb ((n : ℚ) / d) c ∧ roundMag mb n d = Nat.min c (255 * 2 ^ mb) := by
    rcases Nat.eq_zero_or_pos n with rfl | hn
    · have := nearestCode_of_significand (mb := mb) (E := 0) (m := 0) (y := 0) h1 le_rfl (by positivity) (.inl rfl)
        (by norm_num) (by norm_num)
      refine ⟨0, by simpa using this.1, ?_⟩
      simp [roundMag]
    · obtain ⟨lo, hi⟩ := floorLog_spec hn hd
      set e := max (floorLog n d) (-126) with hedef
      obtain ⟨E, hE⟩ := Int.eq_ofNat_of_zero_le (by omega : 0 ≤ e + 126)
      obtain ⟨f2, fv⟩ := scaleFrac_spec n hd (e - mb)
      obtain ⟨r1, r2⟩ := rneDiv_nearest (scaleFrac n d (e - mb)).1 f2
      rw [fv] at r1 r2
      have hx : (n : ℚ) / d / 2 ^ (e - mb) * 2 ^ ((E : ℤ) - 126 - mb) = n / d := by
        have : (E : ℤ) - 126 - mb = e - mb := by omega
        rw [this, div_mul_cancel₀ _ (by positivity)]
      have hlt : (n : ℚ) / d / 2 ^ (e - mb) < 2 ^ (mb + 1) := by
        rw [div_lt_iff₀ (by positivity), ← zpow_natCast (2 : ℚ) (mb + 1), ← zpow_add₀ two_ne_zero]
        refine lt_of_lt_of_le hi (zpow_le_zpow_right₀ one_le_two ?_)
        push_cast; omega
      have hge : E = 0 ∨ (2 : ℚ) ^ mb ≤ n / d / 2 ^ (e - mb) := by
        rcases Nat.eq_zero_or_pos E with h | h
        · exact .inl h
        · right
          rw [le_div_iff₀ (by positivity), ← zpow_natCast (2 : ℚ) mb, ← zpow_add₀ two_ne_zero]
          refine le_trans (zpow_le_zpow_right₀ one_le_two ?_) lo
          omega
      have key := nearestCode_of_significand h1 (by positivity) hlt hge r1 r2
      rw [hx] at key
      refine ⟨_, key.1, ?_⟩
      have hEn : (e + 126).toNat = E := by omega
      simp only [roundMag, hn.ne', if_false, ← hedef, hEn]
  have ov := nearestCode_overflow h1 hm hc
  split
  · next h => rw [he]; exact Nat.min_eq_right (ov.2 h)
  · next h =>
    have hlt : c < 255 * 2 ^ mb := lt_of_not_ge (fun hge => h (ov.1 hge))
    have : Nat.min c (255 * 2 ^ mb) = c := Nat.min_eq_left hlt.le
    rw [he, this]
    exact ⟨hlt, hc⟩

end Sys2Proof.Machine
end

