-- ==== Sys2Proof/Laws/Table.lean ====
section
/-! SUPPORT. Laws of tables and of memory: what a read finds after a write, and that every operation keeps the
canonical form. -/
namespace Sys2Proof

/-! ## Lookup after an update -/

@[simp] theorem Table.find_ins_same {α : Type} (t : Table α) (k : Nat) (v : α) : (t.ins k v).find k = some v := by
  induction t with
  | nil => simp [Table.ins, Table.find]
  | cons e r ih =>
    obtain ⟨j, w⟩ := e
    simp only [Table.ins]
    split
    · simp [Table.find]
    · split
      · simp [Table.find]
      · next h => simp [Table.find, h, ih]

theorem Table.find_ins_other {α : Type} (t : Table α) {k i : Nat} (v : α) (h : i ≠ k) :
    (t.ins k v).find i = t.find i := by
  induction t with
  | nil => simp [Table.ins, Table.find, Ne.symm h]
  | cons e r ih =>
    obtain ⟨j, w⟩ := e
    simp only [Table.ins]
    split
    · simp [Table.find, Ne.symm h]
    · split
      · next hj => subst hj; simp [Table.find, Ne.symm h]
      · simp [Table.find, ih]

@[simp] theorem Table.find_del_same {α : Type} (t : Table α) (k : Nat) : (t.del k).find k = none := by
  induction t with
  | nil => rfl
  | cons e r ih =>
    obtain ⟨j, w⟩ := e
    by_cases hj : j = k
    · simpa [Table.del, hj] using ih
    · simpa [Table.del, hj, Table.find] using ih

theorem Table.find_del_other {α : Type} (t : Table α) {k i : Nat} (h : i ≠ k) : (t.del k).find i = t.find i := by
  induction t with
  | nil => rfl
  | cons e r ih =>
    obtain ⟨j, w⟩ := e
    by_cases hj : j = k
    · subst hj
      have : j ≠ i := Ne.symm h
      simpa [Table.del, Table.find, this] using ih
    · have ih' := ih
      simp only [Table.del] at ih' ⊢
      simp [hj, Table.find, ih']

@[simp] theorem Table.get_put_same {α : Type} [DecidableEq α] (t : Table α) (d v : α) (k : Nat) :
    (t.put d k v).get d k = v := by
  unfold Table.put Table.get
  split
  · next h => simp [h]
  · simp

theorem Table.get_put_other {α : Type} [DecidableEq α] (t : Table α) (d v : α) {k i : Nat} (h : i ≠ k) :
    (t.put d k v).get d i = t.get d i := by
  unfold Table.put Table.get
  split
  · rw [Table.find_del_other t h]
  · rw [Table.find_ins_other t v h]

theorem Table.get_put {α : Type} [DecidableEq α] (t : Table α) (d v : α) (k i : Nat) :
    (t.put d k v).get d i = if i = k then v else t.get d i := by
  split
  · next h => subst h; simp
  · next h => exact Table.get_put_other t d v h

/-! ## The canonical form -/

theorem Table.risingFrom_mono {α : Type} {t : Table α} {a b : Nat} (h : Table.risingFrom b t = true) (hab : a ≤ b) :
    Table.risingFrom a t = true := by
  cases t with
  | nil => rfl
  | cons e r =>
    obtain ⟨k, v⟩ := e
    simp only [Table.risingFrom, Bool.and_eq_true, decide_eq_true_eq] at h ⊢
    exact ⟨by omega, h.2⟩

theorem Table.risingFrom_ins {α : Type} {t : Table α} {lo : Nat} (k : Nat) (v : α)
    (h : Table.risingFrom lo t = true) (hk : lo ≤ k) : Table.risingFrom lo (t.ins k v) = true := by
  induction t generalizing lo with
  | nil => simp [Table.ins, Table.risingFrom, hk]
  | cons e r ih =>
    obtain ⟨j, w⟩ := e
    simp only [Table.risingFrom, Bool.and_eq_true, decide_eq_true_eq] at h
    simp only [Table.ins]
    split
    · simp [Table.risingFrom, hk, h.2]; omega
    · split
      · next hj => subst hj; simp [Table.risingFrom, h.1, h.2]
      · simp only [Table.risingFrom, Bool.and_eq_true, decide_eq_true_eq]
        exact ⟨h.1, ih h.2 (by omega)⟩

theorem Table.risingFrom_filter {α : Type} {t : Table α} {lo : Nat} (p : Nat × α → Bool)
    (h : Table.risingFrom lo t = true) : Table.risingFrom lo (t.filter p) = true := by
  induction t generalizing lo with
  | nil => rfl
  | cons e r ih =>
    obtain ⟨j, w⟩ := e
    simp only [Table.risingFrom, Bool.and_eq_true, decide_eq_true_eq] at h
    rw [List.filter_cons]
    split
    · simp only [Table.risingFrom, Bool.and_eq_true, decide_eq_true_eq]
      exact ⟨h.1, ih h.2⟩
    · exact Table.risingFrom_mono (ih h.2) (by omega)

theorem Table.mem_ins {α : Type} {t : Table α} {k : Nat} {v : α} {e : Nat × α} (h : e ∈ t.ins k v) :
    e = (k, v) ∨ e ∈ t := by
  induction t with
  | nil => simpa [Table.ins] using h
  | cons x r ih =>
    obtain ⟨j, w⟩ := x
    simp only [Table.ins] at h
    split at h
    · simpa using h
    · split at h
      · simp only [List.mem_cons] at h ⊢; tauto
      · simp only [List.mem_cons] at h ⊢
        rcases h with h | h
        · tauto
        · rcases ih h with h | h <;> tauto

theorem Table.wf_filter {α : Type} [DecidableEq α] {d : α} {t : Table α} (p : Nat × α → Bool)
    (h : Table.wf d t = true) : Table.wf d (t.filter p) = true := by
  simp only [Table.wf, Bool.and_eq_true, List.all_eq_true] at h ⊢
  exact ⟨Table.risingFrom_filter p h.1, fun x hx => h.2 x (List.mem_of_mem_filter hx)⟩

theorem Table.wf_ins {α : Type} [DecidableEq α] {d : α} {t : Table α} (k : Nat) {v : α} (hv : v ≠ d)
    (h : Table.wf d t = true) : Table.wf d (t.ins k v) = true := by
  simp only [Table.wf, Bool.and_eq_true, List.all_eq_true] at h ⊢
  refine ⟨Table.risingFrom_ins k v h.1 (by omega), fun x hx => ?_⟩
  rcases Table.mem_ins hx with rfl | hx
  · simpa using hv
  · exact h.2 x hx

theorem Table.wf_put {α : Type} [DecidableEq α] {d : α} {t : Table α} (k : Nat) (v : α)
    (h : Table.wf d t = true) : Table.wf d (t.put d k v) = true := by
  unfold Table.put
  split
  · exact Table.wf_filter _ h
  · next hv => exact Table.wf_ins k hv h

/-- Tables in canonical form that read alike are the same list. -/
theorem Table.find_none_of_risingFrom {α : Type} {t : Table α} {lo k : Nat} (h : Table.risingFrom lo t = true)
    (hk : k < lo) : t.find k = none := by
  induction t generalizing lo with
  | nil => rfl
  | cons e r ih =>
    obtain ⟨j, w⟩ := e
    simp only [Table.risingFrom, Bool.and_eq_true, decide_eq_true_eq] at h
    have hj : j ≠ k := by omega
    simp only [Table.find, hj, if_false]
    exact ih h.2 (by omega)

theorem Table.find_filter {α : Type} {t : Table α} {lo : Nat} (p : Nat → Bool) (k : Nat)
    (h : Table.risingFrom lo t = true) :
    Table.find (t.filter (fun e => p e.1)) k = if p k then t.find k else none := by
  induction t generalizing lo with
  | nil => simp [Table.find]
  | cons e r ih =>
    obtain ⟨j, w⟩ := e
    simp only [Table.risingFrom, Bool.and_eq_true, decide_eq_true_eq] at h
    rw [List.filter_cons]
    by_cases hj : j = k
    · subst hj
      by_cases hp : p j = true
      · simp [hp, Table.find]
      · simp only [hp, if_false, Bool.false_eq_true]
        rw [ih h.2]; simp [hp]
    · by_cases hp : p j = true
      · simp only [hp, if_true, Table.find, hj, if_false]
        exact ih h.2
      · simp only [hp, Bool.false_eq_true, if_false, Table.find, hj]
        exact ih h.2

namespace Machine

/-! ## Memory -/

@[simp] theorem Memory.read_write_same (m : List Host.Cell) (k : Nat) (b : Byte) :
    Memory.read (Memory.write m k b) k = b := Table.get_put_same m 0 b k

theorem Memory.read_write_other (m : List Host.Cell) {k i : Nat} (b : Byte) (h : i ≠ k) :
    Memory.read (Memory.write m k b) i = Memory.read m i := Table.get_put_other m 0 b h

theorem Memory.wf_write {m : List Host.Cell} (k : Nat) (b : Byte) (h : Memory.wf m = true) :
    Memory.wf (Memory.write m k b) = true := Table.wf_put k b h

theorem Memory.wf_writeN {m : List Host.Cell} (k : Nat) (bs : List Byte) (h : Memory.wf m = true) :
    Memory.wf (Memory.writeN m k bs) = true := by
  induction bs generalizing m k with
  | nil => exact h
  | cons b r ih => exact ih (k + 1) (Memory.wf_write k b h)

theorem Memory.wf_clear {m : List Host.Cell} (k n : Nat) (h : Memory.wf m = true) :
    Memory.wf (Memory.clear m k n) = true := Table.wf_filter _ h

theorem Memory.wf_foldl {α : Type} (l : List α) (f : List Host.Cell → α → List Host.Cell)
    (hf : ∀ m x, Memory.wf m = true → Memory.wf (f m x) = true) {m : List Host.Cell} (h : Memory.wf m = true) :
    Memory.wf (l.foldl f m) = true := by
  induction l generalizing m with
  | nil => exact h
  | cons x r ih => exact ih (hf m x h)

theorem Memory.wf_copy {m : List Host.Cell} (src dst n : Nat) (h : Memory.wf m = true) :
    Memory.wf (Memory.copy m src dst n) = true :=
  Memory.wf_foldl _ _ (fun _ _ h => Memory.wf_write _ _ h) (Memory.wf_clear dst n h)

/-- A write of consecutive bytes leaves every byte outside them as it was. -/
theorem Memory.read_writeN_outside (m : List Host.Cell) (k : Nat) (bs : List Byte) {i : Nat}
    (h : i < k ∨ k + bs.length ≤ i) : Memory.read (Memory.writeN m k bs) i = Memory.read m i := by
  induction bs generalizing m k with
  | nil => rfl
  | cons b r ih =>
    simp only [List.length_cons] at h
    rw [Memory.writeN, ih (Memory.write m k b) (k + 1) (by omega), Memory.read_write_other m b (by omega)]

/-- Each byte written is what is read there afterwards. -/
theorem Memory.read_writeN_inside (m : List Host.Cell) (k : Nat) (bs : List Byte) (i : Nat) (h : i < bs.length) :
    Memory.read (Memory.writeN m k bs) (k + i) = bs[i] := by
  induction bs generalizing m k i with
  | nil => simp at h
  | cons b r ih =>
    cases i with
    | zero =>
      rw [Memory.writeN, Memory.read_writeN_outside _ _ _ (by omega)]
      simp
    | succ i =>
      have := ih (Memory.write m k b) (k + 1) i (by simpa using h)
      rw [Memory.writeN, show k + (i + 1) = k + 1 + i by omega, this]
      simp

/-- The bytes just written are read back. -/
theorem Memory.readN_writeN (m : List Host.Cell) (k : Nat) (bs : List Byte) :
    Memory.readN (Memory.writeN m k bs) k bs.length = bs := by
  apply List.ext_getElem
  · simp [Memory.readN]
  · intro i h1 h2
    simp only [Memory.readN, List.getElem_map, List.getElem_range]
    exact Memory.read_writeN_inside m k bs i h2

@[simp] theorem Memory.length_readN (m : List Host.Cell) (k n : Nat) : (Memory.readN m k n).length = n := by
  simp [Memory.readN]

@[simp] theorem length_leBytes (n v : Nat) : (leBytes n v).length = n := by
  induction n generalizing v with
  | zero => rfl
  | succ n ih => simp [leBytes, ih]

/-- The bytes of a number spell it, up to their width (R7). -/
theorem leNat_leBytes (n v : Nat) : leNat (leBytes n v) = v % 256 ^ n := by
  induction n generalizing v with
  | zero => simp [leBytes, leNat, Nat.mod_one]
  | succ n ih =>
    have h : v % (256 * 256 ^ n) = v % 256 + 256 * (v / 256 % 256 ^ n) := Nat.mod_mul
    have hp : 256 ^ (n + 1) = 256 * 256 ^ n := Nat.pow_succ'
    simp only [leBytes, leNat, ih, BitVec.toNat_ofNat, hp, h, Nat.reducePow]

end Machine
end Sys2Proof
end

