-- ==== Sys2Proof/Laws/State.lean ====
section
/-! SUPPORT. Laws of the state: one lemma per field per update, so that no later proof unfolds a record update, and what
an accessor finds after an update. -/
namespace Sys2Proof.Machine

/-! ## `State.setTile` -/

@[simp] theorem State.setTile_mem (s : State) (t : Nat) (x : Tile) : (s.setTile t x).mem = s.mem := rfl
@[simp] theorem State.setTile_poison (s : State) (t : Nat) (x : Tile) : (s.setTile t x).poison = s.poison := rfl
@[simp] theorem State.setTile_hist (s : State) (t : Nat) (x : Tile) : (s.setTile t x).hist = s.hist := rfl
@[simp] theorem State.setTile_clk (s : State) (t : Nat) (x : Tile) : (s.setTile t x).clk = s.clk := rfl
@[simp] theorem State.setTile_podBase (s : State) (t : Nat) (x : Tile) : (s.setTile t x).podBase = s.podBase := rfl
@[simp] theorem State.setTile_podPhase (s : State) (t : Nat) (x : Tile) : (s.setTile t x).podPhase = s.podPhase := rfl
@[simp] theorem State.setTile_dies (s : State) (t : Nat) (x : Tile) : (s.setTile t x).dies = s.dies := rfl
@[simp] theorem State.setTile_pkgs (s : State) (t : Nat) (x : Tile) : (s.setTile t x).pkgs = s.pkgs := rfl
@[simp] theorem State.setTile_roots (s : State) (t : Nat) (x : Tile) : (s.setTile t x).roots = s.roots := rfl
@[simp] theorem State.setTile_net (s : State) (t : Nat) (x : Tile) : (s.setTile t x).net = s.net := rfl
@[simp] theorem State.setTile_answers (s : State) (t : Nat) (x : Tile) : (s.setTile t x).answers = s.answers := rfl
@[simp] theorem State.setTile_transit (s : State) (t : Nat) (x : Tile) : (s.setTile t x).transit = s.transit := rfl
@[simp] theorem State.setTile_actives (s : State) (t : Nat) (x : Tile) : (s.setTile t x).actives = s.actives := rfl
@[simp] theorem State.setTile_agenda (s : State) (t : Nat) (x : Tile) : (s.setTile t x).agenda = s.agenda := rfl
@[simp] theorem State.setTile_timers (s : State) (t : Nat) (x : Tile) : (s.setTile t x).timers = s.timers := rfl
@[simp] theorem State.setTile_late (s : State) (t : Nat) (x : Tile) : (s.setTile t x).late = s.late := rfl
@[simp] theorem State.setTile_cur (s : State) (t : Nat) (x : Tile) : (s.setTile t x).cur = s.cur := rfl
@[simp] theorem State.setTile_ev (s : State) (t : Nat) (x : Tile) : (s.setTile t x).ev = s.ev := rfl
@[simp] theorem State.setTile_data (s : State) (t : Nat) (x : Tile) : (s.setTile t x).data = s.data := rfl
@[simp] theorem State.setTile_fresh (s : State) (t : Nat) (x : Tile) : (s.setTile t x).fresh = s.fresh := rfl
@[simp] theorem State.setTile_free (s : State) (t : Nat) (x : Tile) : (s.setTile t x).free = s.free := rfl
@[simp] theorem State.die_setTile (s : State) (t : Nat) (x : Tile) (u : Nat) : (s.setTile t x).die u = s.die u := rfl
@[simp] theorem State.pkg_setTile (s : State) (t : Nat) (x : Tile) (u : Nat) : (s.setTile t x).pkg u = s.pkg u := rfl
@[simp] theorem State.root_setTile (s : State) (t : Nat) (x : Tile) (u : Nat) : (s.setTile t x).root u = s.root u := rfl

/-! ## `State.setDie` -/

@[simp] theorem State.setDie_mem (s : State) (d : Nat) (x : Die) : (s.setDie d x).mem = s.mem := rfl
@[simp] theorem State.setDie_poison (s : State) (d : Nat) (x : Die) : (s.setDie d x).poison = s.poison := rfl
@[simp] theorem State.setDie_hist (s : State) (d : Nat) (x : Die) : (s.setDie d x).hist = s.hist := rfl
@[simp] theorem State.setDie_clk (s : State) (d : Nat) (x : Die) : (s.setDie d x).clk = s.clk := rfl
@[simp] theorem State.setDie_podBase (s : State) (d : Nat) (x : Die) : (s.setDie d x).podBase = s.podBase := rfl
@[simp] theorem State.setDie_podPhase (s : State) (d : Nat) (x : Die) : (s.setDie d x).podPhase = s.podPhase := rfl
@[simp] theorem State.setDie_tiles (s : State) (d : Nat) (x : Die) : (s.setDie d x).tiles = s.tiles := rfl
@[simp] theorem State.setDie_pkgs (s : State) (d : Nat) (x : Die) : (s.setDie d x).pkgs = s.pkgs := rfl
@[simp] theorem State.setDie_roots (s : State) (d : Nat) (x : Die) : (s.setDie d x).roots = s.roots := rfl
@[simp] theorem State.setDie_net (s : State) (d : Nat) (x : Die) : (s.setDie d x).net = s.net := rfl
@[simp] theorem State.setDie_answers (s : State) (d : Nat) (x : Die) : (s.setDie d x).answers = s.answers := rfl
@[simp] theorem State.setDie_transit (s : State) (d : Nat) (x : Die) : (s.setDie d x).transit = s.transit := rfl
@[simp] theorem State.setDie_actives (s : State) (d : Nat) (x : Die) : (s.setDie d x).actives = s.actives := rfl
@[simp] theorem State.setDie_agenda (s : State) (d : Nat) (x : Die) : (s.setDie d x).agenda = s.agenda := rfl
@[simp] theorem State.setDie_timers (s : State) (d : Nat) (x : Die) : (s.setDie d x).timers = s.timers := rfl
@[simp] theorem State.setDie_late (s : State) (d : Nat) (x : Die) : (s.setDie d x).late = s.late := rfl
@[simp] theorem State.setDie_cur (s : State) (d : Nat) (x : Die) : (s.setDie d x).cur = s.cur := rfl
@[simp] theorem State.setDie_ev (s : State) (d : Nat) (x : Die) : (s.setDie d x).ev = s.ev := rfl
@[simp] theorem State.setDie_data (s : State) (d : Nat) (x : Die) : (s.setDie d x).data = s.data := rfl
@[simp] theorem State.setDie_fresh (s : State) (d : Nat) (x : Die) : (s.setDie d x).fresh = s.fresh := rfl
@[simp] theorem State.setDie_free (s : State) (d : Nat) (x : Die) : (s.setDie d x).free = s.free := rfl
@[simp] theorem State.tile_setDie (s : State) (d : Nat) (x : Die) (u : Nat) : (s.setDie d x).tile u = s.tile u := rfl
@[simp] theorem State.pkg_setDie (s : State) (d : Nat) (x : Die) (u : Nat) : (s.setDie d x).pkg u = s.pkg u := rfl
@[simp] theorem State.root_setDie (s : State) (d : Nat) (x : Die) (u : Nat) : (s.setDie d x).root u = s.root u := rfl

/-! ## `State.setPkg` -/

@[simp] theorem State.setPkg_mem (s : State) (p : Nat) (x : Package) : (s.setPkg p x).mem = s.mem := rfl
@[simp] theorem State.setPkg_poison (s : State) (p : Nat) (x : Package) : (s.setPkg p x).poison = s.poison := rfl
@[simp] theorem State.setPkg_hist (s : State) (p : Nat) (x : Package) : (s.setPkg p x).hist = s.hist := rfl
@[simp] theorem State.setPkg_clk (s : State) (p : Nat) (x : Package) : (s.setPkg p x).clk = s.clk := rfl
@[simp] theorem State.setPkg_podBase (s : State) (p : Nat) (x : Package) : (s.setPkg p x).podBase = s.podBase := rfl
@[simp] theorem State.setPkg_podPhase (s : State) (p : Nat) (x : Package) : (s.setPkg p x).podPhase = s.podPhase := rfl
@[simp] theorem State.setPkg_tiles (s : State) (p : Nat) (x : Package) : (s.setPkg p x).tiles = s.tiles := rfl
@[simp] theorem State.setPkg_dies (s : State) (p : Nat) (x : Package) : (s.setPkg p x).dies = s.dies := rfl
@[simp] theorem State.setPkg_roots (s : State) (p : Nat) (x : Package) : (s.setPkg p x).roots = s.roots := rfl
@[simp] theorem State.setPkg_net (s : State) (p : Nat) (x : Package) : (s.setPkg p x).net = s.net := rfl
@[simp] theorem State.setPkg_answers (s : State) (p : Nat) (x : Package) : (s.setPkg p x).answers = s.answers := rfl
@[simp] theorem State.setPkg_transit (s : State) (p : Nat) (x : Package) : (s.setPkg p x).transit = s.transit := rfl
@[simp] theorem State.setPkg_actives (s : State) (p : Nat) (x : Package) : (s.setPkg p x).actives = s.actives := rfl
@[simp] theorem State.setPkg_agenda (s : State) (p : Nat) (x : Package) : (s.setPkg p x).agenda = s.agenda := rfl
@[simp] theorem State.setPkg_timers (s : State) (p : Nat) (x : Package) : (s.setPkg p x).timers = s.timers := rfl
@[simp] theorem State.setPkg_late (s : State) (p : Nat) (x : Package) : (s.setPkg p x).late = s.late := rfl
@[simp] theorem State.setPkg_cur (s : State) (p : Nat) (x : Package) : (s.setPkg p x).cur = s.cur := rfl
@[simp] theorem State.setPkg_ev (s : State) (p : Nat) (x : Package) : (s.setPkg p x).ev = s.ev := rfl
@[simp] theorem State.setPkg_data (s : State) (p : Nat) (x : Package) : (s.setPkg p x).data = s.data := rfl
@[simp] theorem State.setPkg_fresh (s : State) (p : Nat) (x : Package) : (s.setPkg p x).fresh = s.fresh := rfl
@[simp] theorem State.setPkg_free (s : State) (p : Nat) (x : Package) : (s.setPkg p x).free = s.free := rfl
@[simp] theorem State.tile_setPkg (s : State) (p : Nat) (x : Package) (u : Nat) : (s.setPkg p x).tile u = s.tile u := rfl
@[simp] theorem State.die_setPkg (s : State) (p : Nat) (x : Package) (u : Nat) : (s.setPkg p x).die u = s.die u := rfl
@[simp] theorem State.root_setPkg (s : State) (p : Nat) (x : Package) (u : Nat) : (s.setPkg p x).root u = s.root u := rfl
@[simp] theorem State.strand_setPkg (s : State) (p : Nat) (x : Package) (r : Ref) : (s.setPkg p x).strand r = s.strand r := by
  cases r <;> rfl

/-! ## `State.setRoot` -/

@[simp] theorem State.setRoot_mem (s : State) (a : Nat) (x : Root) : (s.setRoot a x).mem = s.mem := rfl
@[simp] theorem State.setRoot_poison (s : State) (a : Nat) (x : Root) : (s.setRoot a x).poison = s.poison := rfl
@[simp] theorem State.setRoot_hist (s : State) (a : Nat) (x : Root) : (s.setRoot a x).hist = s.hist := rfl
@[simp] theorem State.setRoot_clk (s : State) (a : Nat) (x : Root) : (s.setRoot a x).clk = s.clk := rfl
@[simp] theorem State.setRoot_podBase (s : State) (a : Nat) (x : Root) : (s.setRoot a x).podBase = s.podBase := rfl
@[simp] theorem State.setRoot_podPhase (s : State) (a : Nat) (x : Root) : (s.setRoot a x).podPhase = s.podPhase := rfl
@[simp] theorem State.setRoot_tiles (s : State) (a : Nat) (x : Root) : (s.setRoot a x).tiles = s.tiles := rfl
@[simp] theorem State.setRoot_dies (s : State) (a : Nat) (x : Root) : (s.setRoot a x).dies = s.dies := rfl
@[simp] theorem State.setRoot_pkgs (s : State) (a : Nat) (x : Root) : (s.setRoot a x).pkgs = s.pkgs := rfl
@[simp] theorem State.setRoot_net (s : State) (a : Nat) (x : Root) : (s.setRoot a x).net = s.net := rfl
@[simp] theorem State.setRoot_answers (s : State) (a : Nat) (x : Root) : (s.setRoot a x).answers = s.answers := rfl
@[simp] theorem State.setRoot_transit (s : State) (a : Nat) (x : Root) : (s.setRoot a x).transit = s.transit := rfl
@[simp] theorem State.setRoot_actives (s : State) (a : Nat) (x : Root) : (s.setRoot a x).actives = s.actives := rfl
@[simp] theorem State.setRoot_agenda (s : State) (a : Nat) (x : Root) : (s.setRoot a x).agenda = s.agenda := rfl
@[simp] theorem State.setRoot_timers (s : State) (a : Nat) (x : Root) : (s.setRoot a x).timers = s.timers := rfl
@[simp] theorem State.setRoot_late (s : State) (a : Nat) (x : Root) : (s.setRoot a x).late = s.late := rfl
@[simp] theorem State.setRoot_cur (s : State) (a : Nat) (x : Root) : (s.setRoot a x).cur = s.cur := rfl
@[simp] theorem State.setRoot_ev (s : State) (a : Nat) (x : Root) : (s.setRoot a x).ev = s.ev := rfl
@[simp] theorem State.setRoot_data (s : State) (a : Nat) (x : Root) : (s.setRoot a x).data = s.data := rfl
@[simp] theorem State.setRoot_fresh (s : State) (a : Nat) (x : Root) : (s.setRoot a x).fresh = s.fresh := rfl
@[simp] theorem State.setRoot_free (s : State) (a : Nat) (x : Root) : (s.setRoot a x).free = s.free := rfl
@[simp] theorem State.tile_setRoot (s : State) (a : Nat) (x : Root) (u : Nat) : (s.setRoot a x).tile u = s.tile u := rfl
@[simp] theorem State.die_setRoot (s : State) (a : Nat) (x : Root) (u : Nat) : (s.setRoot a x).die u = s.die u := rfl
@[simp] theorem State.pkg_setRoot (s : State) (a : Nat) (x : Root) (u : Nat) : (s.setRoot a x).pkg u = s.pkg u := rfl
@[simp] theorem State.strand_setRoot (s : State) (a : Nat) (x : Root) (r : Ref) : (s.setRoot a x).strand r = s.strand r := by
  cases r <;> rfl

/-! ## `State.post` -/

@[simp] theorem State.post_mem (s : State) (e : Instr) (x : EvArg) : (s.post e x).mem = s.mem := rfl
@[simp] theorem State.post_poison (s : State) (e : Instr) (x : EvArg) : (s.post e x).poison = s.poison := rfl
@[simp] theorem State.post_hist (s : State) (e : Instr) (x : EvArg) : (s.post e x).hist = s.hist := rfl
@[simp] theorem State.post_clk (s : State) (e : Instr) (x : EvArg) : (s.post e x).clk = s.clk := rfl
@[simp] theorem State.post_podBase (s : State) (e : Instr) (x : EvArg) : (s.post e x).podBase = s.podBase := rfl
@[simp] theorem State.post_podPhase (s : State) (e : Instr) (x : EvArg) : (s.post e x).podPhase = s.podPhase := rfl
@[simp] theorem State.post_tiles (s : State) (e : Instr) (x : EvArg) : (s.post e x).tiles = s.tiles := rfl
@[simp] theorem State.post_dies (s : State) (e : Instr) (x : EvArg) : (s.post e x).dies = s.dies := rfl
@[simp] theorem State.post_pkgs (s : State) (e : Instr) (x : EvArg) : (s.post e x).pkgs = s.pkgs := rfl
@[simp] theorem State.post_roots (s : State) (e : Instr) (x : EvArg) : (s.post e x).roots = s.roots := rfl
@[simp] theorem State.post_net (s : State) (e : Instr) (x : EvArg) : (s.post e x).net = s.net := rfl
@[simp] theorem State.post_answers (s : State) (e : Instr) (x : EvArg) : (s.post e x).answers = s.answers := rfl
@[simp] theorem State.post_transit (s : State) (e : Instr) (x : EvArg) : (s.post e x).transit = s.transit := rfl
@[simp] theorem State.post_actives (s : State) (e : Instr) (x : EvArg) : (s.post e x).actives = s.actives := rfl
@[simp] theorem State.post_timers (s : State) (e : Instr) (x : EvArg) : (s.post e x).timers = s.timers := rfl
@[simp] theorem State.post_late (s : State) (e : Instr) (x : EvArg) : (s.post e x).late = s.late := rfl
@[simp] theorem State.post_cur (s : State) (e : Instr) (x : EvArg) : (s.post e x).cur = s.cur := rfl
@[simp] theorem State.post_ev (s : State) (e : Instr) (x : EvArg) : (s.post e x).ev = s.ev := rfl
@[simp] theorem State.post_data (s : State) (e : Instr) (x : EvArg) : (s.post e x).data = s.data := rfl
@[simp] theorem State.post_fresh (s : State) (e : Instr) (x : EvArg) : (s.post e x).fresh = s.fresh := rfl
@[simp] theorem State.post_free (s : State) (e : Instr) (x : EvArg) : (s.post e x).free = s.free := rfl
@[simp] theorem State.tile_post (s : State) (e : Instr) (x : EvArg) (u : Nat) : (s.post e x).tile u = s.tile u := rfl
@[simp] theorem State.die_post (s : State) (e : Instr) (x : EvArg) (u : Nat) : (s.post e x).die u = s.die u := rfl
@[simp] theorem State.pkg_post (s : State) (e : Instr) (x : EvArg) (u : Nat) : (s.post e x).pkg u = s.pkg u := rfl
@[simp] theorem State.root_post (s : State) (e : Instr) (x : EvArg) (u : Nat) : (s.post e x).root u = s.root u := rfl
@[simp] theorem State.strand_post (s : State) (e : Instr) (x : EvArg) (r : Ref) : (s.post e x).strand r = s.strand r := by
  cases r <;> rfl

/-! ## `State.atEnd` -/

@[simp] theorem State.atEnd_mem (s : State) (e : Instr) (x : EvArg) : (s.atEnd e x).mem = s.mem := rfl
@[simp] theorem State.atEnd_poison (s : State) (e : Instr) (x : EvArg) : (s.atEnd e x).poison = s.poison := rfl
@[simp] theorem State.atEnd_hist (s : State) (e : Instr) (x : EvArg) : (s.atEnd e x).hist = s.hist := rfl
@[simp] theorem State.atEnd_clk (s : State) (e : Instr) (x : EvArg) : (s.atEnd e x).clk = s.clk := rfl
@[simp] theorem State.atEnd_podBase (s : State) (e : Instr) (x : EvArg) : (s.atEnd e x).podBase = s.podBase := rfl
@[simp] theorem State.atEnd_podPhase (s : State) (e : Instr) (x : EvArg) : (s.atEnd e x).podPhase = s.podPhase := rfl
@[simp] theorem State.atEnd_tiles (s : State) (e : Instr) (x : EvArg) : (s.atEnd e x).tiles = s.tiles := rfl
@[simp] theorem State.atEnd_dies (s : State) (e : Instr) (x : EvArg) : (s.atEnd e x).dies = s.dies := rfl
@[simp] theorem State.atEnd_pkgs (s : State) (e : Instr) (x : EvArg) : (s.atEnd e x).pkgs = s.pkgs := rfl
@[simp] theorem State.atEnd_roots (s : State) (e : Instr) (x : EvArg) : (s.atEnd e x).roots = s.roots := rfl
@[simp] theorem State.atEnd_net (s : State) (e : Instr) (x : EvArg) : (s.atEnd e x).net = s.net := rfl
@[simp] theorem State.atEnd_answers (s : State) (e : Instr) (x : EvArg) : (s.atEnd e x).answers = s.answers := rfl
@[simp] theorem State.atEnd_transit (s : State) (e : Instr) (x : EvArg) : (s.atEnd e x).transit = s.transit := rfl
@[simp] theorem State.atEnd_actives (s : State) (e : Instr) (x : EvArg) : (s.atEnd e x).actives = s.actives := rfl
@[simp] theorem State.atEnd_timers (s : State) (e : Instr) (x : EvArg) : (s.atEnd e x).timers = s.timers := rfl
@[simp] theorem State.atEnd_agenda (s : State) (e : Instr) (x : EvArg) : (s.atEnd e x).agenda = s.agenda := rfl
@[simp] theorem State.atEnd_cur (s : State) (e : Instr) (x : EvArg) : (s.atEnd e x).cur = s.cur := rfl
@[simp] theorem State.atEnd_ev (s : State) (e : Instr) (x : EvArg) : (s.atEnd e x).ev = s.ev := rfl
@[simp] theorem State.atEnd_data (s : State) (e : Instr) (x : EvArg) : (s.atEnd e x).data = s.data := rfl
@[simp] theorem State.atEnd_fresh (s : State) (e : Instr) (x : EvArg) : (s.atEnd e x).fresh = s.fresh := rfl
@[simp] theorem State.atEnd_free (s : State) (e : Instr) (x : EvArg) : (s.atEnd e x).free = s.free := rfl
@[simp] theorem State.tile_atEnd (s : State) (e : Instr) (x : EvArg) (u : Nat) : (s.atEnd e x).tile u = s.tile u := rfl
@[simp] theorem State.die_atEnd (s : State) (e : Instr) (x : EvArg) (u : Nat) : (s.atEnd e x).die u = s.die u := rfl
@[simp] theorem State.pkg_atEnd (s : State) (e : Instr) (x : EvArg) (u : Nat) : (s.atEnd e x).pkg u = s.pkg u := rfl
@[simp] theorem State.root_atEnd (s : State) (e : Instr) (x : EvArg) (u : Nat) : (s.atEnd e x).root u = s.root u := rfl
@[simp] theorem State.strand_atEnd (s : State) (e : Instr) (x : EvArg) (r : Ref) : (s.atEnd e x).strand r = s.strand r := by
  cases r <;> rfl

/-! ## `State.later` -/

@[simp] theorem State.later_mem (s : State) (n : Nat) (e : Instr) (x : EvArg) : (s.later n e x).mem = s.mem := rfl
@[simp] theorem State.later_poison (s : State) (n : Nat) (e : Instr) (x : EvArg) : (s.later n e x).poison = s.poison := rfl
@[simp] theorem State.later_hist (s : State) (n : Nat) (e : Instr) (x : EvArg) : (s.later n e x).hist = s.hist := rfl
@[simp] theorem State.later_clk (s : State) (n : Nat) (e : Instr) (x : EvArg) : (s.later n e x).clk = s.clk := rfl
@[simp] theorem State.later_podBase (s : State) (n : Nat) (e : Instr) (x : EvArg) : (s.later n e x).podBase = s.podBase := rfl
@[simp] theorem State.later_podPhase (s : State) (n : Nat) (e : Instr) (x : EvArg) : (s.later n e x).podPhase = s.podPhase := rfl
@[simp] theorem State.later_tiles (s : State) (n : Nat) (e : Instr) (x : EvArg) : (s.later n e x).tiles = s.tiles := rfl
@[simp] theorem State.later_dies (s : State) (n : Nat) (e : Instr) (x : EvArg) : (s.later n e x).dies = s.dies := rfl
@[simp] theorem State.later_pkgs (s : State) (n : Nat) (e : Instr) (x : EvArg) : (s.later n e x).pkgs = s.pkgs := rfl
@[simp] theorem State.later_roots (s : State) (n : Nat) (e : Instr) (x : EvArg) : (s.later n e x).roots = s.roots := rfl
@[simp] theorem State.later_net (s : State) (n : Nat) (e : Instr) (x : EvArg) : (s.later n e x).net = s.net := rfl
@[simp] theorem State.later_answers (s : State) (n : Nat) (e : Instr) (x : EvArg) : (s.later n e x).answers = s.answers := rfl
@[simp] theorem State.later_transit (s : State) (n : Nat) (e : Instr) (x : EvArg) : (s.later n e x).transit = s.transit := rfl
@[simp] theorem State.later_actives (s : State) (n : Nat) (e : Instr) (x : EvArg) : (s.later n e x).actives = s.actives := rfl
@[simp] theorem State.later_agenda (s : State) (n : Nat) (e : Instr) (x : EvArg) : (s.later n e x).agenda = s.agenda := rfl
@[simp] theorem State.later_late (s : State) (n : Nat) (e : Instr) (x : EvArg) : (s.later n e x).late = s.late := rfl
@[simp] theorem State.later_cur (s : State) (n : Nat) (e : Instr) (x : EvArg) : (s.later n e x).cur = s.cur := rfl
@[simp] theorem State.later_ev (s : State) (n : Nat) (e : Instr) (x : EvArg) : (s.later n e x).ev = s.ev := rfl
@[simp] theorem State.later_data (s : State) (n : Nat) (e : Instr) (x : EvArg) : (s.later n e x).data = s.data := rfl
@[simp] theorem State.later_fresh (s : State) (n : Nat) (e : Instr) (x : EvArg) : (s.later n e x).fresh = s.fresh := rfl
@[simp] theorem State.later_free (s : State) (n : Nat) (e : Instr) (x : EvArg) : (s.later n e x).free = s.free := rfl
@[simp] theorem State.tile_later (s : State) (n : Nat) (e : Instr) (x : EvArg) (u : Nat) : (s.later n e x).tile u = s.tile u := rfl
@[simp] theorem State.die_later (s : State) (n : Nat) (e : Instr) (x : EvArg) (u : Nat) : (s.later n e x).die u = s.die u := rfl
@[simp] theorem State.pkg_later (s : State) (n : Nat) (e : Instr) (x : EvArg) (u : Nat) : (s.later n e x).pkg u = s.pkg u := rfl
@[simp] theorem State.root_later (s : State) (n : Nat) (e : Instr) (x : EvArg) (u : Nat) : (s.later n e x).root u = s.root u := rfl
@[simp] theorem State.strand_later (s : State) (n : Nat) (e : Instr) (x : EvArg) (r : Ref) : (s.later n e x).strand r = s.strand r := by
  cases r <;> rfl

@[simp] theorem State.tile_setTile_same (s : State) (t : Nat) (x : Tile) : (s.setTile t x).tile t = x :=
  Table.get_put_same s.tiles Tile.reset x t

theorem State.tile_setTile_other (s : State) {t u : Nat} (x : Tile) (h : u ≠ t) : (s.setTile t x).tile u = s.tile u :=
  Table.get_put_other s.tiles Tile.reset x h

theorem State.tile_setTile (s : State) (t u : Nat) (x : Tile) :
    (s.setTile t x).tile u = if u = t then x else s.tile u := Table.get_put s.tiles Tile.reset x t u

@[simp] theorem State.die_setDie_same (s : State) (d : Nat) (x : Die) : (s.setDie d x).die d = x :=
  Table.get_put_same s.dies Die.reset x d

theorem State.die_setDie_other (s : State) {d u : Nat} (x : Die) (h : u ≠ d) : (s.setDie d x).die u = s.die u :=
  Table.get_put_other s.dies Die.reset x h

theorem State.die_setDie (s : State) (d u : Nat) (x : Die) :
    (s.setDie d x).die u = if u = d then x else s.die u := Table.get_put s.dies Die.reset x d u

@[simp] theorem State.pkg_setPkg_same (s : State) (p : Nat) (x : Package) : (s.setPkg p x).pkg p = x :=
  Table.get_put_same s.pkgs Package.reset x p

theorem State.pkg_setPkg_other (s : State) {p u : Nat} (x : Package) (h : u ≠ p) : (s.setPkg p x).pkg u = s.pkg u :=
  Table.get_put_other s.pkgs Package.reset x h

theorem State.pkg_setPkg (s : State) (p u : Nat) (x : Package) :
    (s.setPkg p x).pkg u = if u = p then x else s.pkg u := Table.get_put s.pkgs Package.reset x p u

@[simp] theorem State.root_setRoot_same (s : State) (a : Nat) (x : Root) : (s.setRoot a x).root a = x :=
  Table.get_put_same s.roots Root.reset x a

theorem State.root_setRoot_other (s : State) {a u : Nat} (x : Root) (h : u ≠ a) : (s.setRoot a x).root u = s.root u :=
  Table.get_put_other s.roots Root.reset x h

theorem State.root_setRoot (s : State) (a u : Nat) (x : Root) :
    (s.setRoot a x).root u = if u = a then x else s.root u := Table.get_put s.roots Root.reset x a u

/-! ## `State.setStrand` -/

@[simp] theorem State.setStrand_mem (s : State) (r : Ref) (x : Strand) : (s.setStrand r x).mem = s.mem := by
  cases r <;> rfl
@[simp] theorem State.setStrand_poison (s : State) (r : Ref) (x : Strand) : (s.setStrand r x).poison = s.poison := by
  cases r <;> rfl
@[simp] theorem State.setStrand_hist (s : State) (r : Ref) (x : Strand) : (s.setStrand r x).hist = s.hist := by
  cases r <;> rfl
@[simp] theorem State.setStrand_clk (s : State) (r : Ref) (x : Strand) : (s.setStrand r x).clk = s.clk := by
  cases r <;> rfl
@[simp] theorem State.setStrand_podBase (s : State) (r : Ref) (x : Strand) : (s.setStrand r x).podBase = s.podBase := by
  cases r <;> rfl
@[simp] theorem State.setStrand_podPhase (s : State) (r : Ref) (x : Strand) : (s.setStrand r x).podPhase = s.podPhase := by
  cases r <;> rfl
@[simp] theorem State.setStrand_pkgs (s : State) (r : Ref) (x : Strand) : (s.setStrand r x).pkgs = s.pkgs := by
  cases r <;> rfl
@[simp] theorem State.setStrand_roots (s : State) (r : Ref) (x : Strand) : (s.setStrand r x).roots = s.roots := by
  cases r <;> rfl
@[simp] theorem State.setStrand_net (s : State) (r : Ref) (x : Strand) : (s.setStrand r x).net = s.net := by
  cases r <;> rfl
@[simp] theorem State.setStrand_answers (s : State) (r : Ref) (x : Strand) : (s.setStrand r x).answers = s.answers := by
  cases r <;> rfl
@[simp] theorem State.setStrand_transit (s : State) (r : Ref) (x : Strand) : (s.setStrand r x).transit = s.transit := by
  cases r <;> rfl
@[simp] theorem State.setStrand_actives (s : State) (r : Ref) (x : Strand) : (s.setStrand r x).actives = s.actives := by
  cases r <;> rfl
@[simp] theorem State.setStrand_agenda (s : State) (r : Ref) (x : Strand) : (s.setStrand r x).agenda = s.agenda := by
  cases r <;> rfl
@[simp] theorem State.setStrand_timers (s : State) (r : Ref) (x : Strand) : (s.setStrand r x).timers = s.timers := by
  cases r <;> rfl
@[simp] theorem State.setStrand_late (s : State) (r : Ref) (x : Strand) : (s.setStrand r x).late = s.late := by
  cases r <;> rfl
@[simp] theorem State.setStrand_cur (s : State) (r : Ref) (x : Strand) : (s.setStrand r x).cur = s.cur := by
  cases r <;> rfl
@[simp] theorem State.setStrand_ev (s : State) (r : Ref) (x : Strand) : (s.setStrand r x).ev = s.ev := by
  cases r <;> rfl
@[simp] theorem State.setStrand_data (s : State) (r : Ref) (x : Strand) : (s.setStrand r x).data = s.data := by
  cases r <;> rfl
@[simp] theorem State.setStrand_fresh (s : State) (r : Ref) (x : Strand) : (s.setStrand r x).fresh = s.fresh := by
  cases r <;> rfl
@[simp] theorem State.setStrand_free (s : State) (r : Ref) (x : Strand) : (s.setStrand r x).free = s.free := by
  cases r <;> rfl
@[simp] theorem State.pkg_setStrand (s : State) (r : Ref) (x : Strand) (u : Nat) : (s.setStrand r x).pkg u = s.pkg u := by
  cases r <;> rfl
@[simp] theorem State.root_setStrand (s : State) (r : Ref) (x : Strand) (u : Nat) : (s.setStrand r x).root u = s.root u := by
  cases r <;> rfl

@[simp] theorem State.strand_setStrand_same (s : State) (r : Ref) (x : Strand) : (s.setStrand r x).strand r = some x := by
  cases r <;> simp [State.setStrand, State.strand, State.modTile, State.modDie]

theorem State.strand_setStrand_other (s : State) {r q : Ref} (x : Strand) (h : q ≠ r) :
    (s.setStrand r x).strand q = s.strand q := by
  cases r with
  | tile t k =>
    cases q with
    | tile u j =>
      simp only [State.setStrand, State.strand, State.modTile, State.tile_setTile]
      split
      · next hu =>
        subst hu
        exact Table.find_ins_other _ _ (fun hj => h (by rw [hj]))
      · rfl
    | sup u j => rfl
  | sup d k =>
    cases q with
    | tile u j => rfl
    | sup u j =>
      simp only [State.setStrand, State.strand, State.modDie, State.die_setDie]
      split
      · next hu =>
        subst hu
        exact Table.find_ins_other _ _ (fun hj => h (by rw [hj]))
      · rfl

/-- A tile after its strand is stored: only the slots differ. -/
theorem State.tile_setStrand (s : State) (t k : Nat) (x : Strand) (u : Nat) :
    (s.setStrand (.tile t k) x).tile u =
      if u = t then { s.tile t with strands := (s.tile t).strands.ins k x } else s.tile u := by
  simp only [State.setStrand, State.modTile, State.tile_setTile]

@[simp] theorem State.die_setStrand_tile (s : State) (t k : Nat) (x : Strand) (d : Nat) :
    (s.setStrand (.tile t k) x).die d = s.die d := rfl

@[simp] theorem State.tile_setStrand_sup (s : State) (d k : Nat) (x : Strand) (u : Nat) :
    (s.setStrand (.sup d k) x).tile u = s.tile u := rfl

/-- A die after its supervisor strand is stored: only the supervisor slots differ. -/
theorem State.die_setStrand_sup (s : State) (d k : Nat) (x : Strand) (u : Nat) :
    (s.setStrand (.sup d k) x).die u =
      if u = d then { s.die d with sups := (s.die d).sups.ins k x } else s.die u := by
  simp only [State.setStrand, State.modDie, State.die_setDie]

/-- Storing a strand changes no team. -/
@[simp] theorem State.team_setStrand (s : State) (r : Ref) (x : Strand) (u : Nat) :
    (s.setStrand r x).team u = s.team u := by
  cases r with
  | tile t k =>
    simp only [State.team, State.tile_setStrand]
    split
    · next h => subst h; rfl
    · rfl
  | sup d k => rfl

/-! ## Registers of a strand -/

@[simp] theorem Strand.rd_wr_same (st : Strand) (i : GReg) (v : W64) : (st.wr i v).rd i = v := by
  simp [Strand.rd, Strand.wr]

theorem Strand.rd_wr_other (st : Strand) {i j : GReg} (v : W64) (h : j ≠ i) : (st.wr i v).rd j = st.rd j := by
  have hn : i.toNat ≠ j.toNat := fun e => h (BitVec.eq_of_toNat_eq e.symm)
  simp only [Strand.rd, Strand.wr]
  exact Vector.getElem_set_ne i.isLt j.isLt hn

theorem Strand.rd_wr (st : Strand) (i j : GReg) (v : W64) : (st.wr i v).rd j = if j = i then v else st.rd j := by
  split
  · next h => subst h; simp
  · next h => exact Strand.rd_wr_other st v h

@[simp] theorem Strand.wr_uid (st : Strand) (i : GReg) (v : W64) : (st.wr i v).uid = st.uid := rfl
@[simp] theorem Strand.wr_asid (st : Strand) (i : GReg) (v : W64) : (st.wr i v).asid = st.asid := rfl
@[simp] theorem Strand.wr_kind (st : Strand) (i : GReg) (v : W64) : (st.wr i v).kind = st.kind := rfl
@[simp] theorem Strand.wr_origin (st : Strand) (i : GReg) (v : W64) : (st.wr i v).origin = st.origin := rfl
@[simp] theorem Strand.wr_rank (st : Strand) (i : GReg) (v : W64) : (st.wr i v).rank = st.rank := rfl
@[simp] theorem Strand.wr_pc (st : Strand) (i : GReg) (v : W64) : (st.wr i v).pc = st.pc := rfl
@[simp] theorem Strand.wr_cls (st : Strand) (i : GReg) (v : W64) : (st.wr i v).cls = st.cls := rfl
@[simp] theorem Strand.wr_run (st : Strand) (i : GReg) (v : W64) : (st.wr i v).run = st.run := rfl
@[simp] theorem Strand.wr_stepping (st : Strand) (i : GReg) (v : W64) : (st.wr i v).stepping = st.stepping := rfl
@[simp] theorem Strand.wr_hold (st : Strand) (i : GReg) (v : W64) : (st.wr i v).hold = st.hold := rfl
@[simp] theorem Strand.wr_since (st : Strand) (i : GReg) (v : W64) : (st.wr i v).since = st.since := rfl
@[simp] theorem Strand.wr_fetch (st : Strand) (i : GReg) (v : W64) : (st.wr i v).fetch = st.fetch := rfl
@[simp] theorem Strand.wr_toks (st : Strand) (i : GReg) (v : W64) : (st.wr i v).toks = st.toks := rfl
@[simp] theorem Strand.wr_children (st : Strand) (i : GReg) (v : W64) : (st.wr i v).children = st.children := rfl
@[simp] theorem Strand.wr_parent (st : Strand) (i : GReg) (v : W64) : (st.wr i v).parent = st.parent := rfl
@[simp] theorem Strand.wr_block (st : Strand) (i : GReg) (v : W64) : (st.wr i v).block = st.block := rfl
@[simp] theorem Strand.wr_edition (st : Strand) (i : GReg) (v : W64) : (st.wr i v).edition = st.edition := rfl
@[simp] theorem Strand.wr_steal (st : Strand) (i : GReg) (v : W64) : (st.wr i v).steal = st.steal := rfl
@[simp] theorem Strand.wr_imp (st : Strand) (i : GReg) (v : W64) : (st.wr i v).imp = st.imp := rfl
@[simp] theorem Strand.wr_acq (st : Strand) (i : GReg) (v : W64) : (st.wr i v).acq = st.acq := rfl
@[simp] theorem Strand.wr_born (st : Strand) (i : GReg) (v : W64) : (st.wr i v).born = st.born := rfl
@[simp] theorem Strand.wr_lastIssue (st : Strand) (i : GReg) (v : W64) : (st.wr i v).lastIssue = st.lastIssue := rfl
@[simp] theorem Strand.wr_ready (st : Strand) (i : GReg) (v : W64) : (st.wr i v).ready = st.ready := rfl
@[simp] theorem Strand.wr_regAt (st : Strand) (i : GReg) (v : W64) : (st.wr i v).regAt = st.regAt := rfl
@[simp] theorem Strand.wr_passed (st : Strand) (i : GReg) (v : W64) : (st.wr i v).passed = st.passed := rfl
@[simp] theorem Strand.wr_pkt (st : Strand) (i : GReg) (v : W64) : (st.wr i v).pkt = st.pkt := rfl
@[simp] theorem Strand.wr_arrival (st : Strand) (i : GReg) (v : W64) : (st.wr i v).arrival = st.arrival := rfl
@[simp] theorem Strand.wr_started (st : Strand) (i : GReg) (v : W64) : (st.wr i v).started = st.started := rfl
@[simp] theorem Strand.wr_mustAcquire (st : Strand) (i : GReg) (v : W64) : (st.wr i v).mustAcquire = st.mustAcquire := rfl
@[simp] theorem Strand.wr_after (st : Strand) (i : GReg) (v : W64) : (st.wr i v).after = st.after := rfl

@[simp] theorem Strand.retired_uid (st : Strand) (p : W64) : (st.retired p).uid = st.uid := rfl
@[simp] theorem Strand.retired_asid (st : Strand) (p : W64) : (st.retired p).asid = st.asid := rfl
@[simp] theorem Strand.retired_kind (st : Strand) (p : W64) : (st.retired p).kind = st.kind := rfl
@[simp] theorem Strand.retired_origin (st : Strand) (p : W64) : (st.retired p).origin = st.origin := rfl
@[simp] theorem Strand.retired_rank (st : Strand) (p : W64) : (st.retired p).rank = st.rank := rfl
@[simp] theorem Strand.retired_g (st : Strand) (p : W64) : (st.retired p).g = st.g := rfl
@[simp] theorem Strand.retired_cls (st : Strand) (p : W64) : (st.retired p).cls = st.cls := rfl
@[simp] theorem Strand.retired_since (st : Strand) (p : W64) : (st.retired p).since = st.since := rfl
@[simp] theorem Strand.retired_fetch (st : Strand) (p : W64) : (st.retired p).fetch = st.fetch := rfl
@[simp] theorem Strand.retired_toks (st : Strand) (p : W64) : (st.retired p).toks = st.toks := rfl
@[simp] theorem Strand.retired_children (st : Strand) (p : W64) : (st.retired p).children = st.children := rfl
@[simp] theorem Strand.retired_parent (st : Strand) (p : W64) : (st.retired p).parent = st.parent := rfl
@[simp] theorem Strand.retired_block (st : Strand) (p : W64) : (st.retired p).block = st.block := rfl
@[simp] theorem Strand.retired_edition (st : Strand) (p : W64) : (st.retired p).edition = st.edition := rfl
@[simp] theorem Strand.retired_steal (st : Strand) (p : W64) : (st.retired p).steal = st.steal := rfl
@[simp] theorem Strand.retired_imp (st : Strand) (p : W64) : (st.retired p).imp = st.imp := rfl
@[simp] theorem Strand.retired_acq (st : Strand) (p : W64) : (st.retired p).acq = st.acq := rfl
@[simp] theorem Strand.retired_born (st : Strand) (p : W64) : (st.retired p).born = st.born := rfl
@[simp] theorem Strand.retired_lastIssue (st : Strand) (p : W64) : (st.retired p).lastIssue = st.lastIssue := rfl
@[simp] theorem Strand.retired_regAt (st : Strand) (p : W64) : (st.retired p).regAt = st.regAt := rfl
@[simp] theorem Strand.retired_pkt (st : Strand) (p : W64) : (st.retired p).pkt = st.pkt := rfl
@[simp] theorem Strand.retired_arrival (st : Strand) (p : W64) : (st.retired p).arrival = st.arrival := rfl
@[simp] theorem Strand.retired_started (st : Strand) (p : W64) : (st.retired p).started = st.started := rfl
@[simp] theorem Strand.retired_mustAcquire (st : Strand) (p : W64) : (st.retired p).mustAcquire = st.mustAcquire := rfl
@[simp] theorem Strand.retired_pc (st : Strand) (p : W64) : (st.retired p).pc = p := rfl
@[simp] theorem Strand.retired_hold (st : Strand) (p : W64) : (st.retired p).hold = none := rfl
@[simp] theorem Strand.retired_stepping (st : Strand) (p : W64) : (st.retired p).stepping = false := rfl
@[simp] theorem Strand.rd_retired (st : Strand) (p : W64) (i : GReg) : (st.retired p).rd i = st.rd i := rfl
@[simp] theorem Strand.after_retired (st : Strand) (p : W64) : (st.retired p).after = st.after := rfl

@[simp] theorem Strand.notBefore_uid (st : Strand) (n : Nat) : (st.notBefore n).uid = st.uid := rfl
@[simp] theorem Strand.notBefore_asid (st : Strand) (n : Nat) : (st.notBefore n).asid = st.asid := rfl
@[simp] theorem Strand.notBefore_kind (st : Strand) (n : Nat) : (st.notBefore n).kind = st.kind := rfl
@[simp] theorem Strand.notBefore_origin (st : Strand) (n : Nat) : (st.notBefore n).origin = st.origin := rfl
@[simp] theorem Strand.notBefore_rank (st : Strand) (n : Nat) : (st.notBefore n).rank = st.rank := rfl
@[simp] theorem Strand.notBefore_g (st : Strand) (n : Nat) : (st.notBefore n).g = st.g := rfl
@[simp] theorem Strand.notBefore_pc (st : Strand) (n : Nat) : (st.notBefore n).pc = st.pc := rfl
@[simp] theorem Strand.notBefore_cls (st : Strand) (n : Nat) : (st.notBefore n).cls = st.cls := rfl
@[simp] theorem Strand.notBefore_run (st : Strand) (n : Nat) : (st.notBefore n).run = st.run := rfl
@[simp] theorem Strand.notBefore_stepping (st : Strand) (n : Nat) : (st.notBefore n).stepping = st.stepping := rfl
@[simp] theorem Strand.notBefore_hold (st : Strand) (n : Nat) : (st.notBefore n).hold = st.hold := rfl
@[simp] theorem Strand.notBefore_since (st : Strand) (n : Nat) : (st.notBefore n).since = st.since := rfl
@[simp] theorem Strand.notBefore_fetch (st : Strand) (n : Nat) : (st.notBefore n).fetch = st.fetch := rfl
@[simp] theorem Strand.notBefore_toks (st : Strand) (n : Nat) : (st.notBefore n).toks = st.toks := rfl
@[simp] theorem Strand.notBefore_children (st : Strand) (n : Nat) : (st.notBefore n).children = st.children := rfl
@[simp] theorem Strand.notBefore_parent (st : Strand) (n : Nat) : (st.notBefore n).parent = st.parent := rfl
@[simp] theorem Strand.notBefore_block (st : Strand) (n : Nat) : (st.notBefore n).block = st.block := rfl
@[simp] theorem Strand.notBefore_edition (st : Strand) (n : Nat) : (st.notBefore n).edition = st.edition := rfl
@[simp] theorem Strand.notBefore_steal (st : Strand) (n : Nat) : (st.notBefore n).steal = st.steal := rfl
@[simp] theorem Strand.notBefore_imp (st : Strand) (n : Nat) : (st.notBefore n).imp = st.imp := rfl
@[simp] theorem Strand.notBefore_acq (st : Strand) (n : Nat) : (st.notBefore n).acq = st.acq := rfl
@[simp] theorem Strand.notBefore_born (st : Strand) (n : Nat) : (st.notBefore n).born = st.born := rfl
@[simp] theorem Strand.notBefore_lastIssue (st : Strand) (n : Nat) : (st.notBefore n).lastIssue = st.lastIssue := rfl
@[simp] theorem Strand.notBefore_regAt (st : Strand) (n : Nat) : (st.notBefore n).regAt = st.regAt := rfl
@[simp] theorem Strand.notBefore_passed (st : Strand) (n : Nat) : (st.notBefore n).passed = st.passed := rfl
@[simp] theorem Strand.notBefore_pkt (st : Strand) (n : Nat) : (st.notBefore n).pkt = st.pkt := rfl
@[simp] theorem Strand.notBefore_arrival (st : Strand) (n : Nat) : (st.notBefore n).arrival = st.arrival := rfl
@[simp] theorem Strand.notBefore_started (st : Strand) (n : Nat) : (st.notBefore n).started = st.started := rfl
@[simp] theorem Strand.notBefore_mustAcquire (st : Strand) (n : Nat) : (st.notBefore n).mustAcquire = st.mustAcquire := rfl
@[simp] theorem Strand.rd_notBefore (st : Strand) (n : Nat) (i : GReg) : (st.notBefore n).rd i = st.rd i := rfl
@[simp] theorem Strand.after_notBefore (st : Strand) (n : Nat) : (st.notBefore n).after = st.after := rfl

/-! ## Reset -/

/-- Memory after reset is in canonical form. -/
theorem State.reset_mem_wf : Memory.wf State.reset.mem = true := rfl

end Sys2Proof.Machine
end

