-- ==== Sys2Proof/Laws/Ops.lean ====
section
/-! SUPPORT. Laws of the shared operations: what each can do, said once (withCur, withTeam, userOnly, complete, holdAt,
trace, trap, acquire, release, wake). -/
namespace Sys2Proof.Machine

/-! ## Running a meaning -/

theorem State.withCur_some {s : State} {st : Strand} (f : Strand → State) (h : s.strand s.cur = some st) :
    s.withCur f = .next (f st) := by
  unfold State.withCur; rw [h]

theorem State.withCur_none {s : State} (f : Strand → State) (h : s.strand s.cur = none) :
    s.withCur f = .fault .noStrand := by
  unfold State.withCur; rw [h]

/-- A meaning run on the issuing strand answers a next state exactly when a strand issues. -/
theorem State.withCur_next {s t : State} {f : Strand → State} (h : s.withCur f = .next t) :
    ∃ st, s.strand s.cur = some st ∧ t = f st := by
  unfold State.withCur at h
  split at h
  · cases h
  · next st hs => exact ⟨st, hs, by simpa using (Host.Outcome.next.inj h).symm⟩

theorem State.withTeam_anchored {s : State} {st : Strand} {t k : Nat} {m : Team} (f : Nat → Team → State)
    (hc : s.cur = .tile t k) (hk : st.kind = .anchored) (hm : s.team t = some m) : s.withTeam st f = f t m := by
  unfold State.withTeam; simp [hc, hk, hm]

theorem State.withTeam_light {s : State} {st : Strand} {t k : Nat} (f : Nat → Team → State)
    (hc : s.cur = .tile t k) (hk : st.kind ≠ .anchored) : s.withTeam st f = s.raise st fcNotAnchored 0 := by
  unfold State.withTeam
  cases hst : st.kind <;> simp_all

theorem State.withTeam_sup {s : State} {st : Strand} {d k : Nat} (f : Nat → Team → State)
    (hc : s.cur = .sup d k) : s.withTeam st f = s.raise st fcStrandKind 0 := by
  unfold State.withTeam; simp [hc]

theorem State.userOnly_tile {s : State} {st : Strand} {t k : Nat} (f : Nat → State) (hc : s.cur = .tile t k) :
    s.userOnly st f = f t := by
  unfold State.userOnly; simp [hc]

theorem State.userOnly_sup {s : State} {st : Strand} {d k : Nat} (f : Nat → State) (hc : s.cur = .sup d k) :
    s.userOnly st f = s.raise st fcStrandKind 0 := by
  unfold State.userOnly; simp [hc]

/-! ## Completing and holding -/

/-- A retirement stores the strand with its PC moved on, and nothing else. -/
theorem State.complete_eq (s : State) (r : Ref) (st : Strand) : s.complete r st = s.setStrand r (st.retired st.after) :=
  rfl

theorem State.retire_eq (s : State) (st : Strand) : s.retire st = s.setStrand s.cur (st.retired st.after) := rfl

theorem State.jump_eq (s : State) (st : Strand) (pc : W64) : s.jump st pc = s.setStrand s.cur (st.retired pc) := rfl

@[simp] theorem State.retire_mem (s : State) (st : Strand) : (s.retire st).mem = s.mem := by simp [State.retire_eq]
@[simp] theorem State.complete_mem (s : State) (r : Ref) (st : Strand) : (s.complete r st).mem = s.mem := by
  simp [State.complete_eq]
@[simp] theorem State.jump_mem (s : State) (st : Strand) (pc : W64) : (s.jump st pc).mem = s.mem := by
  simp [State.jump_eq]

@[simp] theorem State.retire_cur (s : State) (st : Strand) : (s.retire st).cur = s.cur := by simp [State.retire_eq]
@[simp] theorem State.complete_cur (s : State) (r : Ref) (st : Strand) : (s.complete r st).cur = s.cur := by
  simp [State.complete_eq]

@[simp] theorem State.strand_retire (s : State) (st : Strand) :
    (s.retire st).strand s.cur = some (st.retired st.after) := by simp [State.retire_eq]

@[simp] theorem State.team_retire (s : State) (st : Strand) (u : Nat) : (s.retire st).team u = s.team u := by
  simp [State.retire_eq]

@[simp] theorem State.team_complete (s : State) (r : Ref) (st : Strand) (u : Nat) :
    (s.complete r st).team u = s.team u := by simp [State.complete_eq]

/-- A hold stores the strand with its hold and takes the next order number. -/
theorem State.holdAt_eq (s : State) (r : Ref) (st : Strand) (h : Hold) :
    s.holdAt r st h = { s.setStrand r { st with hold := some h, since := s.fresh } with fresh := s.fresh + 1 } := rfl

@[simp] theorem State.holdAt_mem (s : State) (r : Ref) (st : Strand) (h : Hold) : (s.holdAt r st h).mem = s.mem := by
  simp [State.holdAt_eq]
@[simp] theorem State.holdAt_cur (s : State) (r : Ref) (st : Strand) (h : Hold) : (s.holdAt r st h).cur = s.cur := by
  simp [State.holdAt_eq]
@[simp] theorem State.holdCur_mem (s : State) (st : Strand) (h : Hold) : (s.holdCur st h).mem = s.mem := by
  simp [State.holdCur]
@[simp] theorem State.holdCur_cur (s : State) (st : Strand) (h : Hold) : (s.holdCur st h).cur = s.cur := by
  simp [State.holdCur]

@[simp] theorem State.strand_holdAt (s : State) (r : Ref) (st : Strand) (h : Hold) :
    (s.holdAt r st h).strand r = some { st with hold := some h, since := s.fresh } := by
  have := State.strand_setStrand_same s r { st with hold := some h, since := s.fresh }
  cases r <;> exact this

@[simp] theorem State.strand_holdCur (s : State) (st : Strand) (h : Hold) :
    (s.holdCur st h).strand s.cur = some { st with hold := some h, since := s.fresh } := State.strand_holdAt s s.cur st h

theorem State.strand_holdAt_other (s : State) {r q : Ref} (st : Strand) (h : Hold) (hq : q ≠ r) :
    (s.holdAt r st h).strand q = s.strand q := by
  have := State.strand_setStrand_other s (r := r) (q := q) { st with hold := some h, since := s.fresh } hq
  rw [← this]
  cases q <;> rfl

@[simp] theorem State.team_holdAt (s : State) (r : Ref) (st : Strand) (h : Hold) (u : Nat) :
    (s.holdAt r st h).team u = s.team u :=
  State.team_setStrand s r { st with hold := some h, since := s.fresh } u

@[simp] theorem State.team_holdCur (s : State) (st : Strand) (h : Hold) (u : Nat) :
    (s.holdCur st h).team u = s.team u := State.team_holdAt s s.cur st h u

/-! ## Changes of a tile that keep its strands and team -/

theorem State.strand_modTile (s : State) (t : Nat) (f : Tile → Tile) (hf : (f (s.tile t)).strands = (s.tile t).strands)
    (r : Ref) : (s.modTile t f).strand r = s.strand r := by
  cases r with
  | tile u k =>
    simp only [State.strand, State.modTile, State.tile_setTile]
    split
    · next h => subst h; rw [hf]
    · rfl
  | sup d k => rfl

theorem State.team_modTile (s : State) (t : Nat) (f : Tile → Tile) (hf : (f (s.tile t)).team = (s.tile t).team)
    (u : Nat) : (s.modTile t f).team u = s.team u := by
  simp only [State.team, State.modTile, State.tile_setTile]
  split
  · next h => subst h; rw [hf]
  · rfl

@[simp] theorem State.modTile_mem (s : State) (t : Nat) (f : Tile → Tile) : (s.modTile t f).mem = s.mem := rfl
@[simp] theorem State.modTile_cur (s : State) (t : Nat) (f : Tile → Tile) : (s.modTile t f).cur = s.cur := rfl
@[simp] theorem State.modTile_clk (s : State) (t : Nat) (f : Tile → Tile) : (s.modTile t f).clk = s.clk := rfl
@[simp] theorem State.modTile_fresh (s : State) (t : Nat) (f : Tile → Tile) : (s.modTile t f).fresh = s.fresh := rfl
@[simp] theorem State.modTile_agenda (s : State) (t : Nat) (f : Tile → Tile) : (s.modTile t f).agenda = s.agenda := rfl
@[simp] theorem State.die_modTile (s : State) (t : Nat) (f : Tile → Tile) (d : Nat) : (s.modTile t f).die d = s.die d := rfl
@[simp] theorem State.pkg_modTile (s : State) (t : Nat) (f : Tile → Tile) (p : Nat) : (s.modTile t f).pkg p = s.pkg p := rfl
@[simp] theorem State.root_modTile (s : State) (t : Nat) (f : Tile → Tile) (a : Nat) :
    (s.modTile t f).root a = s.root a := rfl

@[simp] theorem State.tile_modTile_same (s : State) (t : Nat) (f : Tile → Tile) : (s.modTile t f).tile t = f (s.tile t) := by
  simp [State.modTile]

theorem State.tile_modTile_other (s : State) {t u : Nat} (f : Tile → Tile) (h : u ≠ t) :
    (s.modTile t f).tile u = s.tile u := State.tile_setTile_other s (f (s.tile t)) h

/-- A change of a team is what the team reads as afterwards. -/
@[simp] theorem State.team_modTeam_same (s : State) (t : Nat) (f : Team → Team) :
    (s.modTeam t f).team t = (s.team t).map f := by
  simp [State.team, State.modTeam]

theorem State.team_modTeam_other (s : State) {t u : Nat} (f : Team → Team) (h : u ≠ t) :
    (s.modTeam t f).team u = s.team u := by
  simp only [State.team, State.modTeam]
  rw [State.tile_modTile_other s _ h]

/-- A change of a team changes no strand. -/
@[simp] theorem State.strand_modTeam (s : State) (t : Nat) (f : Team → Team) (r : Ref) :
    (s.modTeam t f).strand r = s.strand r := State.strand_modTile s t _ rfl r

@[simp] theorem State.modTeam_mem (s : State) (t : Nat) (f : Team → Team) : (s.modTeam t f).mem = s.mem := rfl
@[simp] theorem State.modTeam_cur (s : State) (t : Nat) (f : Team → Team) : (s.modTeam t f).cur = s.cur := rfl
@[simp] theorem State.modTeam_fresh (s : State) (t : Nat) (f : Team → Team) : (s.modTeam t f).fresh = s.fresh := rfl
@[simp] theorem State.modTeam_clk (s : State) (t : Nat) (f : Team → Team) : (s.modTeam t f).clk = s.clk := rfl
@[simp] theorem State.die_modTeam (s : State) (t : Nat) (f : Team → Team) (d : Nat) : (s.modTeam t f).die d = s.die d := rfl

/-! ## Trace -/

@[simp] theorem State.trace_mem (s : State) (r : Ref) (k p : Nat) : (s.trace r k p).mem = s.mem := by
  unfold State.trace; cases r
  · simp only []; split <;> simp
  · rfl
@[simp] theorem State.trace_cur (s : State) (r : Ref) (k p : Nat) : (s.trace r k p).cur = s.cur := by
  unfold State.trace; cases r
  · simp only []; split <;> simp
  · rfl
@[simp] theorem State.trace_clk (s : State) (r : Ref) (k p : Nat) : (s.trace r k p).clk = s.clk := by
  unfold State.trace; cases r
  · simp only []; split <;> simp
  · rfl
@[simp] theorem State.trace_fresh (s : State) (r : Ref) (k p : Nat) : (s.trace r k p).fresh = s.fresh := by
  unfold State.trace; cases r
  · simp only []; split <;> simp
  · rfl
@[simp] theorem State.trace_podBase (s : State) (r : Ref) (k p : Nat) : (s.trace r k p).podBase = s.podBase := by
  unfold State.trace; cases r
  · simp only []; split <;> simp [State.modTile]
  · rfl
@[simp] theorem State.trace_podPhase (s : State) (r : Ref) (k p : Nat) : (s.trace r k p).podPhase = s.podPhase := by
  unfold State.trace; cases r
  · simp only []; split <;> simp [State.modTile]
  · rfl
@[simp] theorem State.trace_poison (s : State) (r : Ref) (k p : Nat) : (s.trace r k p).poison = s.poison := by
  unfold State.trace; cases r
  · simp only []; split <;> simp [State.modTile]
  · rfl
@[simp] theorem State.die_trace (s : State) (r : Ref) (k p d : Nat) : (s.trace r k p).die d = s.die d := by
  unfold State.trace; cases r
  · simp only []; split <;> simp
  · rfl
@[simp] theorem State.pkg_trace (s : State) (r : Ref) (k p d : Nat) : (s.trace r k p).pkg d = s.pkg d := by
  unfold State.trace; cases r
  · simp only []; split <;> simp
  · rfl
@[simp] theorem State.root_trace (s : State) (r : Ref) (k p d : Nat) : (s.trace r k p).root d = s.root d := by
  unfold State.trace; cases r
  · simp only []; split <;> simp
  · rfl

/-- A trace entry changes no strand. -/
@[simp] theorem State.strand_trace (s : State) (r : Ref) (k p : Nat) (q : Ref) : (s.trace r k p).strand q = s.strand q := by
  unfold State.trace
  cases r with
  | tile t j =>
    simp only []
    split
    · rw [State.strand_post]; exact State.strand_modTile s t _ rfl q
    · exact State.strand_modTile s t _ rfl q
  | sup d j => rfl

@[simp] theorem State.team_post (s : State) (e : Instr) (x : EvArg) (t : Nat) : (s.post e x).team t = s.team t := rfl

/-- A trace entry changes no team. -/
@[simp] theorem State.team_trace (s : State) (r : Ref) (k p : Nat) (u : Nat) : (s.trace r k p).team u = s.team u := by
  unfold State.trace
  cases r with
  | tile t j =>
    simp only []
    split
    · refine (State.team_post _ _ _ u).trans ?_
      exact State.team_modTile s t _ rfl u
    · exact State.team_modTile s t _ rfl u
  | sup d j => rfl

/-! ## Faults (R304) -/

/-- The strand that a fault freezes; a tile strand keeps its packet. -/
theorem State.strand_trap (s : State) (r : Ref) (st : Strand) (c : Byte) (i : TrapInfo) :
    (s.trap r st c i).strand r = some { st with
      run := .frozen
      hold := none
      pc := st.fetch.start
      passed := none
      pkt := match r with
        | .tile t k => some (s.packetOf t k st c i)
        | .sup _ _ => st.pkt } := by
  cases r with
  | tile t k =>
    simp only [State.trap, State.strand_post, State.strand_trace]
    exact State.strand_setStrand_same s (.tile t k) _
  | sup d k =>
    simp only [State.trap, State.strand_post]
    exact State.strand_setStrand_same s (.sup d k) _

@[simp] theorem State.trap_mem (s : State) (r : Ref) (st : Strand) (c : Byte) (i : TrapInfo) :
    (s.trap r st c i).mem = s.mem := by
  cases r with
  | tile t k => simp [State.trap, State.modDie]
  | sup d k => simp [State.trap]

theorem State.strand_trap_other (s : State) {r q : Ref} (st : Strand) (c : Byte) (i : TrapInfo) (h : q ≠ r) :
    (s.trap r st c i).strand q = s.strand q := by
  cases r with
  | tile t k =>
    simp only [State.trap, State.strand_post, State.strand_trace]
    have := State.strand_setStrand_other s (r := .tile t k) (q := q)
      { st with run := .frozen, hold := none, pc := st.fetch.start, passed := none, pkt := some (s.packetOf t k st c i) } h
    rw [← this]
    cases q with
    | tile u j => rfl
    | sup u j =>
      simp only [State.strand, State.modDie, State.die_setDie]
      split
      · next hu => subst hu; rfl
      · rfl
  | sup d k =>
    simp only [State.trap, State.strand_post]
    exact State.strand_setStrand_other s _ h

@[simp] theorem State.team_trap (s : State) (r : Ref) (st : Strand) (c : Byte) (i : TrapInfo) (u : Nat) :
    (s.trap r st c i).team u = s.team u := by
  cases r with
  | tile t k =>
    simp only [State.trap]
    exact (State.team_trace _ _ _ _ u).trans (State.team_setStrand s (.tile t k) _ u)
  | sup d k => rfl

/-- The packet joins the die's fault packets, for a tile strand (R304). -/
theorem State.faults_trap (s : State) (t k : Nat) (st : Strand) (c : Byte) (i : TrapInfo) :
    ((s.trap (.tile t k) st c i).die (t / 256)).faults = (s.die (t / 256)).faults ++ [s.packetOf t k st c i] := by
  simp [State.trap, State.modDie]

/-! ## Acquire and release (R80, R81) -/

@[simp] theorem State.dropUnowned_mem (s : State) (r : Ref) : (s.dropUnowned r).mem = s.mem := by cases r <;> rfl
@[simp] theorem State.dropUnowned_cur (s : State) (r : Ref) : (s.dropUnowned r).cur = s.cur := by cases r <;> rfl
@[simp] theorem State.dropUnowned_fresh (s : State) (r : Ref) : (s.dropUnowned r).fresh = s.fresh := by cases r <;> rfl

@[simp] theorem State.strand_dropUnowned (s : State) (r q : Ref) : (s.dropUnowned r).strand q = s.strand q := by
  cases r with
  | tile t k => exact State.strand_modTile s t _ rfl q
  | sup d k => rfl

@[simp] theorem State.team_dropUnowned (s : State) (r : Ref) (u : Nat) : (s.dropUnowned r).team u = s.team u := by
  cases r with
  | tile t k => exact State.team_modTile s t _ rfl u
  | sup d k => rfl

/-- A retirement with an acquire action: the strand's acquire time is now. -/
@[simp] theorem State.strand_retireAcq (s : State) (r : Ref) (st : Strand) :
    (s.retireAcq r st).strand r = some ({ st with acq := s.podTime }.retired st.after) := by
  simp [State.retireAcq, State.complete_eq, Strand.after]

theorem State.strand_retireAcq_other (s : State) {r q : Ref} (st : Strand) (h : q ≠ r) :
    (s.retireAcq r st).strand q = s.strand q := by
  simp only [State.retireAcq, State.complete_eq]
  rw [State.strand_setStrand_other _ _ h, State.strand_dropUnowned]

@[simp] theorem State.retireAcq_mem (s : State) (r : Ref) (st : Strand) : (s.retireAcq r st).mem = s.mem := by
  simp [State.retireAcq]
@[simp] theorem State.retireAcq_cur (s : State) (r : Ref) (st : Strand) : (s.retireAcq r st).cur = s.cur := by
  simp [State.retireAcq]
@[simp] theorem State.team_retireAcq (s : State) (r : Ref) (st : Strand) (u : Nat) :
    (s.retireAcq r st).team u = s.team u := by simp [State.retireAcq]

/-- A release action goes on once every prior store of the strand is registered, and else holds (R80). -/
theorem State.release_drained {s : State} {st : Strand} (h : s.drained s.cur st = true) : s.release st = .go s () := by
  simp [State.release, h]

theorem State.release_undrained {s : State} {st : Strand} (h : s.drained s.cur st = false) :
    s.release st = .stop (s.holdCur st .release) := by
  simp [State.release, h]

@[simp] theorem Got.finish_go {α : Type} (s : State) (a : α) (f : State → α → State) : (Got.go s a).finish f = f s a := rfl
@[simp] theorem Got.finish_stop {α : Type} (s : State) (f : State → α → State) : (Got.stop s : Got α).finish f = s := rfl
@[simp] theorem Got.andThen_go {α β : Type} (s : State) (a : α) (f : State → α → Got β) :
    (Got.go s a).andThen f = f s a := rfl
@[simp] theorem Got.andThen_stop {α β : Type} (s : State) (f : State → α → Got β) :
    (Got.stop s : Got α).andThen f = .stop s := rfl

/-! ## Steps to come -/

@[simp] theorem State.afterClk_mem (s : State) (n : Nat) (e : Instr) (x : EvArg) : (s.afterClk n e x).mem = s.mem := by
  unfold State.afterClk; split <;> rfl
@[simp] theorem State.afterClk_cur (s : State) (n : Nat) (e : Instr) (x : EvArg) : (s.afterClk n e x).cur = s.cur := by
  unfold State.afterClk; split <;> rfl
@[simp] theorem State.strand_afterClk (s : State) (n : Nat) (e : Instr) (x : EvArg) (r : Ref) :
    (s.afterClk n e x).strand r = s.strand r := by
  unfold State.afterClk; split <;> simp
@[simp] theorem State.tile_afterClk (s : State) (n : Nat) (e : Instr) (x : EvArg) (t : Nat) :
    (s.afterClk n e x).tile t = s.tile t := by
  unfold State.afterClk; split <;> rfl
@[simp] theorem State.team_afterClk (s : State) (n : Nat) (e : Instr) (x : EvArg) (t : Nat) :
    (s.afterClk n e x).team t = s.team t := by
  unfold State.afterClk; split <;> rfl
@[simp] theorem State.team_later (s : State) (n : Nat) (e : Instr) (x : EvArg) (t : Nat) :
    (s.later n e x).team t = s.team t := rfl

end Sys2Proof.Machine
end

