-- ==== Sys2Proof/Laws/PerInstr.lean ====
section
/-! SUPPORT. The family EncodingWords: how many words each instruction is encoded as (R101, R105, R132). -/
namespace Sys2Proof.Laws.EncodingWords

/-- A step without an encoding has no words; an instruction has one, or an IMX and one (R105). -/
def Statement (i : Instr) : Prop :=
  if i.isEvent then encode i = [] else (encode i).length = 1 ∨ ∃ pay w, encode i = [fmtH 1 pay, w]

/-- An immediate takes one word where it fits, else an IMX before it. -/
theorem words_withImm {n : Nat} (imm : BitVec (22 + n)) (fits : Bool) (mk : BitVec n → W32) :
    (withImm imm fits mk).length = 1 ∨ ∃ pay w, withImm imm fits mk = [fmtH 1 pay, w] := by
  cases fits
  · exact .inr ⟨_, _, rfl⟩
  · exact .inl rfl

theorem add (d a b : GReg) : Statement (.add d a b) := .inl rfl
theorem sub (d a b : GReg) : Statement (.sub d a b) := .inl rfl
theorem and (d a b : GReg) : Statement (.and d a b) := .inl rfl
theorem or (d a b : GReg) : Statement (.or d a b) := .inl rfl
theorem xor (d a b : GReg) : Statement (.xor d a b) := .inl rfl
theorem andn (d a b : GReg) : Statement (.andn d a b) := .inl rfl
theorem shl (d a b : GReg) : Statement (.shl d a b) := .inl rfl
theorem shr (d a b : GReg) : Statement (.shr d a b) := .inl rfl
theorem sar (d a b : GReg) : Statement (.sar d a b) := .inl rfl
theorem min (d a b : GReg) : Statement (.min d a b) := .inl rfl
theorem max (d a b : GReg) : Statement (.max d a b) := .inl rfl
theorem minu (d a b : GReg) : Statement (.minu d a b) := .inl rfl
theorem maxu (d a b : GReg) : Statement (.maxu d a b) := .inl rfl
theorem slt (d a b : GReg) : Statement (.slt d a b) := .inl rfl
theorem sltu (d a b : GReg) : Statement (.sltu d a b) := .inl rfl
theorem seq (d a b : GReg) : Statement (.seq d a b) := .inl rfl
theorem sel (d a b c : GReg) : Statement (.sel d a b c) := .inl rfl
theorem clz (d a : GReg) : Statement (.clz d a) := .inl rfl
theorem ctz (d a : GReg) : Statement (.ctz d a) := .inl rfl
theorem popc (d a : GReg) : Statement (.popc d a) := .inl rfl
theorem ext (d a b c : GReg) : Statement (.ext d a b c) := .inl rfl
theorem ins (d a b c : GReg) : Statement (.ins d a b c) := .inl rfl
theorem lea (d a b : GReg) (n : BitVec 4) : Statement (.lea d a b n) := .inl rfl
theorem tad (d a b : GReg) : Statement (.tad d a b) := .inl rfl
theorem mul (d a b : GReg) : Statement (.mul d a b) := .inl rfl
theorem mulh (d a b : GReg) : Statement (.mulh d a b) := .inl rfl
theorem mulhu (d a b : GReg) : Statement (.mulhu d a b) := .inl rfl
theorem div (d a b : GReg) : Statement (.div d a b) := .inl rfl
theorem divu (d a b : GReg) : Statement (.divu d a b) := .inl rfl
theorem rem (d a b : GReg) : Statement (.rem d a b) := .inl rfl
theorem remu (d a b : GReg) : Statement (.remu d a b) := .inl rfl
theorem addi (d a : GReg) (imm : BitVec 40) : Statement (.addi d a imm) := words_withImm _ _ _
theorem andi (d a : GReg) (imm : BitVec 40) : Statement (.andi d a imm) := words_withImm _ _ _
theorem ori (d a : GReg) (imm : BitVec 40) : Statement (.ori d a imm) := words_withImm _ _ _
theorem xori (d a : GReg) (imm : BitVec 40) : Statement (.xori d a imm) := words_withImm _ _ _
theorem shli (d a : GReg) (n : BitVec 6) : Statement (.shli d a n) := .inl rfl
theorem shri (d a : GReg) (n : BitVec 6) : Statement (.shri d a n) := .inl rfl
theorem sari (d a : GReg) (n : BitVec 6) : Statement (.sari d a n) := .inl rfl
theorem slti (d a : GReg) (imm : BitVec 40) : Statement (.slti d a imm) := words_withImm _ _ _
theorem li (d : GReg) (imm : BitVec 40) : Statement (.li d imm) := words_withImm _ _ _
theorem lih (d : GReg) (imm : BitVec 32) : Statement (.lih d imm) := words_withImm _ _ _
theorem beq (a b : GReg) (off : BitVec 40) : Statement (.beq a b off) := words_withImm _ _ _
theorem bne (a b : GReg) (off : BitVec 40) : Statement (.bne a b off) := words_withImm _ _ _
theorem blt (a b : GReg) (off : BitVec 40) : Statement (.blt a b off) := words_withImm _ _ _
theorem bge (a b : GReg) (off : BitVec 40) : Statement (.bge a b off) := words_withImm _ _ _
theorem bltu (a b : GReg) (off : BitVec 40) : Statement (.bltu a b off) := words_withImm _ _ _
theorem bgeu (a b : GReg) (off : BitVec 40) : Statement (.bgeu a b off) := words_withImm _ _ _
theorem beqz (a : GReg) (off : BitVec 40) : Statement (.beqz a off) := words_withImm _ _ _
theorem bnez (a : GReg) (off : BitVec 40) : Statement (.bnez a off) := words_withImm _ _ _
theorem jal (d : GReg) (off : BitVec 44) : Statement (.jal d off) := words_withImm _ _ _
theorem jalr (d a : GReg) (imm : BitVec 40) : Statement (.jalr d a imm) := words_withImm _ _ _
theorem ldb (d base : GReg) (ord : Order) (off : BitVec 38) : Statement (.ldb d base ord off) := words_withImm _ _ _
theorem ldbu (d base : GReg) (ord : Order) (off : BitVec 38) : Statement (.ldbu d base ord off) := words_withImm _ _ _
theorem ldh (d base : GReg) (ord : Order) (off : BitVec 38) : Statement (.ldh d base ord off) := words_withImm _ _ _
theorem ldhu (d base : GReg) (ord : Order) (off : BitVec 38) : Statement (.ldhu d base ord off) := words_withImm _ _ _
theorem ldw (d base : GReg) (ord : Order) (off : BitVec 38) : Statement (.ldw d base ord off) := words_withImm _ _ _
theorem ldwu (d base : GReg) (ord : Order) (off : BitVec 38) : Statement (.ldwu d base ord off) := words_withImm _ _ _
theorem ldd (d base : GReg) (ord : Order) (off : BitVec 38) : Statement (.ldd d base ord off) := words_withImm _ _ _
theorem ldc (d base : GReg) (off : BitVec 38) : Statement (.ldc d base off) := words_withImm _ _ _
theorem stb (s base : GReg) (ord : Order) (off : BitVec 38) : Statement (.stb s base ord off) := words_withImm _ _ _
theorem sth (s base : GReg) (ord : Order) (off : BitVec 38) : Statement (.sth s base ord off) := words_withImm _ _ _
theorem stw (s base : GReg) (ord : Order) (off : BitVec 38) : Statement (.stw s base ord off) := words_withImm _ _ _
theorem std (s base : GReg) (ord : Order) (off : BitVec 38) : Statement (.std s base ord off) := words_withImm _ _ _
theorem aadd (d addr val : GReg) (ord : Order) (size : ASize) : Statement (.aadd d addr val ord size) := .inl rfl
theorem aand (d addr val : GReg) (ord : Order) (size : ASize) : Statement (.aand d addr val ord size) := .inl rfl
theorem aor (d addr val : GReg) (ord : Order) (size : ASize) : Statement (.aor d addr val ord size) := .inl rfl
theorem axor (d addr val : GReg) (ord : Order) (size : ASize) : Statement (.axor d addr val ord size) := .inl rfl
theorem amin (d addr val : GReg) (ord : Order) (size : ASize) : Statement (.amin d addr val ord size) := .inl rfl
theorem amax (d addr val : GReg) (ord : Order) (size : ASize) : Statement (.amax d addr val ord size) := .inl rfl
theorem aminu (d addr val : GReg) (ord : Order) (size : ASize) : Statement (.aminu d addr val ord size) := .inl rfl
theorem amaxu (d addr val : GReg) (ord : Order) (size : ASize) : Statement (.amaxu d addr val ord size) := .inl rfl
theorem aswp (d addr val : GReg) (ord : Order) (size : ASize) : Statement (.aswp d addr val ord size) := .inl rfl
theorem acas (d addr val cmp : GReg) (ord : Order) (size : ASize) : Statement (.acas d addr val cmp ord size) := .inl rfl
theorem aaddf (d addr val : GReg) (ord : Order) (size : FSize) : Statement (.aaddf d addr val ord size) := .inl rfl
theorem radd (addr val : GReg) (ord : Order) (size : ASize) : Statement (.radd addr val ord size) := .inl rfl
theorem fenceL : Statement (.fenceL) := .inl rfl
theorem fenceH : Statement (.fenceH) := .inl rfl
theorem bart : Statement (.bart) := .inl rfl
theorem barw (d a : GReg) (scope : BarScope) : Statement (.barw d a scope) := .inl rfl
theorem waitv (a b : GReg) (size : ASize) : Statement (.waitv a b size) := .inl rfl
theorem waitx (d a : GReg) : Statement (.waitx d a) := .inl rfl
theorem yield (a : GReg) : Statement (.yield a) := .inl rfl
theorem qsnd (a : GReg) (q : QReg) : Statement (.qsnd a q) := .inl rfl
theorem qrcv (d : GReg) (q : QReg) : Statement (.qrcv d q) := .inl rfl
theorem qtry (d a : GReg) (q : QReg) : Statement (.qtry d a q) := .inl rfl
theorem qcnt (d : GReg) (q : QReg) : Statement (.qcnt d q) := .inl rfl
theorem fork (a b : GReg) : Statement (.fork a b) := .inl rfl
theorem join : Statement (.join) := .inl rfl
theorem exit : Statement (.exit) := .inl rfl
theorem go (a : GReg) : Statement (.go a) := .inl rfl
theorem home : Statement (.home) := .inl rfl
theorem prio (a : GReg) : Statement (.prio a) := .inl rfl
theorem id (d : GReg) (sel : IdSel) : Statement (.id d sel) := .inl rfl
theorem launch (a : GReg) (t : TokReg) : Statement (.launch a t) := .inl rfl
theorem next (a : GReg) (t : TokReg) : Statement (.next a t) := .inl rfl
theorem estat (a b : GReg) (t : TokReg) : Statement (.estat a b t) := .inl rfl
theorem cancel (a : GReg) (kill : Bool) (t : TokReg) : Statement (.cancel a kill t) := .inl rfl
theorem watch (d a : GReg) : Statement (.watch d a) := .inl rfl
theorem unwatch (a : GReg) : Statement (.unwatch a) := .inl rfl
theorem wqry (d a : GReg) : Statement (.wqry d a) := .inl rfl
theorem trap (code : Byte) : Statement (.trap code) := .inl rfl
theorem brk (code : Byte) : Statement (.brk code) := .inl rfl
theorem halt : Statement (.halt) := .inl rfl
theorem srd (d : GReg) (n : BitVec 12) : Statement (.srd d n) := .inl rfl
theorem swr (a : GReg) (n : BitVec 12) : Statement (.swr a n) := .inl rfl
theorem srdSysFhead (d : GReg) : Statement (.srdSysFhead d) := .inl rfl
theorem swrSysFtail (a : GReg) : Statement (.swrSysFtail a) := .inl rfl
theorem swrSysCtxload (a : GReg) : Statement (.swrSysCtxload a) := .inl rfl
theorem nop : Statement (.nop) := .inl rfl
theorem wait (mask : Byte) : Statement (.wait mask) := .inl rfl
theorem pref (base : GReg) (intent : PrefIntent) (off : BitVec 16) : Statement (.pref base intent off) := .inl rfl
theorem likely : Statement (.likely) := .inl rfl
theorem unlikely : Statement (.unlikely) := .inl rfl
theorem vld (d : VReg) (a : GReg) (p : PReg) (t : LaneType) : Statement (.vld d a p t) := .inl rfl
theorem vst (s : VReg) (a : GReg) (p : PReg) (t : LaneType) : Statement (.vst s a p t) := .inl rfl
theorem vlds (d : VReg) (a b : GReg) (p : PReg) (t : LaneType) : Statement (.vlds d a b p t) := .inl rfl
theorem vsts (s : VReg) (a b : GReg) (p : PReg) (t : LaneType) : Statement (.vsts s a b p t) := .inl rfl
theorem vgth (d : VReg) (a : GReg) (i : VReg) (p : PReg) (t : LaneType) : Statement (.vgth d a i p t) := .inl rfl
theorem vsct (s : VReg) (a : GReg) (i : VReg) (p : PReg) (t : LaneType) : Statement (.vsct s a i p t) := .inl rfl
theorem vldt (d : VReg) (a b : GReg) (p : PReg) (t : LaneType) : Statement (.vldt d a b p t) := .inl rfl
theorem vxch (d a : VReg) (p : PReg) (t : LaneType) : Statement (.vxch d a p t) := .inl rfl
theorem vbcst (d : VReg) (a : GReg) (p : PReg) (t : LaneType) : Statement (.vbcst d a p t) := .inl rfl
theorem vmov (d a : VReg) (p : PReg) (t : LaneType) : Statement (.vmov d a p t) := .inl rfl
theorem vadd (d a b : VReg) (p : PReg) (t : LaneType) : Statement (.vadd d a b p t) := .inl rfl
theorem vsub (d a b : VReg) (p : PReg) (t : LaneType) : Statement (.vsub d a b p t) := .inl rfl
theorem vmul (d a b : VReg) (p : PReg) (t : LaneType) : Statement (.vmul d a b p t) := .inl rfl
theorem vmac (d a b : VReg) (p : PReg) (t : LaneType) : Statement (.vmac d a b p t) := .inl rfl
theorem vfma (d a b : VReg) (p : PReg) (t : LaneType) : Statement (.vfma d a b p t) := .inl rfl
theorem vmin (d a b : VReg) (p : PReg) (t : LaneType) : Statement (.vmin d a b p t) := .inl rfl
theorem vmax (d a b : VReg) (p : PReg) (t : LaneType) : Statement (.vmax d a b p t) := .inl rfl
theorem vabs (d a : VReg) (p : PReg) (t : LaneType) : Statement (.vabs d a p t) := .inl rfl
theorem vneg (d a : VReg) (p : PReg) (t : LaneType) : Statement (.vneg d a p t) := .inl rfl
theorem vshl (d a b : VReg) (p : PReg) (t : LaneType) : Statement (.vshl d a b p t) := .inl rfl
theorem vshr (d a b : VReg) (p : PReg) (t : LaneType) : Statement (.vshr d a b p t) := .inl rfl
theorem vsar (d a b : VReg) (p : PReg) (t : LaneType) : Statement (.vsar d a b p t) := .inl rfl
theorem vand (d a b : VReg) (p : PReg) (t : LaneType) : Statement (.vand d a b p t) := .inl rfl
theorem vor (d a b : VReg) (p : PReg) (t : LaneType) : Statement (.vor d a b p t) := .inl rfl
theorem vxor (d a b : VReg) (p : PReg) (t : LaneType) : Statement (.vxor d a b p t) := .inl rfl
theorem vsel (d a b : VReg) (p : PReg) (t : LaneType) : Statement (.vsel d a b p t) := .inl rfl
theorem vcmpEq (d : PReg) (a b : VReg) (p : PReg) (t : LaneType) : Statement (.vcmpEq d a b p t) := .inl rfl
theorem vcmpNe (d : PReg) (a b : VReg) (p : PReg) (t : LaneType) : Statement (.vcmpNe d a b p t) := .inl rfl
theorem vcmpLt (d : PReg) (a b : VReg) (p : PReg) (t : LaneType) : Statement (.vcmpLt d a b p t) := .inl rfl
theorem vcmpLe (d : PReg) (a b : VReg) (p : PReg) (t : LaneType) : Statement (.vcmpLe d a b p t) := .inl rfl
theorem vcmpLtu (d : PReg) (a b : VReg) (p : PReg) (t : LaneType) : Statement (.vcmpLtu d a b p t) := .inl rfl
theorem vcmpLeu (d : PReg) (a b : VReg) (p : PReg) (t : LaneType) : Statement (.vcmpLeu d a b p t) := .inl rfl
theorem vrsum (d a : VReg) (p : PReg) (t : LaneType) : Statement (.vrsum d a p t) := .inl rfl
theorem vrmax (d a : VReg) (p : PReg) (t : LaneType) : Statement (.vrmax d a p t) := .inl rfl
theorem vrmin (d a : VReg) (p : PReg) (t : LaneType) : Statement (.vrmin d a p t) := .inl rfl
theorem vcvt (d a : VReg) (z s : Bool) (src : Fmt) (p : PReg) (dst : Fmt) : Statement (.vcvt d a z s src p dst) := .inl rfl
theorem vqnt (d a : VReg) (g : GReg) (p : PReg) (dst : Fmt) : Statement (.vqnt d a g p dst) := .inl rfl
theorem vdq (d a : VReg) (g : GReg) (p : PReg) (dst : Fmt) : Statement (.vdq d a g p dst) := .inl rfl
theorem vexp2 (d a : VReg) (p : PReg) (t : LaneType) : Statement (.vexp2 d a p t) := .inl rfl
theorem vrcp (d a : VReg) (p : PReg) (t : LaneType) : Statement (.vrcp d a p t) := .inl rfl
theorem vrsq (d a : VReg) (p : PReg) (t : LaneType) : Statement (.vrsq d a p t) := .inl rfl
theorem vtunp (d a : VReg) (p : PReg) : Statement (.vtunp d a p) := .inl rfl
theorem vtpk (d a : VReg) (p : PReg) : Statement (.vtpk d a p) := .inl rfl
theorem vperm (d a i : VReg) (p : PReg) (t : LaneType) : Statement (.vperm d a i p t) := .inl rfl
theorem vslid (d a : VReg) (b : GReg) (p : PReg) (t : LaneType) : Statement (.vslid d a b p t) := .inl rfl
theorem pand (d a b : PReg) : Statement (.pand d a b) := .inl rfl
theorem por (d a b : PReg) : Statement (.por d a b) := .inl rfl
theorem pnot (d a : PReg) : Statement (.pnot d a) := .inl rfl
theorem pcnt (d : GReg) (a : PReg) (t : LaneType) : Statement (.pcnt d a t) := .inl rfl
theorem pset (d : PReg) (a : GReg) (m : LaneType) : Statement (.pset d a m) := .inl rfl
theorem dmm (c : AcReg) (a : VReg) (b : BitVec 4) (t : LaneType) : Statement (.dmm c a b t) := .inl rfl
theorem dmmb (c : AcReg) (a : VReg) (b : BitVec 4) (p : PReg) (t : LaneType) : Statement (.dmmb c a b p t) := .inl rfl
theorem aclr (c : AcReg) : Statement (.aclr c) := .inl rfl
theorem acrd (d : VReg) (c : AcReg) (g : GReg) (t : LaneType) : Statement (.acrd d c g t) := .inl rfl
theorem acwr (c : AcReg) (a : VReg) (g : GReg) (t : LaneType) : Statement (.acwr c a g t) := .inl rfl
theorem cpy (t : TokReg) (wait : Byte) (a b c : GReg) : Statement (.cpy t wait a b c) := .inl rfl
theorem cpyr (t : TokReg) (wait : Byte) (a b : GReg) : Statement (.cpyr t wait a b) := .inl rfl
theorem cpyg (t : TokReg) (wait : Byte) (a b c : GReg) : Statement (.cpyg t wait a b c) := .inl rfl
theorem cfil (t : TokReg) (wait : Byte) (a b c : GReg) : Statement (.cfil t wait a b c) := .inl rfl
theorem cast (t : TokReg) (wait : Byte) (a b c : GReg) : Statement (.cast t wait a b c) := .inl rfl
theorem cqnt (t : TokReg) (wait : Byte) (a b c : GReg) : Statement (.cqnt t wait a b c) := .inl rfl
theorem fset (t : TokReg) (wait : Byte) (a b : GReg) : Statement (.fset t wait a b) := .inl rfl
theorem fmap (t : TokReg) (wait : Byte) (a b c : GReg) : Statement (.fmap t wait a b c) := .inl rfl
theorem fmm (t : TokReg) (wait : Byte) (a b c : GReg) : Statement (.fmm t wait a b c) := .inl rfl
theorem fmmt (t : TokReg) (wait : Byte) (a b c : GReg) : Statement (.fmmt t wait a b c) := .inl rfl
theorem fscl (t : TokReg) (wait : Byte) (a b : GReg) : Statement (.fscl t wait a b) := .inl rfl
theorem fclr (t : TokReg) (wait : Byte) (a : GReg) : Statement (.fclr t wait a) := .inl rfl
theorem fprb (t : TokReg) (wait : Byte) (a b : GReg) : Statement (.fprb t wait a b) := .inl rfl
theorem formeOpStart : Statement (.formeOpStart) := rfl
theorem copyOpStart : Statement (.copyOpStart) := rfl
theorem directCastStart : Statement (.directCastStart) := rfl
theorem engineTokenComplete : Statement (.engineTokenComplete) := rfl
theorem proofingScrub : Statement (.proofingScrub) := rfl
theorem vxchExchange : Statement (.vxchExchange) := rfl
theorem launchAccept : Statement (.launchAccept) := rfl
theorem editionBroadcast : Statement (.editionBroadcast) := rfl
theorem folioRequest : Statement (.folioRequest) := rfl
theorem blockDeal : Statement (.blockDeal) := rfl
theorem teamDispatch : Statement (.teamDispatch) := rfl
theorem nextService : Statement (.nextService) := rfl
theorem estatSnapshot : Statement (.estatSnapshot) := rfl
theorem imposerAnswer : Statement (.imposerAnswer) := rfl
theorem cancelService : Statement (.cancelService) := rfl
theorem cancelBroadcast : Statement (.cancelBroadcast) := rfl
theorem blockComplete : Statement (.blockComplete) := rfl
theorem completionReport : Statement (.completionReport) := rfl
theorem packageReport : Statement (.packageReport) := rfl
theorem lightSlotTake : Statement (.lightSlotTake) := rfl
theorem steal : Statement (.steal) := rfl
theorem migrationArrival : Statement (.migrationArrival) := rfl
theorem bartRelease : Statement (.bartRelease) := rfl
theorem barwRelease : Statement (.barwRelease) := rfl
theorem barwTimeout : Statement (.barwTimeout) := rfl
theorem waitvWake : Statement (.waitvWake) := rfl
theorem wakeEvent : Statement (.wakeEvent) := rfl
theorem waitxLimit : Statement (.waitxLimit) := rfl
theorem allAsleepFault : Statement (.allAsleepFault) := rfl
theorem quantumExpiry : Statement (.quantumExpiry) := rfl
theorem asleepYieldTimeout : Statement (.asleepYieldTimeout) := rfl
theorem forcedPreemption : Statement (.forcedPreemption) := rfl
theorem preemptGraceExpiry : Statement (.preemptGraceExpiry) := rfl
theorem accTokenExchange : Statement (.accTokenExchange) := rfl
theorem saveRecordWrite : Statement (.saveRecordWrite) := rfl
theorem teamResume : Statement (.teamResume) := rfl
theorem gangPreSliceRequest : Statement (.gangPreSliceRequest) := rfl
theorem gangSliceStart : Statement (.gangSliceStart) := rfl
theorem gangSliceEnd : Statement (.gangSliceEnd) := rfl
theorem gangLateNotice : Statement (.gangLateNotice) := rfl
theorem packageReset : Statement (.packageReset) := rfl
theorem storeRegistration : Statement (.storeRegistration) := rfl
theorem registrationAck : Statement (.registrationAck) := rfl
theorem ownedWordWriteback : Statement (.ownedWordWriteback) := rfl
theorem remoteAccessArrival : Statement (.remoteAccessArrival) := rfl
theorem remoteAnswer : Statement (.remoteAnswer) := rfl
theorem hostCompletion : Statement (.hostCompletion) := rfl
theorem hostWriteIngress : Statement (.hostWriteIngress) := rfl
theorem budgetWindowRoll : Statement (.budgetWindowRoll) := rfl
theorem impressionStart : Statement (.impressionStart) := rfl
theorem serialiseRequest : Statement (.serialiseRequest) := rfl
theorem serialiseAck : Statement (.serialiseAck) := rfl
theorem pageWalk : Statement (.pageWalk) := rfl
theorem mmFaultDecision : Statement (.mmFaultDecision) := rfl
theorem tlbRangedInvalidate : Statement (.tlbRangedInvalidate) := rfl
theorem dirtyLogMerge : Statement (.dirtyLogMerge) := rfl
theorem sideLogReplay : Statement (.sideLogReplay) := rfl
theorem migrationNoticeTake : Statement (.migrationNoticeTake) := rfl
theorem pageMigration : Statement (.pageMigration) := rfl
theorem migrationRelease : Statement (.migrationRelease) := rfl
theorem faultPacketWrite : Statement (.faultPacketWrite) := rfl
theorem supervisorEscalation : Statement (.supervisorEscalation) := rfl
theorem dbgResume : Statement (.dbgResume) := rfl
theorem dbgKillBlock : Statement (.dbgKillBlock) := rfl
theorem dbgKillEdition : Statement (.dbgKillEdition) := rfl
theorem dbgPark : Statement (.dbgPark) := rfl
theorem dbgHalt : Statement (.dbgHalt) := rfl
theorem dbgEscalate : Statement (.dbgEscalate) := rfl
theorem dbgStep : Statement (.dbgStep) := rfl
theorem debugWindowWrite : Statement (.debugWindowWrite) := rfl
theorem traceControlWrite : Statement (.traceControlWrite) := rfl
theorem traceTrigger : Statement (.traceTrigger) := rfl
theorem frameMark : Statement (.frameMark) := rfl
theorem doorbell : Statement (.doorbell) := rfl
theorem doorbellLatch : Statement (.doorbellLatch) := rfl
theorem latchReplay : Statement (.latchReplay) := rfl
theorem evtailWrite : Statement (.evtailWrite) := rfl
theorem eventRingEnable : Statement (.eventRingEnable) := rfl
theorem bar0RegisterWrite : Statement (.bar0RegisterWrite) := rfl
theorem cmdActive : Statement (.cmdActive) := rfl
theorem activeMessageDelivery : Statement (.activeMessageDelivery) := rfl
theorem cmdTensor : Statement (.cmdTensor) := rfl
theorem cmdPlatetag : Statement (.cmdPlatetag) := rfl
theorem cmdFrame : Statement (.cmdFrame) := rfl
theorem cmdContext : Statement (.cmdContext) := rfl
theorem cmdRelease : Statement (.cmdRelease) := rfl
theorem repairTileRow : Statement (.repairTileRow) := rfl
theorem repairMacro : Statement (.repairMacro) := rfl
theorem repairLp6Channel : Statement (.repairLp6Channel) := rfl
theorem repairLane : Statement (.repairLane) := rfl
theorem repairPackageBypass : Statement (.repairPackageBypass) := rfl
theorem repairFrameRetire : Statement (.repairFrameRetire) := rfl
theorem secureSetDebugLevel : Statement (.secureSetDebugLevel) := rfl
theorem secureLoadKey : Statement (.secureLoadKey) := rfl
theorem secureZeroKey : Statement (.secureZeroKey) := rfl
theorem powerP0 : Statement (.powerP0) := rfl
theorem powerP2 : Statement (.powerP2) := rfl
theorem powerP3 : Statement (.powerP3) := rfl
theorem powerP4 : Statement (.powerP4) := rfl
theorem powerExitComplete : Statement (.powerExitComplete) := rfl
theorem cmdAttest : Statement (.cmdAttest) := rfl
theorem cmdSealed : Statement (.cmdSealed) := rfl
theorem cmdYield : Statement (.cmdYield) := rfl
theorem cmdResetcore : Statement (.cmdResetcore) := rfl
theorem mailboxPost : Statement (.mailboxPost) := rfl
theorem coreFailure : Statement (.coreFailure) := rfl
theorem takeoverLive : Statement (.takeoverLive) := rfl
theorem bringUp : Statement (.bringUp) := rfl
theorem flitReceive : Statement (.flitReceive) := rfl
theorem flitReplay : Statement (.flitReplay) := rfl
theorem laneTrainFail : Statement (.laneTrainFail) := rfl
theorem powerReport : Statement (.powerReport) := rfl
theorem currentTrip : Statement (.currentTrip) := rfl
theorem thermalTrip : Statement (.thermalTrip) := rfl
theorem dieReset : Statement (.dieReset) := rfl
theorem undefinedInstruction : Statement (.undefinedInstruction) := rfl
theorem instructionFetchFault : Statement (.instructionFetchFault) := rfl
theorem hostWriteRefused : Statement (.hostWriteRefused) := rfl

end Sys2Proof.Laws.EncodingWords
end

