-- ==== Sys2Proof/Laws/Team.lean ====
section
/-! SUPPORT. Laws of a team: one lemma per field per update, and what a register, a lane or an accumulator element reads after
an update. -/
namespace Sys2Proof.Machine

/-! ## `Team.setV` -/

@[simp] theorem Team.setV_asid (m : Team) (i : VReg) (x : VWord) : (m.setV i x).asid = m.asid := rfl
@[simp] theorem Team.setV_ident (m : Team) (i : VReg) (x : VWord) : (m.setV i x).ident = m.ident := rfl
@[simp] theorem Team.setV_block (m : Team) (i : VReg) (x : VWord) : (m.setV i x).block = m.block := rfl
@[simp] theorem Team.setV_ext (m : Team) (i : VReg) (x : VWord) : (m.setV i x).ext = m.ext := rfl
@[simp] theorem Team.setV_n (m : Team) (i : VReg) (x : VWord) : (m.setV i x).n = m.n := rfl
@[simp] theorem Team.setV_grant (m : Team) (i : VReg) (x : VWord) : (m.setV i x).grant = m.grant := rfl
@[simp] theorem Team.setV_p (m : Team) (i : VReg) (x : VWord) : (m.setV i x).p = m.p := rfl
@[simp] theorem Team.setV_ac (m : Team) (i : VReg) (x : VWord) : (m.setV i x).ac = m.ac := rfl
@[simp] theorem Team.setV_toks (m : Team) (i : VReg) (x : VWord) : (m.setV i x).toks = m.toks := rfl
@[simp] theorem Team.setV_q (m : Team) (i : VReg) (x : VWord) : (m.setV i x).q = m.q := rfl
@[simp] theorem Team.setV_aflags (m : Team) (i : VReg) (x : VWord) : (m.setV i x).aflags = m.aflags := rfl
@[simp] theorem Team.setV_raised (m : Team) (i : VReg) (x : VWord) : (m.setV i x).raised = m.raised := rfl
@[simp] theorem Team.setV_deadline (m : Team) (i : VReg) (x : VWord) : (m.setV i x).deadline = m.deadline := rfl
@[simp] theorem Team.setV_count (m : Team) (i : VReg) (x : VWord) : (m.setV i x).count = m.count := rfl
@[simp] theorem Team.setV_yreq (m : Team) (i : VReg) (x : VWord) : (m.setV i x).yreq = m.yreq := rfl
@[simp] theorem Team.setV_yreqAt (m : Team) (i : VReg) (x : VWord) : (m.setV i x).yreqAt = m.yreqAt := rfl
@[simp] theorem Team.setV_residence (m : Team) (i : VReg) (x : VWord) : (m.setV i x).residence = m.residence := rfl
@[simp] theorem Team.setV_asleepFor (m : Team) (i : VReg) (x : VWord) : (m.setV i x).asleepFor = m.asleepFor := rfl
@[simp] theorem Team.setV_bart (m : Team) (i : VReg) (x : VWord) : (m.setV i x).bart = m.bart := rfl
@[simp] theorem Team.setV_barts (m : Team) (i : VReg) (x : VWord) : (m.setV i x).barts = m.barts := rfl
@[simp] theorem Team.setV_lent (m : Team) (i : VReg) (x : VWord) : (m.setV i x).lent = m.lent := rfl
@[simp] theorem Team.setV_lentAt (m : Team) (i : VReg) (x : VWord) : (m.setV i x).lentAt = m.lentAt := rfl
@[simp] theorem Team.setV_tapAt (m : Team) (i : VReg) (x : VWord) : (m.setV i x).tapAt = m.tapAt := rfl
@[simp] theorem Team.setV_vxch (m : Team) (i : VReg) (x : VWord) : (m.setV i x).vxch = m.vxch := rfl
@[simp] theorem Team.setV_stopping (m : Team) (i : VReg) (x : VWord) : (m.setV i x).stopping = m.stopping := rfl
@[simp] theorem Team.setV_exch (m : Team) (i : VReg) (x : VWord) : (m.setV i x).exch = m.exch := rfl
@[simp] theorem Team.setV_killed (m : Team) (i : VReg) (x : VWord) : (m.setV i x).killed = m.killed := rfl
@[simp] theorem Team.setV_gang (m : Team) (i : VReg) (x : VWord) : (m.setV i x).gang = m.gang := rfl
@[simp] theorem Team.setV_noExchange (m : Team) (i : VReg) (x : VWord) : (m.setV i x).noExchange = m.noExchange := rfl
@[simp] theorem Team.setV_regAt (m : Team) (i : VReg) (x : VWord) : (m.setV i x).regAt = m.regAt := rfl
@[simp] theorem Team.setV_denseFree (m : Team) (i : VReg) (x : VWord) : (m.setV i x).denseFree = m.denseFree := rfl
@[simp] theorem Team.setV_start (m : Team) (i : VReg) (x : VWord) : (m.setV i x).start = m.start := rfl
@[simp] theorem Team.setV_begun (m : Team) (i : VReg) (x : VWord) : (m.setV i x).begun = m.begun := rfl

/-! ## `Team.flag` -/

@[simp] theorem Team.flag_asid (m : Team) (f : W64) : (m.flag f).asid = m.asid := rfl
@[simp] theorem Team.flag_ident (m : Team) (f : W64) : (m.flag f).ident = m.ident := rfl
@[simp] theorem Team.flag_block (m : Team) (f : W64) : (m.flag f).block = m.block := rfl
@[simp] theorem Team.flag_ext (m : Team) (f : W64) : (m.flag f).ext = m.ext := rfl
@[simp] theorem Team.flag_n (m : Team) (f : W64) : (m.flag f).n = m.n := rfl
@[simp] theorem Team.flag_grant (m : Team) (f : W64) : (m.flag f).grant = m.grant := rfl
@[simp] theorem Team.flag_v (m : Team) (f : W64) : (m.flag f).v = m.v := rfl
@[simp] theorem Team.flag_p (m : Team) (f : W64) : (m.flag f).p = m.p := rfl
@[simp] theorem Team.flag_ac (m : Team) (f : W64) : (m.flag f).ac = m.ac := rfl
@[simp] theorem Team.flag_toks (m : Team) (f : W64) : (m.flag f).toks = m.toks := rfl
@[simp] theorem Team.flag_q (m : Team) (f : W64) : (m.flag f).q = m.q := rfl
@[simp] theorem Team.flag_deadline (m : Team) (f : W64) : (m.flag f).deadline = m.deadline := rfl
@[simp] theorem Team.flag_count (m : Team) (f : W64) : (m.flag f).count = m.count := rfl
@[simp] theorem Team.flag_yreq (m : Team) (f : W64) : (m.flag f).yreq = m.yreq := rfl
@[simp] theorem Team.flag_yreqAt (m : Team) (f : W64) : (m.flag f).yreqAt = m.yreqAt := rfl
@[simp] theorem Team.flag_residence (m : Team) (f : W64) : (m.flag f).residence = m.residence := rfl
@[simp] theorem Team.flag_asleepFor (m : Team) (f : W64) : (m.flag f).asleepFor = m.asleepFor := rfl
@[simp] theorem Team.flag_bart (m : Team) (f : W64) : (m.flag f).bart = m.bart := rfl
@[simp] theorem Team.flag_barts (m : Team) (f : W64) : (m.flag f).barts = m.barts := rfl
@[simp] theorem Team.flag_lent (m : Team) (f : W64) : (m.flag f).lent = m.lent := rfl
@[simp] theorem Team.flag_lentAt (m : Team) (f : W64) : (m.flag f).lentAt = m.lentAt := rfl
@[simp] theorem Team.flag_tapAt (m : Team) (f : W64) : (m.flag f).tapAt = m.tapAt := rfl
@[simp] theorem Team.flag_vxch (m : Team) (f : W64) : (m.flag f).vxch = m.vxch := rfl
@[simp] theorem Team.flag_stopping (m : Team) (f : W64) : (m.flag f).stopping = m.stopping := rfl
@[simp] theorem Team.flag_exch (m : Team) (f : W64) : (m.flag f).exch = m.exch := rfl
@[simp] theorem Team.flag_killed (m : Team) (f : W64) : (m.flag f).killed = m.killed := rfl
@[simp] theorem Team.flag_gang (m : Team) (f : W64) : (m.flag f).gang = m.gang := rfl
@[simp] theorem Team.flag_noExchange (m : Team) (f : W64) : (m.flag f).noExchange = m.noExchange := rfl
@[simp] theorem Team.flag_regAt (m : Team) (f : W64) : (m.flag f).regAt = m.regAt := rfl
@[simp] theorem Team.flag_denseFree (m : Team) (f : W64) : (m.flag f).denseFree = m.denseFree := rfl
@[simp] theorem Team.flag_start (m : Team) (f : W64) : (m.flag f).start = m.start := rfl
@[simp] theorem Team.flag_begun (m : Team) (f : W64) : (m.flag f).begun = m.begun := rfl

/-! ## `Team.clearAcsat` -/

@[simp] theorem Team.clearAcsat_asid (m : Team) (k : Nat) : (m.clearAcsat k).asid = m.asid := rfl
@[simp] theorem Team.clearAcsat_ident (m : Team) (k : Nat) : (m.clearAcsat k).ident = m.ident := rfl
@[simp] theorem Team.clearAcsat_block (m : Team) (k : Nat) : (m.clearAcsat k).block = m.block := rfl
@[simp] theorem Team.clearAcsat_ext (m : Team) (k : Nat) : (m.clearAcsat k).ext = m.ext := rfl
@[simp] theorem Team.clearAcsat_n (m : Team) (k : Nat) : (m.clearAcsat k).n = m.n := rfl
@[simp] theorem Team.clearAcsat_grant (m : Team) (k : Nat) : (m.clearAcsat k).grant = m.grant := rfl
@[simp] theorem Team.clearAcsat_v (m : Team) (k : Nat) : (m.clearAcsat k).v = m.v := rfl
@[simp] theorem Team.clearAcsat_p (m : Team) (k : Nat) : (m.clearAcsat k).p = m.p := rfl
@[simp] theorem Team.clearAcsat_ac (m : Team) (k : Nat) : (m.clearAcsat k).ac = m.ac := rfl
@[simp] theorem Team.clearAcsat_toks (m : Team) (k : Nat) : (m.clearAcsat k).toks = m.toks := rfl
@[simp] theorem Team.clearAcsat_q (m : Team) (k : Nat) : (m.clearAcsat k).q = m.q := rfl
@[simp] theorem Team.clearAcsat_deadline (m : Team) (k : Nat) : (m.clearAcsat k).deadline = m.deadline := rfl
@[simp] theorem Team.clearAcsat_count (m : Team) (k : Nat) : (m.clearAcsat k).count = m.count := rfl
@[simp] theorem Team.clearAcsat_yreq (m : Team) (k : Nat) : (m.clearAcsat k).yreq = m.yreq := rfl
@[simp] theorem Team.clearAcsat_yreqAt (m : Team) (k : Nat) : (m.clearAcsat k).yreqAt = m.yreqAt := rfl
@[simp] theorem Team.clearAcsat_residence (m : Team) (k : Nat) : (m.clearAcsat k).residence = m.residence := rfl
@[simp] theorem Team.clearAcsat_asleepFor (m : Team) (k : Nat) : (m.clearAcsat k).asleepFor = m.asleepFor := rfl
@[simp] theorem Team.clearAcsat_bart (m : Team) (k : Nat) : (m.clearAcsat k).bart = m.bart := rfl
@[simp] theorem Team.clearAcsat_barts (m : Team) (k : Nat) : (m.clearAcsat k).barts = m.barts := rfl
@[simp] theorem Team.clearAcsat_lent (m : Team) (k : Nat) : (m.clearAcsat k).lent = m.lent := rfl
@[simp] theorem Team.clearAcsat_lentAt (m : Team) (k : Nat) : (m.clearAcsat k).lentAt = m.lentAt := rfl
@[simp] theorem Team.clearAcsat_tapAt (m : Team) (k : Nat) : (m.clearAcsat k).tapAt = m.tapAt := rfl
@[simp] theorem Team.clearAcsat_vxch (m : Team) (k : Nat) : (m.clearAcsat k).vxch = m.vxch := rfl
@[simp] theorem Team.clearAcsat_stopping (m : Team) (k : Nat) : (m.clearAcsat k).stopping = m.stopping := rfl
@[simp] theorem Team.clearAcsat_exch (m : Team) (k : Nat) : (m.clearAcsat k).exch = m.exch := rfl
@[simp] theorem Team.clearAcsat_killed (m : Team) (k : Nat) : (m.clearAcsat k).killed = m.killed := rfl
@[simp] theorem Team.clearAcsat_gang (m : Team) (k : Nat) : (m.clearAcsat k).gang = m.gang := rfl
@[simp] theorem Team.clearAcsat_noExchange (m : Team) (k : Nat) : (m.clearAcsat k).noExchange = m.noExchange := rfl
@[simp] theorem Team.clearAcsat_regAt (m : Team) (k : Nat) : (m.clearAcsat k).regAt = m.regAt := rfl
@[simp] theorem Team.clearAcsat_denseFree (m : Team) (k : Nat) : (m.clearAcsat k).denseFree = m.denseFree := rfl
@[simp] theorem Team.clearAcsat_start (m : Team) (k : Nat) : (m.clearAcsat k).start = m.start := rfl
@[simp] theorem Team.clearAcsat_begun (m : Team) (k : Nat) : (m.clearAcsat k).begun = m.begun := rfl

/-! ## `Team.setQueue` -/

@[simp] theorem Team.setQueue_asid (m : Team) (i : QReg) (l : List W64) : (m.setQueue i l).asid = m.asid := rfl
@[simp] theorem Team.setQueue_ident (m : Team) (i : QReg) (l : List W64) : (m.setQueue i l).ident = m.ident := rfl
@[simp] theorem Team.setQueue_block (m : Team) (i : QReg) (l : List W64) : (m.setQueue i l).block = m.block := rfl
@[simp] theorem Team.setQueue_ext (m : Team) (i : QReg) (l : List W64) : (m.setQueue i l).ext = m.ext := rfl
@[simp] theorem Team.setQueue_n (m : Team) (i : QReg) (l : List W64) : (m.setQueue i l).n = m.n := rfl
@[simp] theorem Team.setQueue_grant (m : Team) (i : QReg) (l : List W64) : (m.setQueue i l).grant = m.grant := rfl
@[simp] theorem Team.setQueue_v (m : Team) (i : QReg) (l : List W64) : (m.setQueue i l).v = m.v := rfl
@[simp] theorem Team.setQueue_p (m : Team) (i : QReg) (l : List W64) : (m.setQueue i l).p = m.p := rfl
@[simp] theorem Team.setQueue_ac (m : Team) (i : QReg) (l : List W64) : (m.setQueue i l).ac = m.ac := rfl
@[simp] theorem Team.setQueue_toks (m : Team) (i : QReg) (l : List W64) : (m.setQueue i l).toks = m.toks := rfl
@[simp] theorem Team.setQueue_aflags (m : Team) (i : QReg) (l : List W64) : (m.setQueue i l).aflags = m.aflags := rfl
@[simp] theorem Team.setQueue_raised (m : Team) (i : QReg) (l : List W64) : (m.setQueue i l).raised = m.raised := rfl
@[simp] theorem Team.setQueue_deadline (m : Team) (i : QReg) (l : List W64) : (m.setQueue i l).deadline = m.deadline := rfl
@[simp] theorem Team.setQueue_count (m : Team) (i : QReg) (l : List W64) : (m.setQueue i l).count = m.count := rfl
@[simp] theorem Team.setQueue_yreq (m : Team) (i : QReg) (l : List W64) : (m.setQueue i l).yreq = m.yreq := rfl
@[simp] theorem Team.setQueue_yreqAt (m : Team) (i : QReg) (l : List W64) : (m.setQueue i l).yreqAt = m.yreqAt := rfl
@[simp] theorem Team.setQueue_residence (m : Team) (i : QReg) (l : List W64) : (m.setQueue i l).residence = m.residence := rfl
@[simp] theorem Team.setQueue_asleepFor (m : Team) (i : QReg) (l : List W64) : (m.setQueue i l).asleepFor = m.asleepFor := rfl
@[simp] theorem Team.setQueue_bart (m : Team) (i : QReg) (l : List W64) : (m.setQueue i l).bart = m.bart := rfl
@[simp] theorem Team.setQueue_barts (m : Team) (i : QReg) (l : List W64) : (m.setQueue i l).barts = m.barts := rfl
@[simp] theorem Team.setQueue_lent (m : Team) (i : QReg) (l : List W64) : (m.setQueue i l).lent = m.lent := rfl
@[simp] theorem Team.setQueue_lentAt (m : Team) (i : QReg) (l : List W64) : (m.setQueue i l).lentAt = m.lentAt := rfl
@[simp] theorem Team.setQueue_tapAt (m : Team) (i : QReg) (l : List W64) : (m.setQueue i l).tapAt = m.tapAt := rfl
@[simp] theorem Team.setQueue_vxch (m : Team) (i : QReg) (l : List W64) : (m.setQueue i l).vxch = m.vxch := rfl
@[simp] theorem Team.setQueue_stopping (m : Team) (i : QReg) (l : List W64) : (m.setQueue i l).stopping = m.stopping := rfl
@[simp] theorem Team.setQueue_exch (m : Team) (i : QReg) (l : List W64) : (m.setQueue i l).exch = m.exch := rfl
@[simp] theorem Team.setQueue_killed (m : Team) (i : QReg) (l : List W64) : (m.setQueue i l).killed = m.killed := rfl
@[simp] theorem Team.setQueue_gang (m : Team) (i : QReg) (l : List W64) : (m.setQueue i l).gang = m.gang := rfl
@[simp] theorem Team.setQueue_noExchange (m : Team) (i : QReg) (l : List W64) : (m.setQueue i l).noExchange = m.noExchange := rfl
@[simp] theorem Team.setQueue_regAt (m : Team) (i : QReg) (l : List W64) : (m.setQueue i l).regAt = m.regAt := rfl
@[simp] theorem Team.setQueue_denseFree (m : Team) (i : QReg) (l : List W64) : (m.setQueue i l).denseFree = m.denseFree := rfl
@[simp] theorem Team.setQueue_start (m : Team) (i : QReg) (l : List W64) : (m.setQueue i l).start = m.start := rfl
@[simp] theorem Team.setQueue_begun (m : Team) (i : QReg) (l : List W64) : (m.setQueue i l).begun = m.begun := rfl

/-! ## `Team.acSet` -/

@[simp] theorem Team.acSet_asid (m : Team) (k : Nat) (f : Nat → W32) : (m.acSet k f).asid = m.asid := rfl
@[simp] theorem Team.acSet_ident (m : Team) (k : Nat) (f : Nat → W32) : (m.acSet k f).ident = m.ident := rfl
@[simp] theorem Team.acSet_block (m : Team) (k : Nat) (f : Nat → W32) : (m.acSet k f).block = m.block := rfl
@[simp] theorem Team.acSet_ext (m : Team) (k : Nat) (f : Nat → W32) : (m.acSet k f).ext = m.ext := rfl
@[simp] theorem Team.acSet_n (m : Team) (k : Nat) (f : Nat → W32) : (m.acSet k f).n = m.n := rfl
@[simp] theorem Team.acSet_grant (m : Team) (k : Nat) (f : Nat → W32) : (m.acSet k f).grant = m.grant := rfl
@[simp] theorem Team.acSet_v (m : Team) (k : Nat) (f : Nat → W32) : (m.acSet k f).v = m.v := rfl
@[simp] theorem Team.acSet_p (m : Team) (k : Nat) (f : Nat → W32) : (m.acSet k f).p = m.p := rfl
@[simp] theorem Team.acSet_toks (m : Team) (k : Nat) (f : Nat → W32) : (m.acSet k f).toks = m.toks := rfl
@[simp] theorem Team.acSet_q (m : Team) (k : Nat) (f : Nat → W32) : (m.acSet k f).q = m.q := rfl
@[simp] theorem Team.acSet_aflags (m : Team) (k : Nat) (f : Nat → W32) : (m.acSet k f).aflags = m.aflags := rfl
@[simp] theorem Team.acSet_raised (m : Team) (k : Nat) (f : Nat → W32) : (m.acSet k f).raised = m.raised := rfl
@[simp] theorem Team.acSet_deadline (m : Team) (k : Nat) (f : Nat → W32) : (m.acSet k f).deadline = m.deadline := rfl
@[simp] theorem Team.acSet_count (m : Team) (k : Nat) (f : Nat → W32) : (m.acSet k f).count = m.count := rfl
@[simp] theorem Team.acSet_yreq (m : Team) (k : Nat) (f : Nat → W32) : (m.acSet k f).yreq = m.yreq := rfl
@[simp] theorem Team.acSet_yreqAt (m : Team) (k : Nat) (f : Nat → W32) : (m.acSet k f).yreqAt = m.yreqAt := rfl
@[simp] theorem Team.acSet_residence (m : Team) (k : Nat) (f : Nat → W32) : (m.acSet k f).residence = m.residence := rfl
@[simp] theorem Team.acSet_asleepFor (m : Team) (k : Nat) (f : Nat → W32) : (m.acSet k f).asleepFor = m.asleepFor := rfl
@[simp] theorem Team.acSet_bart (m : Team) (k : Nat) (f : Nat → W32) : (m.acSet k f).bart = m.bart := rfl
@[simp] theorem Team.acSet_barts (m : Team) (k : Nat) (f : Nat → W32) : (m.acSet k f).barts = m.barts := rfl
@[simp] theorem Team.acSet_lent (m : Team) (k : Nat) (f : Nat → W32) : (m.acSet k f).lent = m.lent := rfl
@[simp] theorem Team.acSet_lentAt (m : Team) (k : Nat) (f : Nat → W32) : (m.acSet k f).lentAt = m.lentAt := rfl
@[simp] theorem Team.acSet_tapAt (m : Team) (k : Nat) (f : Nat → W32) : (m.acSet k f).tapAt = m.tapAt := rfl
@[simp] theorem Team.acSet_vxch (m : Team) (k : Nat) (f : Nat → W32) : (m.acSet k f).vxch = m.vxch := rfl
@[simp] theorem Team.acSet_stopping (m : Team) (k : Nat) (f : Nat → W32) : (m.acSet k f).stopping = m.stopping := rfl
@[simp] theorem Team.acSet_exch (m : Team) (k : Nat) (f : Nat → W32) : (m.acSet k f).exch = m.exch := rfl
@[simp] theorem Team.acSet_killed (m : Team) (k : Nat) (f : Nat → W32) : (m.acSet k f).killed = m.killed := rfl
@[simp] theorem Team.acSet_gang (m : Team) (k : Nat) (f : Nat → W32) : (m.acSet k f).gang = m.gang := rfl
@[simp] theorem Team.acSet_noExchange (m : Team) (k : Nat) (f : Nat → W32) : (m.acSet k f).noExchange = m.noExchange := rfl
@[simp] theorem Team.acSet_regAt (m : Team) (k : Nat) (f : Nat → W32) : (m.acSet k f).regAt = m.regAt := rfl
@[simp] theorem Team.acSet_denseFree (m : Team) (k : Nat) (f : Nat → W32) : (m.acSet k f).denseFree = m.denseFree := rfl
@[simp] theorem Team.acSet_start (m : Team) (k : Nat) (f : Nat → W32) : (m.acSet k f).start = m.start := rfl
@[simp] theorem Team.acSet_begun (m : Team) (k : Nat) (f : Nat → W32) : (m.acSet k f).begun = m.begun := rfl

/-! ## `Team.setP`: p0 is never written (R101) -/

theorem Team.setP_zero (m : Team) (x : PWord) : m.setP 0 x = m := rfl

theorem Team.setP_eq (m : Team) {i : PReg} (x : PWord) (h : i ≠ 0) :
    m.setP i x = { m with p := m.p.set i.toNat x i.isLt } := if_neg h

/-! ## Registers, flags, accumulators -/

@[simp] theorem Team.flag_aflags (m : Team) (f : W64) : (m.flag f).aflags = m.aflags ||| f := rfl
@[simp] theorem Team.flag_raised (m : Team) (f : W64) : (m.flag f).raised = m.raised ||| f := rfl
@[simp] theorem Team.vr_flag (m : Team) (f : W64) (i : VReg) : (m.flag f).vr i = m.vr i := rfl
@[simp] theorem Team.vr_acSet (m : Team) (k : Nat) (f : Nat → W32) (i : VReg) : (m.acSet k f).vr i = m.vr i := rfl
@[simp] theorem Team.pred_setV (m : Team) (i : VReg) (x : VWord) (p : PReg) : (m.setV i x).pred p = m.pred p := rfl
@[simp] theorem Team.acGet_flag (m : Team) (f : W64) (k e : Nat) : (m.flag f).acGet k e = m.acGet k e := rfl

@[simp] theorem Team.vr_setV_same (m : Team) (i : VReg) (x : VWord) : (m.setV i x).vr i = x := by
  simp [Team.vr, Team.setV]

theorem Team.vr_setV_other (m : Team) {i j : VReg} (x : VWord) (h : j ≠ i) : (m.setV i x).vr j = m.vr j :=
  Vector.getElem_set_ne i.isLt j.isLt (fun e => h (BitVec.eq_of_toNat_eq e.symm))

/-- A table without the keys that a test refuses finds every other key as before. -/
theorem Table.find_filter_key {α : Type} (p : Nat → Bool) (k : Nat) (t : Table α) :
    Table.find (t.filter (fun e => p e.1)) k = if p k then t.find k else none := by
  induction t with
  | nil => simp [Table.find]
  | cons e t ih =>
    obtain ⟨j, v⟩ := e
    by_cases hj : p j = true
    · by_cases hk : j = k
      · subst hk; simp [Table.find, hj]
      · simp [Table.find, hj, hk, ih]
    · by_cases hk : j = k
      · subst hk; simp [hj, ih]
      · simp [Table.find, hj, hk, ih]

theorem Table.find_append {α : Type} (t u : Table α) (k : Nat) :
    Table.find (t ++ u) k = (t.find k).or (u.find k) := by
  induction t with
  | nil => simp [Table.find]
  | cons e t ih =>
    obtain ⟨j, v⟩ := e
    by_cases hk : j = k <;> simp [Table.find, hk, ih]

/-- A table of consecutive keys, its defaults left out, finds each one's value. -/
theorem Table.find_range {α : Type} [DecidableEq α] (d : α) (f : Nat → α) (b n k : Nat) :
    Table.find (((List.range n).map (fun e => (b + e, f e))).filter (fun x => x.2 != d)) k =
      if b ≤ k ∧ k < b + n ∧ f (k - b) ≠ d then some (f (k - b)) else none := by
  induction n with
  | zero => simp [Table.find]; omega
  | succ n ih =>
    rw [List.range_succ, List.map_append, List.filter_append, Table.find_append, ih]
    by_cases hk : k = b + n
    · subst hk
      by_cases hf : f n = d <;> simp [Table.find, hf]
    · have h : Table.find (List.filter (fun x => x.2 != d) (List.map (fun e => (b + e, f e)) [n])) k = none := by
        by_cases hf : f n = d <;> simp [Table.find, hf, Ne.symm hk]
      have e : k < b + (n + 1) ↔ k < b + n := by omega
      simp only [h, Option.or_none, e]

/-- An accumulator element after an accumulator is replaced (R236). -/
theorem Team.acGet_acSet (m : Team) (n k : Nat) (f : Nat → W32) {e : Nat} (h : e < 512) :
    (m.acSet n f).acGet k e = if k = n then f e else m.acGet k e := by
  have find : Table.find (m.acSet n f).ac (512 * k + e) =
      if k = n then (if f e ≠ 0 then some (f e) else none) else m.ac.find (512 * k + e) := by
    unfold Team.acSet
    simp only [Table.find_append]
    rw [Table.find_filter_key (fun j => decide (j < 512 * n)), Table.find_range,
      Table.find_filter_key (fun j => decide (512 * n + 512 ≤ j))]
    rcases Nat.lt_trichotomy k n with hk | rfl | hk
    · have h1 : 512 * k + e < 512 * n := by omega
      have h2 : ¬ (512 * n ≤ 512 * k + e) := by omega
      have h3 : ¬ (512 * n + 512 ≤ 512 * k + e) := by omega
      simp [h1, h2, h3, hk.ne]
    · have h1 : ¬ (512 * k + e < 512 * k) := by omega
      have h3 : ¬ (512 * k + 512 ≤ 512 * k + e) := by omega
      simp [h1, h3, h]
    · have h1 : ¬ (512 * k + e < 512 * n) := by omega
      have h2 : ¬ (512 * k + e < 512 * n + 512) := by omega
      have h3 : 512 * n + 512 ≤ 512 * k + e := by omega
      simp [h1, h2, h3, hk.ne']
  unfold Team.acGet Table.get
  rw [find]
  by_cases hk : k = n
  · by_cases hf : f e = 0
    · simp [hk, hf]
    · simp only [hk, ne_eq, hf, not_false_eq_true, if_true]; rfl
  · simp [hk]

/-- A lane of a register made of lanes (R206). -/
theorem lane_packLanes (w : Nat) (l : List Nat) (j : Nat) (hj : w * (j + 1) ≤ 1024) :
    lane (packLanes w l) w j = l.getD j 0 % 2 ^ w := by
  have fold : ∀ (l : List Nat) (j : Nat), l.foldr (fun x a => x % 2 ^ w + 2 ^ w * a) 0 / 2 ^ (w * j) % 2 ^ w =
      l.getD j 0 % 2 ^ w := by
    intro l
    induction l with
    | nil => intro j; simp
    | cons x l ih =>
      intro j
      cases j with
      | zero => simp [Nat.add_mul_mod_self_left]
      | succ j =>
        have hp : 0 < 2 ^ w := Nat.two_pow_pos w
        simp only [List.foldr_cons, List.getD_cons_succ]
        rw [← ih j, Nat.mul_succ, Nat.add_comm (w * j) w, Nat.pow_add, ← Nat.div_div_eq_div_mul,
          Nat.add_mul_div_left _ _ hp, Nat.div_eq_of_lt (Nat.mod_lt x hp), Nat.zero_add]
  unfold lane packLanes
  rw [BitVec.toNat_ushiftRight, BitVec.toNat_ofNat, Nat.shiftRight_eq_div_pow]
  rw [← fold l j]
  have : 1024 = w * j + (1024 - w * j) := by
    have : w * j ≤ w * (j + 1) := Nat.mul_le_mul_left w (Nat.le_succ j)
    omega
  have hw : w ≤ 1024 - w * j := by rw [Nat.mul_succ] at hj; omega
  rw [this, Nat.pow_add, Nat.mod_mul_right_div_self]
  exact Nat.mod_mod_of_dvd _ (Nat.pow_dvd_pow 2 hw)

end Sys2Proof.Machine
end

