-- ==== Sys2Proof/Tests/Slice0.lean ====
section
/-! SUPPORT. Tests of the model's author: ill-formed terms, words of the encoding tables, single steps, and states that
meet the hypotheses of the statements. Expected values are worked out from the spec's tables. -/
namespace Sys2Proof.Tests
open Sys2Proof Sys2Proof.Machine Sys2Proof.Claims
set_option maxRecDepth 20000
set_option Elab.async false

/-! ## Witness states -/

/-- A strand of context 1, edition 3, block 5, whose instruction stands at 0x1000. -/
def strandOf (k : Kind) : Strand :=
  { Strand.fresh 7 1 k 0x1000 0 with mustAcquire := false, started := true, edition := some 3, block := some 5 }
abbrev anch : Strand := strandOf .anchored
abbrev lite : Strand := strandOf .forked
/-- Its team, with a grant of 4 KiB. -/
def team1 : Team := { fetchTeam with ident := 3, block := 5, grant := 0x1000 }
/-- Tile 0 with the strand in slot k and the team. -/
def tile1 (st : Strand) (k : Nat) : Tile :=
  { Tile.reset with strands := [(k, st)], team := some team1, lastCtx := some 1 }
/-- Context 1 as die 0 has it, the tiles 0 to 31 its partition. -/
def ctx1 : Ctx := { Ctx.absent with
  valid := true, ceiling := 2, quantum := 1600, ptroot := 0x500000, ttbase := 0x300000, ttlen := 8, spill := 0x400000,
  spillsize := 0x1000, save := 0x1000000, pkgmask := 1 }
def die1 : Die := { Die.reset with ctxs := [(1, ctx1)], grants := [(1, 0xFFFFFFFF)] }
/-- A machine with that tile alone, in which the strand executes. -/
def mach (w : Tile) (k : Nat) : State :=
  { State.reset with
    tiles := [(0, w)], dies := [(0, die1)], roots := [(1, { Root.reset with seq := 1 })], clk := 100, fresh := 50,
    cur := .tile 0 k }
def one (st : Strand) (k : Nat) : State := mach (tile1 st k) k
/-- The local alias, tile space of tile 0, the window of a supervisor. -/
abbrev al : W64 := 0xD000000000000000
abbrev sp : W64 := 0xE000000000000000
abbrev ph : W64 := 0xC000000000000000
/-- Registers 1, 2, 3 given. -/
def regs3 (st : Strand) (a b c : W64) : Strand := ((st.wr 1 a).wr 2 b).wr 3 c
/-- A leaf for a page at 0x200000: valid, of 4 KiB or of 2 MiB, readable, writable, executable, dirty. -/
abbrev leaf4k : W64 := BitVec.ofNat 64 (2 ^ 63 + 2 ^ 57 + 2 ^ 56 + 2 ^ 55 + 2 ^ 54 + 0x200000)
abbrev leaf2m : W64 := BitVec.ofNat 64 (2 ^ 63 + 2 * 2 ^ 60 + 2 ^ 57 + 2 ^ 56 + 2 ^ 55 + 2 ^ 54 + 0x200000)
/-- Virtual 0x10000 of context 1 on device address 0x200000. -/
def page : TlbEnt := ⟨1, 0x10000, 4096, leaf4k, true⟩
/-- The strand with the page in its tile's TLB. -/
def paged (st : Strand) (k : Nat) : State := mach { tile1 st k with tlb := [page] } k
/-- A supervisor strand of die 0 executes. -/
def sup (st : Strand) : State := { one st 0 with dies := [(0, { die1 with sups := [(0, st)] })], cur := .sup 0 0 }
/-- Edition 3 of context 1, its block 5 dealt to tile 0, launched from tile 1. -/
def ed3 : Edition where
  ident := 3
  seq := 1
  desc := parseDesc (List.replicate 128 0)
  uid := 7
  own := .team 1 2 0
  tok := 1
  tile := 1
  state := .running
  kill := false
  pred := none
  arrived := [0]
  eligible := [(0, 50)]
  atRoot := []
  atPkg := []
  atDie := []
  dealt := [⟨5, 0⟩]
  next := 0
  done := 0
  dropped := 0
  killed := 0
  folios := []
  reported := []
  reports := []
  merged := Report.empty
  reportRead := false
  begun := 0
  gangStart := none
  gangOn := false
  gangAsk := false
  slice := 0
  sliceAt := 0
  timed := []
  late := []
  gangTiles := []
  cancels := []
/-- Operands of the next step. -/
def ev (s : State) (x : EvArg) : State := { s with ev := x }

def memAt (s : State) (k : Nat) (bs : List Byte) : State := { s with mem := Memory.writeN s.mem k bs }

/-! ## Scalar instructions, loads, stores, atomics: the hypotheses of their statements hold somewhere -/

theorem wit_scalar : (one anch 0).At (.tile 0 0) anch ∧ scalarValue (.add 1 2 3) anch = some (1, nat 0) ∧
    scalarValue (.div 1 2 3) anch = some (1, int (-1)) := by
  refine ⟨⟨rfl, rfl⟩, ?_, ?_⟩ <;> decide +kernel

theorem wit_branch : (one lite 8).At (.tile 0 8) lite ∧ branchOf (.beqz 1 (-1)) lite = some (true, -1) ∧
    branchOf (.bnez 1 4) lite = some (false, 4) := by
  refine ⟨⟨rfl, rfl⟩, ?_, ?_⟩ <;> decide +kernel

theorem wit_jalr : (one anch 0).At (.tile 0 0) anch ∧ (anch.rd 1 + int (-4)).toNat % 4 = 0 ∧
    (anch.rd 1 + int 2).toNat % 4 ≠ 0 ∧ (sup anch).At (.sup 0 0) anch := by
  refine ⟨⟨rfl, rfl⟩, ?_, ?_, rfl, rfl⟩ <;> decide +kernel

theorem wit_own : (∃ st, st = regs3 anch (al + 0xFF8) 0 0 ∧ (one st 0).At (.tile 0 0) st ∧
      OwnBytes (one st 0) 0 st team1 (st.rd 1) 0xFF8 8) ∧
    ∃ st, st = regs3 anch sp 0 0 ∧ (one st 0).At (.tile 0 0) st ∧ OwnBytes (one st 0) 0 st team1 (st.rd 1) 0 8 := by
  refine ⟨⟨_, rfl, ⟨rfl, rfl⟩, by decide +kernel, rfl, rfl, by decide +kernel, by decide +kernel, .inl ?_, rfl, rfl⟩,
    ⟨_, rfl, ⟨rfl, rfl⟩, by decide +kernel, rfl, rfl, by decide +kernel, by decide +kernel, .inr ?_, rfl, rfl⟩⟩ <;> decide +kernel

theorem wit_load : ∃ st, st = regs3 anch (al + 0xFF8) 0 0 ∧
    loadOf (.ldd 4 1 .acquire 0) st = some (4, al + 0xFF8, .acquire, 8, false) ∧ (al + 0xFF8).toNat % 8 = 0 ∧
    Settled (one st 0) 0 0 st .acquire (.spad 0 0xFF8) 8 := by
  refine ⟨_, rfl, ?_, ?_, ?_, ?_⟩ <;> decide +kernel

/-- A store of the strand on its way to the bytes that it loads. -/
def queuedStore : StoreEnt := ⟨9, 7, 1, none, al + 0xFF8, [(.spad 0 0xFF8, 8)], [1, 2, 3, 4, 5, 6, 7, 8], .store, .relaxed, false⟩
theorem wit_load_queued : ∃ st s, st = regs3 anch (al + 0xFF8) 0 0 ∧ s = mach { tile1 st 0 with sb := [queuedStore] } 0 ∧
    s.At (.tile 0 0) st ∧ loadOf (.ldd 4 1 .relaxed 0) st = some (4, al + 0xFF8, .relaxed, 8, false) ∧
    OwnBytes s 0 st team1 (al + 0xFF8) 0xFF8 8 ∧ (∀ e ∈ (s.tile 0).side, e.uid ≠ st.uid) ∧
    (∀ e ∈ (s.tile 0).sb, e.uid = st.uid → e.kind = .store) ∧ queuedStore.uid = st.uid := by
  refine ⟨_, _, rfl, rfl, ⟨rfl, rfl⟩, ?_, ⟨?_, rfl, rfl, ?_, ?_, .inl ?_, rfl, rfl⟩, ?_, ?_, rfl⟩ <;> decide +kernel

/-- The last 8 bytes of the page. -/
theorem wit_device : ∃ st, st = regs3 anch 0x10FF8 0 0 ∧ (paged st 0).At (.tile 0 0) st ∧
    DeviceBytes (paged st 0) 0 st 0x10FF8 0x200FF8 8 page ∧ loadOf (.ldd 4 1 .relaxed 0) st = some (4, 0x10FF8, .relaxed, 8, false) ∧
    Settled (paged st 0) 0 0 st .relaxed (.dev 0x200FF8) 8 ∧ (∀ w ∈ wordsOf 0x200FF8 8, ((paged st 0).tile 0).l1.find w = none) ∧
    (∀ h ∈ (paged st 0).hist, h.key + h.old.length ≤ 0x200FF8 ∨ 0x200FF8 + 8 ≤ h.key) := by
  refine ⟨_, rfl, ⟨rfl, rfl⟩, ⟨?_, rfl, ?_, ?_, ?_, ?_, ?_, ?_, ?_, rfl, rfl⟩, ?_, ⟨?_, nofun⟩, ?_, ?_⟩ <;> decide +kernel

theorem wit_ldc : ∃ st, st = regs3 anch (al + 0xFF8) 0 0 ∧ (al + 0xFF8) = st.rd 1 + int (BitVec.toInt (0 : BitVec 38)) ∧
    (one st 0).drained (.tile 0 0) st = true := by
  refine ⟨_, rfl, ?_, ?_⟩ <;> decide +kernel

theorem wit_store : ∃ st, st = regs3 anch (al + 0xFF8) 9 0 ∧
    storeOf (.std 2 1 .acqRel 0) st = some (al + 0xFF8, 9, .acqRel, 8, .store, 8) ∧
    storeOf (.radd 1 2 .relaxed .w) st = some (al + 0xFF8, 9, .relaxed, 4, .radd .w, 4) ∧
    (∀ e ∈ ((one st 0).tile 0).side, e.uid ≠ st.uid) ∧ (one st 0).drained (.tile 0 0) st = true := by
  refine ⟨_, rfl, ?_, ?_, ?_, ?_⟩ <;> decide +kernel

/-- A store, or a RADD, of 8 bytes at 0xFF8 of tile 0's scratchpad waits for its registration as entry 40. -/
def waiting (kind : StoreKind) (l : Loc) : State := ev (mach { tile1 anch 0 with
  sb := [⟨40, 7, 1, some 3, sp + 0xFF8, [(l, 8)], [1, 2, 3, 4, 5, 6, 7, 8], kind, .relaxed, false⟩] } 0) { tile := 0, n := 40 }

theorem wit_registration : (∀ kind ∈ [StoreKind.store, .radd .d], ∀ l ∈ [Loc.spad 0 0xFF8, .dev 0x200000],
      (waiting kind l).ev.tile = 0 ∧ ∃ e, ((waiting kind l).tile 0).sb.find? (fun x => x.n == 40 && !x.registered) = some e ∧
      (waiting kind l).firstEntry 0 e = e ∧ e.segs = [(l, 8)] ∧ e.data.length = 8 ∧ (waiting kind l).migrating e.segs = false ∧
      ∀ d, l.die = some d → NoWatch (waiting kind l) d e.asid) ∧
    (waiting .store (.spad 0 0)).team 0 = some team1 ∧ team1.asid = 1 ∧ 0xFF8 + 8 ≤ team1.grant ∧
    ((waiting .store (.spad 0 0)).die 0).resetting = false ∧ (waiting .store (.dev 0x200000)).noticePage 0x200000 = false ∧
    ∀ x ∈ ((one anch 0).tile 0).sb, x.n = 40 → x.registered = true := by
  refine ⟨?_, rfl, rfl, by decide +kernel, rfl, rfl, by decide +kernel⟩
  intro kind hk l hl
  simp only [List.mem_cons, List.not_mem_nil, or_false] at hk hl
  rcases hk with rfl | rfl <;> rcases hl with rfl | rfl <;>
    exact ⟨rfl, _, rfl, rfl, rfl, rfl, rfl, fun d h => by cases h; intro e he; cases he⟩

theorem wit_atomic : ∃ st, st = regs3 anch (al + 0xFF8) 9 0 ∧ (∃ f, atomicOf (.aadd 4 1 2 .relaxed .d) st =
      some (4, al + 0xFF8, .relaxed, 8, false, f)) ∧ (al + 0xFF8).toNat % 8 = 0 ∧ (one st 0).drained (.tile 0 0) st = true ∧
    NoWatch (one st 0) 0 st.asid := by
  refine ⟨_, rfl, ⟨_, rfl⟩, ?_, ?_, nofun⟩ <;> decide +kernel

/-- Addresses at the edges of the ranges of R24 for an 8-byte load (base register 1). -/
theorem wit_access : (∀ u ∈ [2 ^ 56 - 4, 2 ^ 56, 0xCFFFFFFFFFFFFFFF, 0xD000000000180000, 0xDFFFFFFFFFFFFFFF, 0xE000010000000000,
      0xD00000000017FFFC], u < 2 ^ 56 ∧ 2 ^ 56 < u + 8 ∨ 2 ^ 56 ≤ u ∧ u < 0xD000000000000000 ∨
      0xD000000000180000 ≤ u ∧ u < 0xE000000000000000 ∨ 0xE000010000000000 ≤ u ∨
      0xD000000000000000 ≤ u ∧ u < 0xD000000000180000 ∧ 0xD000000000180000 < u + 8) ∧
    (∀ u : W64, accessOf (.ldd 4 1 .relaxed 0) (regs3 anch u 0 0) = some (u, 8, 1)) ∧
    accessOf (.acas 4 1 2 3 .relaxed .d) (regs3 anch (al + 1) 0 0) = some (al + 1, 8, 8) ∧
    ((one lite 8).tile 0).grantOf 1 = some 0x1000 ∧ 0x1000 < 0xFFC + 8 ∧ ({ Tile.reset with team := none } : Tile).grantOf 1 = none ∧
    (one anch 0).inPartition 0 1 32 = false := by
  refine ⟨by decide, fun u => ?_, by decide +kernel, rfl, by decide, rfl, by decide +kernel⟩
  simp [accessOf, loadOf, regs3, Strand.rd, Strand.wr, Sys2Proof.Claims.int]

/-- In tile space: an offset past the scratchpad, the last tile within and the first outside the partition, the own tile with and
without a grant and at its end, a scratchpad's end, misaligned. -/
theorem wit_tile_space : (∀ o ∈ [0x180000, 0x1FFFFF], (sp.toNat + o - 0xE000000000000000) % 2 ^ 21 ≥ 0x180000) ∧
    (one anch 0).inPartition 0 1 31 = true ∧ (one anch 0).inPartition 0 1 32 = false ∧ (one anch 0).inPartition 0 1 0 = true ∧
    ((one anch 0).tile 0).grantOf 1 = some 0x1000 ∧ 0x1000 < 0xFF9 + 8 ∧ 0xFF8 + 8 ≤ 0x1000 ∧
    (∃ s, s = mach { tile1 anch 0 with team := none } 0 ∧ s.At (.tile 0 0) anch ∧ (s.tile 0).grantOf 1 = none ∧
      s.inPartition 0 1 0 = true) ∧
    (∀ o ∈ [0x17FFF9, 0x17FFFF], (31 : Nat) ≠ 0 ∧ 0x180000 < (31 * 2 ^ 21 + o) % 2 ^ 21 + 8) ∧
    (tileSpace 31 0x17FFF1).toNat % 8 ≠ 0 ∧ ((31 * 2 ^ 21 + 0x17FFF1) % 2 ^ 21 + 8 ≤ 0x180000) := by
  refine ⟨by decide, ?_, ?_, ?_, rfl, by decide, by decide, ⟨_, rfl, ⟨rfl, rfl⟩, rfl, ?_⟩, by decide, ?_, by decide⟩ <;> decide +kernel

theorem wit_frame : (one anch 0).At (.tile 0 0) anch ∧ (loadDest (.ldb 1 2 .relaxed 0)).isSome ∧
    (storeOf (.stb 1 2 .relaxed 0) anch).isSome ∧ (∃ s', exec (.stb 1 2 .relaxed 0) (one anch 0) = .next s') := by
  refine ⟨⟨rfl, rfl⟩, by decide, by decide, ⟨_, rfl⟩⟩

theorem wit_sup_store : ∃ st, st = regs3 anch (ph + 0x1000) 9 0 ∧ (sup st).At (.sup 0 0) st ∧
    storeOf (.std 2 1 .relaxed 0) st = some (ph + 0x1000, 9, .relaxed, 8, .store, 1) ∧ ph + 0x1000 = nat (0xC000000000000000 + 0x1000) ∧
    (sup st).sealedIn 0x1000 8 = false ∧ (sup st).noticePage 0x1000 = false ∧ NoWatch (sup st) (0x1000 / 2 ^ 39) 0 := by
  refine ⟨_, rfl, ⟨rfl, rfl⟩, ?_, ?_, ?_, ?_, nofun⟩ <;> decide +kernel

/-- The supervisor, with a page of context 1 in its die's TLB and 1 or 0 in sys.svasid. -/
def supPaged (st : Strand) (a : BitVec 12) (l : List TlbEnt) : State :=
  { sup st with dies := [(0, { die1 with sups := [(0, st)], svasid := a, tlb := l })] }
/-- The last 8 bytes of a die's memory, and of the page: addresses of a load, a store and an atomic. -/
theorem wit_sup_access : (∃ st s, st = regs3 anch (ph + 0x1FFFFFFFF8) 9 0 ∧ s = sup st ∧ s.At (.sup 0 0) st ∧
      SupBytes s 0 (st.rd 1) 0x1FFFFFFFF8 8 true true ∧ s.poisoned 0x1FFFFFFFF8 8 = false ∧ s.sealedIn 0x1FFFFFFFF8 8 = false ∧
      s.noticePage 0x1FFFFFFFF8 = false ∧ NoWatch s 0 0 ∧
      (∃ f, atomicOf (.aadd 4 1 2 .relaxed .d) st = some (4, st.rd 1, .relaxed, 8, false, f)) ∧
      ({ s with poison := [0x1FFFFFFFF8 / 64] } : State).poisoned 0x1FFFFFFFF8 8 = true) ∧
    (∃ st s, st = regs3 anch 0x10FF8 9 0 ∧ s = supPaged st 1 [page] ∧ s.At (.sup 0 0) st ∧
      SupBytes s 0 (st.rd 1) 0x200FF8 8 true true ∧ s.poisoned 0x200FF8 8 = false ∧ s.sealedIn 0x200FF8 8 = false ∧
      s.noticePage 0x200FF8 = false ∧ NoWatch s 0 1 ∧
      accessOf (.ldc 4 1 0) st = some (st.rd 1, 8, 8) ∧
      storeOf (.radd 1 2 .relaxed .d) st = some (st.rd 1, 9, .relaxed, 8, .radd .d, 8)) := by
  refine ⟨⟨_, _, rfl, rfl, ⟨rfl, rfl⟩, .inl ?_, ?_, ?_, ?_, nofun, ⟨_, rfl⟩, ?_⟩,
    ⟨_, _, rfl, rfl, ⟨rfl, rfl⟩, .inr ⟨page, ?_⟩, ?_, ?_, ?_, nofun, ?_, ?_⟩⟩ <;> decide +kernel

/-- Where its accesses trap or wait: the edges of the ranges of R299, sys.svasid 0, no page, and pages without r or w. -/
theorem wit_sup_faults : (∀ u ∈ [2 ^ 56 - 4, 2 ^ 56, 0xBFFFFFFFFFFFFFFF, 0xC000001FFFFFFFFC, 0xC003FFFFFFFFFFFC, 0xEFFFFFFFFFFFFFFF,
      0xF0000000FFFFFFFC, 0xF000000100000000], u < 2 ^ 56 ∧ 2 ^ 56 < u + 8 ∨ 2 ^ 56 ≤ u ∧ u < 0xC000000000000000 ∨
      0xC000000000000000 ≤ u ∧ u < 0xF000000000000000 ∧
        (0xC000000000000000 + 2 ^ 50 < u + 8 ∨ 2 ^ 37 < (u - 0xC000000000000000) % 2 ^ 39 + 8) ∨
      0xF000000000000000 ≤ u ∧ 0xF000000000000000 + 2 ^ 32 < u + 8) ∧
    ((sup anch).die 0).svasid = 0 ∧ ((supPaged anch 1 [page]).die 0).svasid ≠ 0 ∧
    tlbFind ((supPaged anch 1 []).die 0).tlb 1 0x10FF8 = none ∧
    (∃ e : TlbEnt, e = { page with leaf := page.leaf &&& ~~~(2 ^ 57 : W64) } ∧
      tlbFind ((supPaged anch 1 [e]).die 0).tlb 1 0x10FF8 = some e ∧ pteR e.leaf = false) ∧
    ∃ e : TlbEnt, e = { page with leaf := page.leaf &&& ~~~(2 ^ 56 : W64) } ∧
      tlbFind ((supPaged anch 1 [e]).die 0).tlb 1 0x10FF8 = some e ∧ pteW e.leaf = false := by
  refine ⟨by decide, rfl, by decide +kernel, ?_, ⟨_, rfl, ?_⟩, ⟨_, rfl, ?_⟩⟩ <;> decide +kernel

/-! ## Coordination: hypotheses that hold somewhere -/

abbrev r0 : Ref := .tile 0 0
/-- A store of strand 7 that waits for its registration. -/
def unreg : StoreEnt := ⟨9, 7, 1, none, 0, [(.spad 0 0, 4)], [1, 2, 3, 4], .store, .relaxed, false⟩
def undrained (st : Strand) (k : Nat) : State := mach { tile1 st k with sb := [unreg] } k
/-- A second strand of the team, in slot 5, and a light one in slot 9. -/
def anch5 : Strand := { anch with uid := 8, rank := 1 }
def two (st st5 : Strand) (m : Team) : State :=
  mach { Tile.reset with strands := [(0, st), (5, st5), (9, { lite with uid := 9 })], team := some m, lastCtx := some 1 } 0

theorem inTeam_one (st : Strand) (h : st.kind = .anchored) : (one st 0).InTeam 0 0 st team1 := ⟨⟨rfl, rfl⟩, h, rfl, rfl⟩

theorem wit_fence : (one anch 0).At r0 anch ∧ (one anch 0).drained r0 anch = true ∧ (undrained anch 0).At r0 anch ∧
    (undrained anch 0).drained r0 anch = false ∧ (sup anch).At (.sup 0 0) anch ∧ (one anch 0).tilesOf 1 = [0] := by
  refine ⟨⟨rfl, rfl⟩, ?_, ⟨rfl, rfl⟩, ?_, ⟨rfl, rfl⟩, ?_⟩ <;> decide +kernel

theorem wit_serialise : (ev (one anch 0) { tile := 0, asid := 1 }).ev.flag = false ∧ ((one anch 0).tile 0).serials = [] ∧
    (∀ e ∈ ((one anch 0).tile 0).side, e.asid ≠ 1) ∧
    (∀ e ∈ ((one anch 0).tile 0).sb, e.asid = 1 → e.registered = true) ∧
    ∀ acks ∈ [1, 2], ∃ s st, s = ev (one st 0) { n := 33, k := 7 } ∧ s.findUid 7 = some r0 ∧ s.strand r0 = some st ∧
      st.hold = some (.fence 33 acks) := by
  refine ⟨rfl, rfl, by decide +kernel, by decide +kernel, fun acks _ =>
    ⟨_, { anch with hold := some (.fence 33 acks) }, rfl, rfl, rfl, rfl⟩⟩

/-- The last strand of two arrives; the release of both. -/
theorem wit_bart : (two anch { anch5 with hold := some .bart } { team1 with bart := [5] }).InTeam 0 0 anch { team1 with bart := [5] } ∧
    (∀ e ∈ ((two anch anch5 team1).tile 0).strands, e.1 < 8 → e.1 = 0 ∨ e.1 ∈ [5]) ∧
    (let s := two { anch with hold := some .bart } { anch5 with hold := some .bart } { team1 with bart := [5, 0] }
     SlotsOnce s 0 ∧ (s.tile 0).bartFull = true) := by
  refine ⟨⟨⟨rfl, rfl⟩, rfl, rfl, rfl⟩, by decide +kernel, rfl, by decide +kernel⟩

/-- A wire claimed by edition 3, in each scope, with its release in the last clk or not at all. -/
def wired (st : Strand) (sc : BarScope) (rel : Option Nat) (x : EvArg) : State :=
  ev { mach { tile1 st 0 with team := some { team1 with tapAt := some (sc, 95) } } 0 with
    dies := [(0, { die1 with claims := [⟨sc, lineOf sc 0, 1, 3, rel⟩] })],
    roots := [(1, { Root.reset with seq := 2, editions := [ed3] })] } x

theorem wit_barw_release : ∀ sc ∈ [BarScope.row, .col, .die], ∃ s st c, st = { anch with hold := some (.barw 2 sc 500) } ∧
    s = wired st sc (some 99) { die := 0, scope := sc, k := lineOf sc 0 } ∧ SlotsOnce s 0 ∧
    Table.risingFrom 0 s.tiles = true ∧ s.strand r0 = some st ∧ s.drained r0 st = true ∧
    s.team 0 = some { team1 with tapAt := some (sc, 95) } ∧ team1.asid = c.asid ∧ team1.ident = c.ident ∧
    (s.die 0).claims.find? (fun c => c.scope == sc && c.line == lineOf sc 0) = some c ∧ c.release.map (· + 1) = some s.clk ∧
    s.members 0 sc (lineOf sc 0) 1 3 = [0] ∧ (s.tapClk sc 1 3 0).isSome = true := by
  intro sc h
  simp only [List.mem_cons, List.not_mem_nil, or_false] at h
  rcases h with rfl | rfl | rfl <;> exact ⟨_, _, _, rfl, rfl, rfl, rfl, rfl, rfl, rfl, rfl, rfl, rfl, rfl, by decide +kernel, by decide +kernel⟩

theorem wit_barw_timeout : ∀ sc ∈ [BarScope.row, .col, .die], ∀ rel ∈ [none, some 101], ∃ s st, st = { anch with hold := some (.barw 2 sc 100) } ∧
    s = wired st sc rel { tile := 0, slot := 0, n := 7 } ∧ SlotsOnce s 0 ∧ Table.risingFrom 0 s.tiles = true ∧
    s.strand r0 = some st ∧ 100 ≤ s.clk ∧ s.team 0 = some { team1 with tapAt := some (sc, 95) } ∧
    (∃ c ∈ (s.die 0).claims, c.scope = sc ∧ c.line = lineOf sc 0 ∧ c.asid = team1.asid ∧ c.ident = team1.ident) ∧
    ∀ c ∈ (s.die 0).claims, c.scope = sc → c.line = lineOf sc 0 →
      ∀ n, c.release = some n → s.clk < n := by
  intro sc h rel h'
  simp only [List.mem_cons, List.not_mem_nil, or_false] at h h'
  rcases h with rfl | rfl | rfl <;> rcases h' with rfl | rfl <;>
    exact ⟨_, _, rfl, rfl, rfl, rfl, rfl, by decide +kernel, rfl, ⟨_, .head _, rfl, rfl, rfl, rfl⟩, by
      intro c h _ _ n hn; cases h with
      | head => cases hn <;> exact (by decide : 100 < 101)
      | tail _ h => cases h⟩

/-- The last arrival of a team at its BART; a team of one strand that is alone in its row, column or die, with limits 0, L
and L + 1. -/
theorem wit_barrier_completion : (two anch { anch5 with hold := some .bart } { team1 with bart := [5] }).drained r0 anch = true ∧
    (two anch { anch5 with hold := some .bart } { team1 with bart := [5] }).strand (.tile 0 5) =
      some { anch5 with hold := some .bart } ∧
    ∀ sc ∈ [BarScope.row, .col, .die], ∀ v ∈ [(0 : W64), 4, 5, 8, 9], ∃ st s, st = regs3 anch v 0 0 ∧
      s = (one st 0).modRoot 1 (fun x => { x with editions := [ed3] }) ∧ s.InTeam 0 0 st team1 ∧ s.drained r0 st = true ∧
      SlotsOnce s 0 ∧ Table.risingFrom 0 s.tiles = true ∧ (∀ e ∈ (s.tile 0).strands, e.1 < 8 → e.1 = 0) ∧ team1.tapAt = none ∧
      s.members 0 sc (lineOf sc 0) 1 3 = [0] ∧ s.arrivals 0 sc (lineOf sc 0) = [] ∧ (s.die 0).claims = [] ∧
      (st.rd 1).toNat % 2 ^ 32 = v.toNat := by
  refine ⟨by decide +kernel, rfl, ?_⟩
  intro sc h v hv
  simp only [List.mem_cons, List.not_mem_nil, or_false] at h hv
  rcases h with rfl | rfl | rfl <;> rcases hv with rfl | rfl | rfl | rfl | rfl <;>
    exact ⟨_, _, rfl, rfl, ⟨⟨rfl, rfl⟩, rfl, rfl, rfl⟩, by decide +kernel, rfl, rfl, by decide +kernel, rfl, by decide +kernel,
      by decide +kernel, rfl, by decide +kernel⟩

/-- Tokens of a light strand and of a team: none, one pending, two failed (the first and the last). -/
def failed2 : Vector Tok 8 := ((Vector.replicate 8 Tok.idle).set 0 ⟨false, true, 9, none⟩).set 7 ⟨false, true, 0x55, none⟩
theorem wit_wait : (∃ m s, m = { team1 with toks := team1.toks.set 7 ⟨false, false, 0, some 7⟩ } ∧
      s = mach { tile1 anch 0 with team := some m } 0 ∧ s.InTeam 0 0 anch m ∧ (s.toks r0 anch)[7].launch = some anch.uid) ∧
    (∃ st, st = { lite with passed := some lite.fetch.start, toks := failed2 } ∧ (one st 9).At (.tile 0 9) st ∧
      st.passed = some st.fetch.start) ∧
    (∃ st s, st = { lite with toks := failed2 } ∧ s = one st 9 ∧ s.At (.tile 0 9) st ∧
      (∀ n : Fin 8, (0x81 : Byte).getLsbD n = true → (s.toks (.tile 0 9) st)[n].pending = false) ∧
      (∃ n : Fin 8, (0x81 : Byte).getLsbD n = true ∧ (s.toks (.tile 0 9) st)[n].failed = true) ∧
      ∀ n : Fin 8, (0x7E : Byte).getLsbD n = true → (s.toks (.tile 0 9) st)[n].pending = false ∧ (s.toks (.tile 0 9) st)[n].failed = false) ∧
    ∃ m s, m = { team1 with toks := team1.toks.set 7 ⟨true, false, 0, none⟩ } ∧ s = mach { tile1 anch 0 with team := some m } 0 ∧
      s.InTeam 0 0 anch m ∧ ∃ n : Fin 8, (0x80 : Byte).getLsbD n = true ∧ (s.toks r0 anch)[n].pending = true := by
  refine ⟨⟨_, _, rfl, rfl, ⟨⟨rfl, rfl⟩, rfl, rfl, rfl⟩, ?_⟩, ⟨_, rfl, ⟨rfl, rfl⟩, rfl⟩, ⟨_, _, rfl, rfl, ⟨rfl, rfl⟩, ?_, ?_, ?_⟩,
    _, _, rfl, rfl, ⟨⟨rfl, rfl⟩, rfl, rfl, rfl⟩, ?_⟩ <;> decide +kernel

theorem wit_waitv : (∃ st s, st = regs3 anch (al + 0xFF8) 0 0 ∧ s = one st 0 ∧ s.At r0 st ∧ (st.rd 1).toNat % 8 = 0 ∧
      OwnBytes s 0 st team1 (st.rd 1) 0xFF8 8 ∧ Settled s 0 0 st .acquire (.spad 0 0xFF8) 8 ∧ (∀ e ∈ s.data, e.1 ≠ st.uid) ∧
      bytesAt s (Loc.spad 0 0xFF8).key 8 = (st.rd 2).toNat % 2 ^ 64 ∧
      bytesAt s (Loc.spad 0 0xFF8).key 8 ≠ (st.rd 1).toNat % 2 ^ 64) ∧
    ∀ v ∈ [(0 : W64), 1], ∃ st s, st = { anch with hold := some (.waitv (.spad 0 0xFF8) 8 v) } ∧
      s = ev (one st 0) { tile := 0, slot := 0 } ∧ s.strand r0 = some st ∧ s.team 0 = some team1 ∧
      (s.die 0).resetting = false ∧ s.poisoned (Loc.spad 0 0xFF8).key 8 = false ∧ 0xFF8 + 8 ≤ team1.grant := by
  refine ⟨⟨_, _, rfl, rfl, ⟨rfl, rfl⟩, ?_, ⟨?_, rfl, rfl, ?_, ?_, .inl ?_, rfl, rfl⟩, ⟨?_, fun _ => rfl⟩, ?_, ?_, ?_⟩,
    fun v _ => ⟨_, _, rfl, rfl, rfl, rfl, rfl, rfl, ?_⟩⟩ <;> decide +kernel

theorem wit_waitx : (∀ lat ∈ [0, 3], ((mach { tile1 anch 0 with latch := lat } 0).tile 0).latch = lat) ∧
    (one anch 0).At r0 anch ∧ SlotsOnce (one anch 0) 0 ∧ (∀ e ∈ (one anch 0).agenda, e.wakeCode 0 = none) ∧
    (∀ e ∈ ((one anch 0).tile 0).strands, e.2.inWaitx = none) ∧
    ∀ f ∈ [false, true], ∃ st s, st = { anch with hold := some (.waitx 2 100) } ∧
      s = ev (one st 0) { tile := 0, slot := 0, n := 7, k := 5, flag := f } ∧ s.ev.flag = f ∧ (∀ e ∈ s.agenda, e.wakeCode 0 = none) ∧
      s.strand r0 = some st ∧ 0 < 100 ∧ 100 ≤ s.clk := by
  refine ⟨by decide +kernel, ⟨rfl, rfl⟩, rfl, by decide +kernel, by decide +kernel, fun f h => ?_⟩
  simp only [List.mem_cons, List.not_mem_nil, or_false] at h
  rcases h with rfl | rfl <;> exact ⟨_, _, rfl, rfl, rfl, by decide +kernel, rfl, by decide, by decide +kernel⟩

theorem wit_yield : (∃ st s, st = regs3 anch (al + 0x201) 0 0 ∧ s = one st 0 ∧ s.InTeam 0 0 st team1 ∧
      s.declWords 0 st team1.grant (st.rd 1) true = none) ∧
    (∃ st s, st = regs3 anch (al + 0x200) 0 0 ∧ s = one st 0 ∧ s.InTeam 0 0 st team1 ∧
      (∃ ws, s.declWords 0 st team1.grant (st.rd 1) true = some ws) ∧ s.drained r0 st = true) ∧
    ∃ st s, st = { anch with hold := some (.yield al [0, 0]) } ∧ s = one st 0 ∧ SlotsOnce s 0 ∧
      (s.tile 0).yieldReady = true ∧ s.team 0 = some team1 ∧ (s.tile 0).anchored.head? = some (0, st) ∧ team1.yreq = false ∧
      LeadWords s 0 team1 st [0, 0] := by
  refine ⟨⟨_, _, rfl, rfl, inTeam_one _ rfl, by decide +kernel⟩, ⟨_, _, rfl, rfl, inTeam_one _ rfl,
    Option.isSome_iff_exists.mp (by decide +kernel), by decide +kernel⟩,
    _, _, rfl, rfl, rfl, by decide +kernel, rfl, rfl, rfl, _, _, rfl, ?_⟩
  decide

/-- The declaration of the denoising loop of R178: its words, and a range at the grant's end. -/
def loopDecl : List W64 := [0xC0E, 0x10000, 0x2000010000]
theorem test_declaration : (loopDecl.getD 0 0).toNat = 2 + 4 + 8 + 1024 + 2048 ∧ declRanges loopDecl = [(0x10000, 0x10000)] := by
  decide
def declared (g : Nat) (words : List Nat) : State × Strand × Team :=
  let st : Strand := { anch with hold := some (.yield (al + 0x200) [0xC0E]) }
  let m : Team := { team1 with grant := g, yreq := true }
  (memAt (mach { tile1 st 0 with team := some m } 0) (Loc.spad 0 0x200).key (words.flatMap (leBytes 8)), st, m)
/-- A lead of whose declaration only word 0 was read, the rest right or with a count of 9, and a request that is set. -/
theorem wit_yield_compact : (let x := declared 0x20000 [0xC0E, 0x10000, 0x2000010000];
      SlotsOnce x.1 0 ∧ (x.1.tile 0).yieldReady = true ∧ x.1.team 0 = some x.2.2 ∧ (x.1.tile 0).anchored.head? = some (0, x.2.1) ∧
      LeadWords x.1 0 x.2.2 x.2.1 loopDecl ∧ x.2.2.yreq = true ∧ x.1.saveIndex 1 = some 0 ∧ Memory.wf x.1.mem = true ∧
      (x.1.ctx 0 1).save + 2 ^ 21 ≤ 2 ^ 50 ∧ (∀ i : Fin 4, x.2.2.q[i].length ≤ 8) ∧ (∀ e ∈ declRanges loopDecl, e.1 + e.2 ≤ 0x20000) ∧
      InDecl loopDecl 0x10000 ∧ InDecl loopDecl 0x1FFFF ∧ x.1.drained r0 x.2.1 = true) ∧
    (let x := declared 0x20000 [0xC0E, 9 * 2 ^ 16];
      (x.1.tile 0).yieldReady = true ∧ x.1.declWords 0 x.2.1 0x20000 (al + 0x200) true = none) ∧
    DeclHead (fun i => [0xC0E, 0x10000, 0x2000010000].getD i 0) 0x20000 0x200 ∧
    DeclTail (fun i => [0xC0E, 0x10000, 0x2000010000].getD i 0) 0x20000 0x200 ∧
    ¬ DeclHead (fun _ => 0x10000) 0x20000 0x200 ∧ ¬ DeclTail (fun _ => 9 * 2 ^ 16) 0x20000 0x200 := by
  refine ⟨⟨rfl, by decide +kernel, rfl, rfl, ⟨_, _, rfl, ?_⟩, rfl, ?_, ?_, ?_, ?_, ?_, ⟨0, 0x2000010000, ?_⟩,
    ⟨0, 0x2000010000, ?_⟩, ?_⟩, ⟨?_, ?_⟩, ?_, ?_, ?_, ?_⟩ <;> first | decide +kernel | skip
  · simp [DeclHead]
  · refine ⟨by decide, by decide, by decide, fun i h => ?_⟩
    obtain rfl : i = 0 := by simp at h; omega
    decide
  · simp [DeclHead]
  · simp [DeclTail]

def queued (l : List W64) : Team := { team1 with q := team1.q.set 2 l }
def eight : List W64 := [1, 2, 3, 4, 5, 6, 7, 8]
theorem wit_queue : (∀ l ∈ [[], [9], eight], ∃ s, s = mach { tile1 anch 0 with team := some (queued l) } 0 ∧
      s.InTeam 0 0 anch (queued l) ∧ s.drained r0 anch = true ∧ (queued l).q[2] = l ∧
      ∀ e ∈ (s.tile 0).strands, e.2.hold = none) ∧
    ∃ r s, r = { anch5 with hold := some (.queueRecv 2 3) } ∧ s = two anch r (queued []) ∧
      (s.tile 0).longest (Hold.isRecv 2) = some (5, r) ∧ s.strand (.tile 0 5) = some r := by
  refine ⟨fun l h => ?_, _, _, rfl, rfl, rfl, rfl⟩
  simp only [List.mem_cons, List.not_mem_nil, or_false] at h
  rcases h with rfl | rfl | rfl <;>
    exact ⟨_, rfl, ⟨⟨rfl, rfl⟩, rfl, rfl, rfl⟩, rfl, rfl, by decide +kernel⟩

theorem wit_fork : (one (regs3 anch 0x2002 5 0) 0).At r0 (regs3 anch 0x2002 5 0) ∧ ((regs3 anch 0x2002 5 0).rd 1).toNat % 4 ≠ 0 ∧
    ∃ st s, st = { regs3 anch 0x2004 5 0 with children := 65534 } ∧ s = one st 0 ∧ s.At r0 st ∧ (st.rd 1).toNat % 4 = 0 ∧
      s.drained r0 st = true ∧ st.children < 65535 ∧ s.spillFull 0 st.asid = false := by
  refine ⟨⟨rfl, rfl⟩, ?_, _, _, rfl, rfl, ⟨rfl, rfl⟩, ?_, ?_, ?_, ?_⟩ <;> decide +kernel

/-- A deque that fills the spill area of its context, whatever that holds. -/
def spilling : State := (one (regs3 anch 0x2004 5 0) 0).modTile 0 (fun w => { w with
  deque := List.replicate (Config.spillEntries ((one anch 0).ctx 0 1).spillsize + 65) lite })
theorem wit_fork_held : (∃ st, st = { regs3 anch 0x2004 5 0 with children := 65535 } ∧ (one st 0).At r0 st ∧ (st.rd 1).toNat % 4 = 0 ∧
      (one st 0).drained r0 st = true ∧ 65535 ≤ st.children) ∧
    (undrained (regs3 anch 0x2004 5 0) 0).drained r0 (regs3 anch 0x2004 5 0) = false ∧
    spilling.At r0 (regs3 anch 0x2004 5 0) ∧ spilling.spillFull 0 1 = true := by
  refine ⟨⟨_, rfl, ⟨rfl, rfl⟩, ?_, ?_, ?_⟩, ?_, ⟨rfl, rfl⟩, ?_⟩
  · decide +kernel
  · decide +kernel
  · decide
  · decide +kernel
  · have h : spilling.spilled 1 = Config.spillEntries ((one anch 0).ctx 0 1).spillsize + 1 := by
      show 0 + (((List.replicate (Config.spillEntries ((one anch 0).ctx 0 1).spillsize + 65) lite).take
        ((List.replicate (Config.spillEntries ((one anch 0).ctx 0 1).spillsize + 65) lite).length - 64)).filter
          (fun x => x.asid == 1)).length = _
      rw [List.length_replicate, List.take_replicate, List.filter_replicate]
      simp [show lite.asid = 1 from rfl]
    have h2 : spilling.ctx 0 1 = (one anch 0).ctx 0 1 := rfl
    simp only [State.spillFull, h, show (0 : Nat) / 256 = 0 from rfl, h2]
    simp

theorem wit_exit : (one anch 0).At r0 anch ∧ (one anch 0).drained r0 anch = true ∧ (undrained anch 0).drained r0 anch = false ∧
    (one lite 9).At (.tile 0 9) lite ∧ (one lite 9).drained (.tile 0 9) lite = true ∧
    (∀ n : Fin 8, lite.toks[n].pending = false) ∧
    ∃ n : Fin 8, { lite with toks := lite.toks.set 7 ⟨true, false, 0, none⟩ }.toks[n].pending = true := by
  refine ⟨⟨rfl, rfl⟩, ?_, ?_, ⟨rfl, rfl⟩, ?_, ?_, ?_⟩ <;> decide +kernel

/-- GO to the last byte of the last tile, and to the own tile. -/
theorem wit_move : ((one lite 9).At (.tile 0 9) lite ∧ lite.kind ≠ .anchored) ∧
    (regs3 lite (nat (0xE000000000000000 + 0x7FFFF * 2 ^ 21 + 0x1FFFFF)) 0 0).rd 1 =
      nat (0xE000000000000000 + 0x7FFFF * 2 ^ 21 + 0x1FFFFF) ∧
    (regs3 lite sp 0 0).rd 1 = nat (0xE000000000000000 + 0 * 2 ^ 21 + 0) ∧ { lite with origin := 300 }.origin = 300 := by
  refine ⟨⟨⟨rfl, rfl⟩, nofun⟩, ?_, ?_, rfl⟩ <;> decide +kernel

/-- A tile with a team and nothing in its light slots. -/
def idleTile : Tile := { Tile.reset with team := some team1 }
theorem wit_lightSlot : (let s := ev (mach { idleTile with waiting := [lite] } 0) { tile := 0 };
      s.off 0 = false ∧ (s.tile 0).freeLight = [8, 9, 10, 11, 12, 13, 14, 15] ∧ SlotsOnce s 0 ∧ (s.tile 0).deque = [] ∧
      (s.tile 0).waiting = [lite] ∧ lite.kind ≠ .impression ∧ s.impFirst lite = true) ∧
    (let s := ev { mach idleTile 0 with transit := [⟨33, 0, lite⟩], actives := [⟨34, 0, 0, { lite with kind := .handler }, 0, 0, 0⟩] }
        { n := 33 };
      s.transit.find? (fun y => y.n == s.ev.n) = some ⟨33, 0, lite⟩ ∧ (s.tile 0).waiting = [] ∧ lite.started = true ∧
      { lite with kind := Kind.handler }.imp = none ∧ lite.hold = none ∧
      s.actives.find? (fun y => y.n == 34) = some ⟨34, 0, 0, { lite with kind := .handler }, 0, 0, 0⟩) ∧
    (let s := (ev (mach idleTile 0) { tile := 0 }).setTile 5 { idleTile with deque := [{ lite with steal := 1 }] };
      s.victim 0 = some 5 ∧ (s.tile 5).deque = [{ lite with steal := 1 }] ∧ (s.tile 0).freeLight = [8, 9, 10, 11, 12, 13, 14, 15]) := by
  refine ⟨⟨by decide +kernel, by decide +kernel, rfl, rfl, rfl, nofun, rfl⟩, ⟨rfl, rfl, rfl, rfl, rfl, rfl⟩, by decide +kernel, rfl,
    by decide +kernel⟩

theorem wit_id : (one anch 0).At r0 anch ∧ (one anch 0).team 0 = some team1 ∧ anch.block = some 5 ∧
    (one { lite with kind := .impression, imp := some ⟨#v[1, 2, 3, 4, 5, 6], 0, 0, 0, 0⟩ } 9).At (.tile 0 9)
      { lite with kind := .impression, imp := some ⟨#v[1, 2, 3, 4, 5, 6], 0, 0, 0, 0⟩ } := ⟨⟨rfl, rfl⟩, rfl, rfl, rfl, rfl⟩

/-! ## Editions: hypotheses that hold somewhere -/

def withEd (s : State) (e : Edition) : State := s.modRoot 1 (fun x => { x with editions := [e] })
/-- A well-formed descriptor (R186): 3 blocks of 2 strands, grant 2 KiB, 9 work indices. -/
def desc3 : List Byte :=
  leBytes 8 0x2000 ++ leBytes 8 7 ++ leBytes 8 (3 + 2 ^ 21 + 2 ^ 42) ++ leBytes 8 2 ++ leBytes 8 0x800 ++
    leBytes 8 (9 * 2 ^ 32) ++ leBytes 8 0x10000 ++ leBytes 8 0 ++ List.replicate 64 0
def d3 : Desc := parseDesc desc3

theorem wit_requests : (∃ st s, st = regs3 anch (al + 0x40) 0 0 ∧ s = memAt (one st 0) (Loc.spad 0 0x40).key desc3 ∧ s.At r0 st ∧
      TokenFree s 0 0 st 7 ∧ OwnBytes s 0 st team1 (st.rd 1) 0x40 128 ∧ (st.rd 1).toNat % 64 = 0 ∧ s.drained r0 st = true ∧
      (∀ e ∈ s.data, e.1 ≠ st.uid) ∧ descOk (Memory.readN s.mem (Loc.spad 0 0x40).key 128) = true ∧
      descOk (Memory.readN (one st 0).mem (Loc.spad 0 0x40).key 128) = false) ∧
    (∃ st s, st = { regs3 lite (al + 0xFFC) (al + 0xD00) 0 with edition := none } ∧ s = one st 9 ∧ s.At (.tile 0 9) st ∧
      TokenFree s 0 9 st 0 ∧ OwnBytes s 0 st team1 (st.rd 1) 0xFFC 4 ∧ (st.rd 1).toNat % 4 = 0 ∧ st.edition = none ∧
      OwnBytes s 0 st team1 (st.rd 2) 0xD00 768 ∧ (st.rd 2).toNat % 64 = 0) := by
  refine ⟨⟨_, _, rfl, rfl, ⟨rfl, rfl⟩, ⟨.inr ⟨team1, ⟨rfl, rfl⟩, rfl, rfl, rfl⟩, rfl, rfl⟩,
      ⟨?_, rfl, rfl, ?_, ?_, .inl ?_, rfl, rfl⟩, ?_, ?_, ?_, ?_, ?_⟩,
    _, _, rfl, rfl, ⟨rfl, rfl⟩, ⟨.inl nofun, rfl, rfl⟩, ⟨?_, rfl, rfl, ?_, ?_, .inl ?_, rfl, rfl⟩, ?_, rfl,
      ⟨?_, rfl, rfl, ?_, ?_, .inl ?_, rfl, rfl⟩, ?_⟩ <;> decide +kernel

/-- The page table of context 1: virtual 0 to 2 MiB, readable, writable and executable, on device address 0x200000. -/
def tables : List Host.Cell :=
  let ptr (pa : Nat) : List Byte := leBytes 8 (2 ^ 63 + 7 * 2 ^ 60 + pa)
  Memory.writeN (Memory.writeN (Memory.writeN (Memory.writeN [] 0x500000 (ptr 0x501000)) 0x501000 (ptr 0x502000))
    0x502000 (ptr 0x503000)) 0x503000 (leBytes 8 leaf2m.toNat)
/-- The context's root with a request. -/
def asked (q : Req) (es : List Edition) : State :=
  ev ((one anch 0).modRoot 1 (fun x => { x with reqs := [q], editions := es })) { asid := 1 }
abbrev launch3 (d : Desc) : Req := .launch 0 7 (.team 1 3 5) 2 d

/-- The first launch is accepted; with no page of its list mapped it is refused. -/
theorem wit_launch : (∃ s, s = { asked (launch3 d3) [] with mem := tables } ∧ (s.root 1).open = true ∧
      (s.root 1).reqs = [launch3 d3] ∧ ((s.dropReq 1).refusals 1 d3 = []) ∧ (s.root 1).freeIdent = some 0) ∧
    ∃ s, s = asked (launch3 { d3 with tag := 9 }) [] ∧ (s.root 1).open = true ∧
      (∃ reason more, (s.dropReq 1).refusals 1 { d3 with tag := 9 } = reason :: more) ∧ TeamIs s 0 team1 1 3 5 := by
  refine ⟨⟨_, rfl, rfl, rfl, by decide +kernel, by decide +kernel⟩, _, rfl, rfl,
    List.exists_cons_of_ne_nil (by decide +kernel), rfl, rfl, rfl, rfl⟩

theorem wit_broadcast : ∃ e s, e = { ed3 with arrived := [], eligible := [], dealt := [], desc := d3 } ∧
    s = ev (withEd (one anch 0) e) { asid := 1, pkg := 0, ident := 3 } ∧ (s.root 1).editions = [e] ∧ e.state = .running ∧
    e.pred = none ∧ e.eligible.find 0 = none ∧ e.desc.gang = false := ⟨_, _, rfl, rfl, rfl, rfl, rfl, rfl, by decide +kernel⟩

/-- No team on any tile: the package and the die run short. -/
def empty : State := mach Tile.reset 0
theorem wit_folio : (∃ e s, e = { ed3 with dealt := [], desc := d3, atRoot := [(7, 300), (400, 5)] } ∧
      s = ev (withEd empty e) { asid := 1, pkg := 0, ident := 3, flag := true } ∧ s.edition 1 3 = some e ∧
      (s.partPkgs 1).length = 1 ∧ s.agenda.any (folioBefore s.ev) = false) ∧
    ∃ e s, e = { ed3 with dealt := [], desc := d3, atPkg := [(0, [(0, 1)])] } ∧
      s = ev (withEd empty e) { asid := 1, pkg := 0, die := 0, ident := 3, flag := false } ∧ s.edition 1 3 = some e ∧
      e.atPkg.get [] 0 = [(0, 1)] ∧ s.agenda.any (folioBefore s.ev) = false := by
  refine ⟨⟨_, _, rfl, rfl, ?_, ?_, ?_⟩, _, _, rfl, rfl, ?_, ?_, ?_⟩ <;> decide +kernel

/-- Only tile 0 of die 0 can be dealt to: the others are gated. -/
def lone : State := withEd (ev { empty with
    tiles := (0, Tile.reset) :: (List.range' 1 255).map (fun i => (i, { Tile.reset with gated := true })) } { die := 0 })
  { ed3 with dealt := [], desc := { d3 with tag := 0 }, atDie := [(0, [(4, 2)])] }
theorem lone_gated : (List.range' 1 255).all (fun u => lone.off u) = true := by decide +kernel
theorem wit_deal : (lone.tile 0).free = true ∧ lone.off 0 = false ∧
    (∀ u, u / 256 = 0 / 256 → u ≠ 0 → (lone.tile u).free = false ∨ lone.off u = true) ∧ lone.gangCand 0 = none ∧ lone.gangKeeps 0 = false ∧
    ((bestOf (lone.candidates 0)).map (·.what)) = some (.block 1 3 0) ∧
    (lone.edition 1 3).map (fun e => e.atDie.get [] 0) = some [(4, 2)] := by
  refine ⟨by decide +kernel, by decide +kernel, fun u h h0 => .inr ?_, by decide +kernel, by decide +kernel, by decide +kernel,
    by decide +kernel⟩
  have := List.all_eq_true.mp lone_gated u (by simp only [List.mem_range']; exact ⟨u - 1, by omega, by omega⟩)
  exact this

theorem wit_dispatch : ∀ c ∈ [some 1, some 2, none], ∃ e s, e = { ed3 with desc := { d3 with n := 8 } } ∧
    s = ev (withEd (mach { Tile.reset with dispatch := some ⟨1, 3, 5⟩, lastCtx := c } 0) e) { tile := 0 } ∧
    (s.tile 0).dispatch = some ⟨1, 3, 5⟩ ∧ s.edition 1 3 = some e ∧ e.desc.ranges = 0 ∧ e.desc.n ≤ 8 ∧ (s.tile 0).lastCtx = c := by
  intro c h
  simp only [List.mem_cons, List.not_mem_nil, or_false] at h
  rcases h with rfl | rfl | rfl <;> exact ⟨_, _, rfl, rfl, rfl, rfl, by decide +kernel, by decide, rfl⟩

abbrev next3 : Req := .next 0 (.team 1 3 5) 2 ⟨7, 5⟩ 3 (tileSpace 0 0x10)
abbrev estat3 : Req := .estat 0 (.team 1 3 5) 2 ⟨7, 5⟩ 3 (tileSpace 0 0x10)
abbrev cancel3 : Req := .cancel 0 (.team 1 3 5) 2 3 true
theorem wit_root : (∀ n ∈ [8, 9], ∃ e s, e = { ed3 with next := n, desc := d3 } ∧ s = asked next3 [e] ∧ (s.root 1).open = true ∧
      (s.root 1).reqs = [next3] ∧ s.edition 1 3 = some e ∧ e.desc.work = 9) ∧
    (asked next3 []).edition 1 3 = none ∧ ((asked estat3 [ed3]).root 1).open = true ∧
    ((asked estat3 [ed3]).root 1).reqs = [estat3] ∧ (asked estat3 [ed3]).edition 1 3 = some ed3 ∧
    (asked estat3 [{ ed3 with state := .complete }]).edition 1 3 = some { ed3 with state := .complete } ∧
    (asked estat3 []).edition 1 3 = none ∧ ((asked cancel3 []).root 1).reqs = [cancel3] ∧ (asked cancel3 []).edition 1 3 = none ∧
    (asked cancel3 [ed3]).edition 1 3 = some ed3 ∧ ((asked cancel3 [ed3]).root 1).open = true := by
  refine ⟨fun n h => ?_, rfl, rfl, rfl, rfl, rfl, rfl, rfl, rfl, rfl, rfl⟩
  simp only [List.mem_cons, List.not_mem_nil, or_false] at h
  rcases h with rfl | rfl <;> exact ⟨_, _, rfl, rfl, rfl, rfl, rfl, by decide +kernel⟩

theorem wit_answer : ∃ x s, x = (⟨33, 0, .team 1 3 5, 1, 2, some (tileSpace 0 0xFFC), [1, 2, 3, 4], some 5, some ⟨7, 5⟩, none⟩ : ImpAnswer) ∧
    s = ev { one anch 0 with answers := [x] } { n := 33 } ∧ s.answers.find? (fun y => y.n == s.ev.n) = some x ∧
    TeamIs s 0 team1 1 3 5 ∧ 0xFFC + x.bytes.length ≤ team1.grant ∧ (s.die 0).resetting = false ∧ NoWatch s 0 1 ∧
    x.asked = some ⟨7, 5⟩ ∧ (s.tile 0).openBefore ⟨7, 5⟩ = false :=
  ⟨_, _, rfl, rfl, rfl, ⟨rfl, rfl, rfl, rfl⟩, by decide +kernel, rfl, nofun, rfl, rfl⟩

theorem wit_cancel_broadcast : ∃ e s, e = { ed3 with state := .cancelling, atPkg := [(0, [(1, 2)])] } ∧
    s = ev (withEd (one anch 0) e) { asid := 1, ident := 3, pkg := 0 } ∧ s.edition 1 3 = some e ∧ s.ev.flag = false :=
  ⟨_, _, rfl, rfl, rfl, rfl⟩

theorem wit_completion : (∃ s, s = ev (withEd (mach { Tile.reset with team := some team1 } 0) ed3) { tile := 0, asid := 1, ident := 3, n := 5 } ∧
      TeamIs s 0 team1 1 3 5 ∧ team1.killed = false ∧ s.blockDone 0 1 3 5 = true) ∧
    (∃ e s, e = { ed3 with folios := [0, 1] } ∧ s = ev (withEd (one anch 0) e) { asid := 1, ident := 3, pkg := 0 } ∧
      s.edition 1 3 = some e ∧ e.state ≠ .complete ∧ 0 ∉ e.reported ∧ ∃ q ∈ e.reporters, q ≠ 0 ∧ q ∉ e.reported) ∧
    ∃ e s, e = { ed3 with folios := [0], own := .team 1 3 5, tile := 0 } ∧
      s = ev (withEd (one anch 0) e) { asid := 1, ident := 3, pkg := 0 } ∧ s.edition 1 3 = some e ∧
      (∀ q ∈ e.reporters, q = 0 ∨ q ∈ e.reported) ∧ TeamIs s 0 team1 1 3 5 ∧ e.cancels = [] ∧ (s.root 1).editions = [e] ∧
      (s.root 1).newPkg = none := by
  refine ⟨⟨_, rfl, ⟨rfl, rfl, rfl, rfl⟩, rfl, by decide +kernel⟩, ⟨_, _, rfl, rfl, rfl, nofun, nofun, ?_⟩,
    _, _, rfl, rfl, rfl, by decide +kernel, ⟨rfl, rfl, rfl, rfl⟩, rfl, rfl, rfl⟩
  decide +kernel

/-! ## Watches, traps, registers -/

/-- A watch entry for len bytes at 0x10000. -/
def entry (len : Nat) : List Byte :=
  leBytes 8 0x10000 ++ leBytes 8 (len + 2 ^ 32) ++ leBytes 8 0x2000 ++ leBytes 8 0 ++ leBytes 8 0 ++ leBytes 8 0 ++
    leBytes 8 (100 * 2 ^ 16 + 3) ++ leBytes 8 0
def watching (len : Nat) : State := memAt (one (regs3 anch (al + 0x40) 0 0) 0) (Loc.spad 0 0x40).key (entry len)
def full : State := { watching 8 with dies := [(0, { die1 with
  frisket := (List.range 256).map (fun i => (256 + i, parseWatch (entry 8) 100 0 0)) })] }
theorem wit_watch : (∃ st, st = regs3 anch (al + 0x40) 0 0 ∧ (watching 8).At r0 st ∧ OwnBytes (watching 8) 0 st team1 (st.rd 1) 0x40 64 ∧
      (st.rd 1).toNat % 64 = 0 ∧ (watching 8).drained r0 st = true ∧ (∀ e ∈ (watching 8).data, e.1 ≠ st.uid)) ∧
    (let bs := Memory.readN (watching 8).mem (Loc.spad 0 0x40).key 64;
     watchOk 0 bs (parseWatch bs (watching 8).clk (watching 8).podTime 0) = true) ∧
    (let bs := Memory.readN (watching 7).mem (Loc.spad 0 0x40).key 64;
     watchOk 0 bs (parseWatch bs (watching 7).clk (watching 7).podTime 0) = false) ∧
    (watching 8).freeWatch 0 1 = some 0 ∧ full.freeWatch 0 1 = none ∧
    (full.die 0).frisket.find (256 + 255) = some (parseWatch (entry 8) 100 0 0) ∧
    ((regs3 anch 255 256 0).rd 1).toNat < 256 ∧ 256 ≤ ((regs3 anch 255 256 0).rd 2).toNat := by
  refine ⟨⟨_, rfl, ⟨rfl, rfl⟩, ⟨?_, rfl, rfl, ?_, ?_, .inl ?_, rfl, rfl⟩, ?_, ?_, ?_⟩, ?_, ?_, ?_, ?_, ?_, ?_, ?_⟩ <;> decide +kernel

theorem wit_halt : (sup anch).At (.sup 0 0) anch ∧ ((sup anch).die 0).fhead = ((sup anch).die 0).ftail ∧
    (({ sup anch with dies := [(0, { die1 with sups := [(0, anch)], fhead := 1 })] } : State).die 0).fhead ≠ 0 ∧
    (one anch 0).At r0 anch := ⟨⟨rfl, rfl⟩, rfl, by decide +kernel, rfl, rfl⟩

/-- The last slot of the ring. -/
theorem wit_packet : ∃ p s, s = ev { one anch 0 with dies := [(0, { die1 with
      faults := [p], fring := some 0x600000, fhead := 0x3F, ftail := 0 })] } { die := 0 } ∧ (s.die 0).faults = [p] ∧
    (s.die 0).fring = some 0x600000 ∧ ((s.die 0).fhead - (s.die 0).ftail).toNat < 64 ∧
    s.noticePage ((0x600000 : W64).toNat + 128 * ((s.die 0).fhead.toNat % 64)) = false ∧
    NoWatch s (((0x600000 : W64).toNat + 128 * ((s.die 0).fhead.toNat % 64)) / 2 ^ 39) 0 :=
  ⟨{ code := 0x40, slot := 3, kind := 1, tokens := 5, cause := 9, gen := 2, tile := 0, pc := 4, word := 5, word2 := 6,
     addr := 7, asid := 1, block := some 4, edition := some 2, time := 9, errs := Vector.replicate 8 3 }, _, rfl, rfl, rfl,
    by decide +kernel, rfl, nofun⟩

theorem wit_escalation : (ev (sup anch) { die := 0, slot := 0 }).strand (.sup 0 0) = some anch := rfl

theorem wit_registers : (one anch 15).At (.tile 0 15) anch ∧ (one anch 0).team 0 = some team1 ∧
    (0x100 ≤ (0x100 : BitVec 12).toNat ∧ 0x100 ≤ (0xFFF : BitVec 12).toNat) ∧
    (4 ≤ (4 : BitVec 12).toNat ∧ (0xFF : BitVec 12).toNat < 0x100) ∧ (sup anch).At (.sup 0 0) anch :=
  ⟨⟨rfl, rfl⟩, rfl, by decide, by decide, rfl, rfl⟩

/-- The last context number. -/
theorem wit_context : ∃ st s, st = regs3 anch 0xFFF 0 0 ∧ s = { one st 0 with
      dies := [(0, { die1 with sups := [(0, st)], ctxtab := some 0x10000, tiletab := some 0x800000 })], cur := .sup 0 0 } ∧
    s.At (.sup 0 0) st ∧ (s.die 0).ctxtab = some 0x10000 ∧ (s.die 0).tiletab = some 0x800000 ∧
    4095 = (st.rd 1).toNat % 4096 := ⟨_, _, rfl, rfl, ⟨rfl, rfl⟩, rfl, rfl, by decide +kernel⟩

/-! ## Vectors: hypotheses that hold somewhere -/

/-- The team with vector register 2 and predicate 1 set: lanes 0 and the last active. -/
def vteam : Team := (team1.setV 2 0x0807060504030201).setP 1 (1 ||| (1 <<< 31) ||| (1 <<< 127))
def vmach (m : Team) (st : Strand) : State := mach { tile1 st 0 with team := some m } 0
theorem inTeam_vmach (m : Team) (st : Strand) (h : st.kind = .anchored) (h' : m.noExchange = false) :
    (vmach m st).InTeam 0 0 st m := ⟨⟨rfl, rfl⟩, h, rfl, h'⟩

theorem wit_lanes : (vmach vteam anch).InTeam 0 0 anch vteam ∧ NoExch vteam [1, 2, 3] ∧
    (∃ f, Claims.laneOf (.vadd 1 2 3 1 .w) anch vteam = some (1, [2, 3], 1, .w, f)) ∧
    (∃ rel, compareOf (.vcmpLe 1 2 3 1 .bf) = some (1, 2, 3, 1, .bf, rel)) ∧ LaneType.w.int = true ∧ LaneType.f.int = false :=
  ⟨inTeam_vmach _ _ rfl rfl, nofun, ⟨_, rfl⟩, ⟨_, rfl⟩, rfl, rfl⟩

/-- A row of 32 words that ends with the grant; the active lanes are 0 and 31. -/
theorem wit_vector_memory : ∃ st s, st = regs3 anch (al + 0xF80) 0 0 ∧ s = vmach vteam st ∧ s.InTeam 0 0 st vteam ∧
    (∃ addr, vecAccess (.vld 1 1 1 .w) st vteam = some (1, [], 1, .w, 0, addr) ∧ ∀ j ∈ [0, 31],
      OwnBytes s 0 st vteam (addr j) (0xF80 + 4 * j) 4 ∧ (addr j).toNat % 4 = 0) ∧
    (∀ j, j < 32 → (vteam.pred 1).getLsbD j = true → j = 0 ∨ j = 31) ∧ NoExch vteam [1] ∧ s.drained r0 st = true ∧
    vecStores (.vld 1 1 1 .w) = false ∧ vecStores (.vst 1 1 1 .w) = true := by
  refine ⟨_, _, rfl, rfl, inTeam_vmach _ _ rfl rfl, ⟨_, rfl, fun j h => ?_⟩, ?_, nofun, ?_, rfl, rfl⟩
  · simp only [List.mem_cons, List.not_mem_nil, or_false] at h
    rcases h with rfl | rfl <;>
      exact ⟨⟨by decide +kernel, rfl, rfl, by decide +kernel, by decide +kernel, .inl (by decide +kernel), rfl, rfl⟩, by decide +kernel⟩
  · decide +kernel
  · decide +kernel

/-- A parameter block (R226): the multiplier 2^-7 and a source format. -/
def qblock (src : Nat) : List Byte := leBytes 8 (0x3C000000 + src * 2 ^ 32) ++ List.replicate 24 0
theorem wit_quantise : (∃ st s, st = regs3 anch (al + 0xFE0) 0 0 ∧ s = memAt (one st 0) (Loc.spad 0 0xFE0).key (qblock 4) ∧
      s.InTeam 0 0 st team1 ∧ OwnBytes s 0 st team1 (st.rd 1) 0xFE0 32 ∧ (st.rd 1).toNat % 32 = 0 ∧ s.drained r0 st = true ∧
      Memory.readN s.mem (Loc.spad 0 0xFE0).key 32 = qblock 4) ∧
    (QBlock.parse (qblock 4)).map = 0 ∧ (QBlock.parse (qblock 4)).src = some .bf ∧
    (∀ d ∈ [Fmt.i8, .i4, .mx8], (QBlock.parse (qblock 4)).check false d = true) ∧ (QBlock.parse (qblock 4)).check true .f = false ∧
    (QBlock.parse (qblock 6)).check false .i8 = false ∧ (QBlock.parse (qblock 6)).check true .bf = true ∧
    (QBlock.parse (qblock 6)).src = some .w := by
  refine ⟨⟨_, _, rfl, rfl, ⟨⟨rfl, rfl⟩, rfl, rfl, rfl⟩, ⟨?_, rfl, rfl, ?_, ?_, .inl ?_, rfl, rfl⟩, ?_, ?_, ?_⟩, ?_⟩ <;> decide +kernel

/-- A block with a duplication map: its doubleword lies at 0xFC0 of the scratchpad, or is misaligned, or k0 is no multiple of
64. -/
def mapped (map k0 : Nat) : List Byte :=
  leBytes 8 (0x3C000000 + 4 * 2 ^ 32) ++ leBytes 8 map ++ leBytes 8 k0 ++ List.replicate 8 0
theorem wit_map :
    (∃ b, b = QBlock.parse (mapped (0xD000000000000000 + 0xFC0) 0) ∧ b.map ≠ 0 ∧ b.check false .i8 = true ∧ b.src = some .bf ∧
      OwnBytes (one anch 0) 0 anch team1 (b.map + nat (b.k0 / 8)) 0xFC0 8 ∧ (b.map + nat (b.k0 / 8)).toNat % 8 = 0) ∧
    (∃ b, b = QBlock.parse (mapped (0xD000000000000000 + 0xFF7) 0) ∧ (b.map + nat (b.k0 / 8)).toNat % 8 ≠ 0 ∧
      OwnBytes (one anch 0) 0 anch team1 (b.map + nat (b.k0 / 8)) 0xFF7 8) ∧
    (∃ b, b = QBlock.parse (mapped (0xD000000000000000 + 0xFC4) 32) ∧ b.check false .i8 = false ∧
      OwnBytes (one anch 0) 0 anch team1 (b.map + nat (b.k0 / 8)) 0xFC8 8 ∧ (b.map + nat (b.k0 / 8)).toNat % 8 = 0) := by
  refine ⟨⟨_, rfl, ?_, ?_, ?_, ⟨?_, rfl, rfl, ?_, ?_, .inl ?_, rfl, rfl⟩, ?_⟩, ⟨_, rfl, ?_, ⟨?_, rfl, rfl, ?_, ?_, .inl ?_, rfl, rfl⟩⟩,
    ⟨_, rfl, ?_, ⟨?_, rfl, rfl, ?_, ?_, .inl ?_, rfl, rfl⟩, ?_⟩⟩ <;> decide +kernel

/-- Numbers at the bounds of the formats: 464 and 465 for F8N; a block of an infinity, of zeros, of a half. -/
theorem wit_numbers : FiniteVal (.fin true 464 1) ∧ |val (.fin true 464 1)| ≤ 464 ∧ FiniteVal (.fin false 465 1) ∧
    464 < |val (.fin false 465 1)| ∧ val (.fin false 465 1) ≠ 0 ∧ (255 * 2 ^ 7 : Nat) < 2 ^ (7 + 8) ∧
    (∃ x, some x ∈ [some (FVal.inf true)] ∧ ¬ FiniteVal x) ∧
    (∃ x, some x ∈ [some (FVal.fin true 0 1)] ∧ FiniteVal x ∧ val x = 0) ∧
    ∃ x, some x ∈ [none, some (FVal.fin true 1 2)] ∧ FiniteVal x ∧ val x ≠ 0 :=
  ⟨⟨_, _, _, rfl, by decide⟩, by norm_num [val], ⟨_, _, _, rfl, by decide⟩, by norm_num [val], by norm_num [val], by decide,
    ⟨.inf true, by simp, by simp [FiniteVal]⟩, ⟨.fin true 0 1, by simp, ⟨_, _, _, rfl, by decide⟩, by norm_num [val]⟩,
    ⟨.fin true 1 2, by simp, ⟨_, _, _, rfl, by decide⟩, by norm_num [val]⟩⟩

/-- Tiles 1 and 16 are mirrors; both teams wait in their first VXCH. -/
def exch (d : VReg) : Exch := ⟨0, d, 5, 1, 8, 100⟩
def mteam (d : VReg) : Team := { team1 with exch := [exch d] }
def pair : State := ev { one anch 0 with tiles := [
    (1, { tile1 { anch with hold := some .vxch } 0 with team := some (mteam 1) }),
    (16, { tile1 { anch with uid := 8, hold := some .vxch } 0 with team := some (mteam 2) })] } { tile := 1 }
theorem wit_exchange : 0 / 256 * 256 + 0 % 16 * 16 + 0 / 16 % 16 = 0 ∧ (one anch 0).InTeam 0 0 anch team1 ∧
    (let s := ({ one anch 0 with tiles := [(1, tile1 anch 0)], cur := .tile 1 0 } : State);
     s.InTeam 1 0 anch team1 ∧ s.hasBlock 16 1 3 = false ∧ { s with tiles := [(1, tile1 anch 0), (16, tile1 anch 0)] }.hasBlock 16 1 3 = true) ∧
    mirror 1 = 16 ∧ pair.team 1 = some (mteam 1) ∧ pair.team 16 = some (mteam 2) ∧ (mteam 1).vxch = (mteam 2).vxch ∧
    pair.strand (.tile 1 0) = some { anch with hold := some .vxch } ∧
    pair.strand (.tile 16 0) = some { anch with uid := 8, hold := some .vxch } := by
  refine ⟨rfl, inTeam_one _ rfl, ⟨⟨⟨rfl, rfl⟩, rfl, rfl, rfl⟩, ?_, ?_⟩, rfl, rfl, rfl, rfl, rfl, rfl⟩ <;> decide +kernel

theorem wit_dense : (one anch 0).InTeam 0 0 anch team1 ∧ team1.exch = [] ∧ ((one anch 0).tile 0).acBusy team1 7 = false ∧
    LaneType.b.int = true ∧ LaneType.f8.int = false := ⟨inTeam_one _ rfl, rfl, rfl, rfl, rfl⟩

theorem wit_not_anchored : (one lite 9).At (.tile 0 9) lite ∧ lite.kind ≠ .anchored ∧ teamInstr (.vadd 1 2 3 0 .b) = true ∧
    teamInstr (.bart) = true ∧ engineInstr (.cqnt 1 0 2 3 4) = true ∧ (sup anch).At (.sup 0 0) anch ∧ tileOnly .join = true :=
  ⟨⟨rfl, rfl⟩, nofun, rfl, rfl, rfl, ⟨rfl, rfl⟩, rfl⟩

/-! ## Engines -/

/-- An entry of the tensor table (R251): 64 by 640 elements from base on. -/
def tentry (base fmt grp : Nat) : List Byte :=
  leBytes 8 base ++ leBytes 8 (64 * 2 ^ 32 + 640) ++ leBytes 8 0x1000 ++ leBytes 8 0 ++ leBytes 8 (grp * 2 ^ 16) ++
    leBytes 8 (2 ^ 63 + 2 ^ 40 + fmt * 2 ^ 36 + 2 ^ 35 + 2 ^ 34) ++ List.replicate 16 0
def tensor (fmt grp : Nat) : Tensor := ⟨0x10000, 64, 640, 0x1000, 0, 0, grp, true, 1, fmt, true, true⟩
/-- A parameter block at 0x40 of the scratchpad, and tensors: 0 ternary, 1 BF16, 2 grouped INT8, 3 MXINT8. -/
def engm (st : Strand) (bs : List Byte) : State :=
  memAt (memAt (one st 0) (Loc.spad 0 0x40).key bs) 0x300000
    (tentry 0x10000 0 0 ++ tentry 0x10000 5 0 ++ tentry 0x10000 1 4 ++ tentry 0x10000 3 0)
abbrev st3 (b c : W64) : Strand := regs3 anch (al + 0x40) b c

theorem ready_engm (st : Strand) (bs : List Byte) (h : st.kind = .anchored) (h2 : (engm st bs).drained r0 st = true) :
    EngineReady (engm st bs) 0 0 st team1 7 0x7F :=
  ⟨⟨⟨rfl, rfl⟩, h, rfl, rfl⟩, (by decide : ∀ n : Fin 8, (0x7F : Byte).getLsbD n = true →
    team1.toks[n].pending = false ∧ team1.toks[n].failed = false), rfl, rfl, Nat.two_pos, Nat.two_pos, h2, nofun⟩

/-- A parameter block is read where it was written. -/
theorem local_engm (b c : W64) (bs : List Byte) (n al' : Nat) (hn : 0x40 + n ≤ 0x1000) (ha : (al + 0x40).toNat % al' = 0)
    (hb : Memory.readN (engm (st3 b c) bs).mem (Loc.spad 0 0x40).key n = bs) :
    Local (engm (st3 b c) bs) 0 (st3 b c) team1 ((st3 b c).rd 1) n al' 0x40 bs := by
  have e : (st3 b c).rd 1 = al + 0x40 := by simp [st3, regs3, Strand.rd, Strand.wr]
  rw [e]
  exact ⟨⟨by decide, rfl, rfl, hn, by decide, .inl (by decide), rfl, rfl⟩, ha, hb.symm⟩

theorem wit_engine_ready : EngineReady (engm (st3 0 0) []) 0 0 (st3 0 0) team1 7 0x7F := ready_engm _ _ rfl (by decide +kernel)

theorem wit_fclr : ((regs3 anch 0xFFFFFFFF 0x100000000 0).rd 1).toNat < 2 ^ 32 ∧
    2 ^ 32 ≤ ((regs3 anch 0xFFFFFFFF 0x100000000 0).rd 2).toNat := by decide +kernel

/-- FPRB and FMAP of the last chase; the map names 32 rows. -/
theorem wit_fmap : ∃ bs, bs = List.replicate 4 (0xFF : Byte) ++ List.replicate 36 0 ∧
    Local (engm (st3 31 1) bs) 0 (st3 31 1) team1 ((st3 31 1).rd 1) 40 8 0x40 bs ∧ ((st3 31 1).rd 3).toNat = 1 ∧
    ((st3 31 32).rd 2).toNat < 32 ∧ 32 ≤ ((st3 31 32).rd 3).toNat ∧
    (bitmapOf bs).length = 32 ∧ ((engm (st3 31 1) bs).tile 0).expected 1 31 = none := by
  refine ⟨_, rfl, local_engm _ _ _ _ _ (by decide) (by decide) (by decide +kernel), ?_, ?_, ?_, ?_, ?_⟩ <;> decide +kernel

/-- The block of FSET: columns 0 to 63, K-groups 0 and 1 of handle 0. -/
def fsetBlock : List Byte := leBytes 8 0 ++ leBytes 8 0 ++ leBytes 8 (64 * 2 ^ 16 + 2 * 2 ^ 8 + 1) ++ List.replicate 40 0
def expecting (s : State) (g : Geo) : State := s.modTile 0 (fun w => { w with expects := [(31, ⟨true, 1, g, []⟩)] })
theorem wit_fset : (let s := engm (st3 31 0) fsetBlock;
      let g := Geo.parse 0 fsetBlock;
      s.handle 0 1 0 [0] false = some (tensor 0 0) ∧ fsetReserved fsetBlock = true ∧ g.limits = true ∧ g.fits (tensor 0 0) = true ∧
      ((expecting s { g with k := 640 }).tile 0).expected 1 31 = some ⟨true, 1, { g with k := 640 }, []⟩ ∧
      (expecting s g).handle 0 1 0 [0] false = some (tensor 0 0)) ∧
    Local (engm (st3 31 0) fsetBlock) 0 (st3 31 0) team1 ((st3 31 0).rd 1) 64 64 0x40 fsetBlock := by
  refine ⟨?_, local_engm _ _ _ _ _ (by decide) (by decide) ?_⟩ <;> decide +kernel

/-- The block of FMM: two rows of 4 elements on the last chase. -/
def fmmBlock : List Byte := leBytes 8 (31 * 2 ^ 32 + 2) ++ leBytes 8 (8 * 2 ^ 32 + 8) ++ leBytes 8 (2 ^ 4) ++ List.replicate 40 0
theorem wit_fmm : ∀ tr ∈ [true, false],
    (let st := st3 (al + 0x100) (al + 0x200);
     let s := expecting (engm st fmmBlock) ⟨0, 0, 0, 4, 1, 1, 4⟩;
     (FmmBlk.parse fmmBlock).ok fmmBlock tr = true ∧ (FmmBlk.parse fmmBlock).chase = 31 ∧
     (s.tile 0).expected 1 31 = some ⟨true, 1, ⟨0, 0, 0, 4, 1, 1, 4⟩, []⟩ ∧
     s.fmmChecks st 0 (FmmBlk.parse fmmBlock) ⟨true, 1, ⟨0, 0, 0, 4, 1, 1, 4⟩, []⟩ (st.rd 2) (st.rd 3) tr = none) := by
  decide +kernel

theorem wit_cfil : ((regs3 anch 0x10000 7 0).rd 2).toNat % 8 ≠ 0 ∧ ((regs3 anch 0x10000 16 0).rd 2).toNat % 8 = 0 ∧
    ((regs3 anch 0x10000 16 0).rd 1).toNat < 2 ^ 56 ∧
    (let st := regs3 anch (al + 0xFF0) 16 0; 2 ^ 56 ≤ (st.rd 1).toNat ∧ (one st 0).chkOwn 0 1 (st.rd 1) 16 1 = none) := by
  decide +kernel

/-- CPY of 2 rows of 64 elements from column 32 on, the tensor grouped INT8 or MXINT8 with its scales. -/
def cpyBlock (h : Nat) : List Byte := leBytes 8 (h * 2 ^ 48 + 2 ^ 32 + 2) ++ leBytes 8 (32 * 2 ^ 32 + 64) ++
  leBytes 8 (0x200 * 2 ^ 32) ++ leBytes 8 (if h = 3 then (al + 0x800).toNat else 0) ++ List.replicate 32 0
theorem wit_cpy : ∀ h ∈ [2, 3], ∃ x, (let s := engm (st3 (al + 0x100) 62) (cpyBlock h);
    s.handle 0 1 h anyFormat true = some x ∧ s.chkRows 0 1 (al + 0x100) 0x200 2 (64 * x.half / 2) 1 = none ∧
    s.chkRows 0 1 (al + 0x800) 64 2 2 1 = none ∧ 62 + 2 ≤ x.rows ∧ 32 + 64 ≤ x.elems ∧ x.format ≠ 2 ∧
    Memory.readN s.mem (Loc.spad 0 0x40).key 64 = cpyBlock h ∧ dwordAt (cpyBlock h) 0 / 2 ^ 33 % 2 ^ 15 = 0) := by
  intro h hh
  simp only [List.mem_cons, List.not_mem_nil, or_false] at hh
  rcases hh with rfl | rfl
  · exact ⟨tensor 1 4, by decide +kernel⟩
  · exact ⟨tensor 3 0, by decide +kernel⟩

def cpygBlock : List Byte := leBytes 8 (2 ^ 48 + 2) ++ leBytes 8 (32 * 2 ^ 32 + 64) ++ leBytes 8 (0x200 * 2 ^ 32) ++ List.replicate 40 0
theorem wit_cpyg : (let s := engm (st3 (al + 0x100) (al + 0x200)) cpygBlock;
    s.handle 0 1 1 anyFormat false = some (tensor 5 0) ∧ s.chkOwn 0 1 (al + 0x100) 8 4 = none ∧
    s.chkRows 0 1 (al + 0x200) 0x200 2 (64 * (tensor 5 0).half / 2) 1 = none ∧ 32 + 64 ≤ (tensor 5 0).elems ∧
    Memory.readN s.mem (Loc.spad 0 0x40).key 64 = cpygBlock) := by decide +kernel

def cqntBlock : List Byte := leBytes 8 (2 ^ 48 + 2 * 2 ^ 32 + 1) ++ List.replicate 56 0
theorem wit_cqnt : (let s := engm (st3 60 4) cqntBlock;
    s.handle 0 1 1 [5, 6] false = some (tensor 5 0) ∧ s.handle 0 1 2 anyFormat true = some (tensor 1 4) ∧
    ((st3 60 4).rd 2).toNat + ((st3 60 4).rd 3).toNat ≤ 64 ∧ Memory.readN s.mem (Loc.spad 0 0x40).key 64 = cqntBlock) := by
  decide +kernel

/-- CAST from BF16 into ternary, and into the last chase. -/
def castBlock (th : Nat) : List Byte := leBytes 8 (2 ^ 48 + th * 2 ^ 24) ++ List.replicate 56 0
def directBlock : List Byte := leBytes 8 (2 ^ 48 + 5 * 2 ^ 24 + 32 + 31) ++ leBytes 8 0 ++ leBytes 8 (64 * 2 ^ 16 + 2 * 2 ^ 8 + 1) ++
  List.replicate 40 0
theorem wit_cast : (∀ th ∈ [0, 0x7E], (let s := engm (st3 60 4) (castBlock th);
      s.handle 0 1 1 [5] false = some (tensor 5 0) ∧ s.handle 0 1 0 [0] true = some (tensor 0 0) ∧
      60 + 4 ≤ (tensor 5 0).dim1 * (tensor 5 0).kgs ∧ Memory.readN s.mem (Loc.spad 0 0x40).key 64 = castBlock th ∧
      (dwordAt (castBlock th) 0).testBit 5 = false ∧ dwordAt (castBlock th) 0 / 2 ^ 6 % 2 ^ 18 = 0)) ∧
    (let s := engm (st3 0 0) directBlock;
     let g := Geo.parse 1 directBlock;
     s.handle 0 1 1 [5] false = some (tensor 5 0) ∧ (dwordAt directBlock 0).testBit 5 = true ∧ g.limits = true ∧
     g.fits (tensor 5 0) = true ∧ dwordAt directBlock 0 / 2 ^ 32 % 2 ^ 16 = 0 ∧ dwordAt directBlock 16 / 2 ^ 32 = 0 ∧
     dwordAt directBlock 0 / 2 ^ 6 % 2 ^ 18 = 0 ∧ Memory.readN s.mem (Loc.spad 0 0x40).key 64 = directBlock) := by
  decide +kernel

/-- CPYR of 128 bytes in chunks of 64 to tiles 3 and 9. -/
def cpyrBlock : List Byte := leBytes 8 (64 * 2 ^ 32 + 128) ++ leBytes 8 64 ++ leBytes 8 2 ++ List.replicate 40 0 ++
  leBytes 4 3 ++ leBytes 4 9 ++ List.replicate 56 0
theorem wit_cpyr : (let s := engm (st3 (al + 0x100) 0) cpyrBlock;
    (List.range 16).map (cpyrTile cpyrBlock) = 3 :: 9 :: List.replicate 14 0 ∧ s.inPartition 0 1 3 = true ∧
    s.inPartition 0 1 9 = true ∧ s.chkOwn 0 1 (al + 0x100) 128 1 = none ∧ dwordAt cpyrBlock 16 = 2 ∧ dwordAt cpyrBlock 8 = 64 ∧
    Memory.readN s.mem (Loc.spad 0 0x40).key 128 = cpyrBlock) := by decide +kernel

/-- An engine with an operation at the head of its queue. -/
def opOf (o : Op) : EngOp := ⟨33, 2, 7, 1, 3, 5, o⟩
def headed (forme : Bool) (o : Op) : State := ev (mach ((tile1 anch 0).setEngine forme { Engine.idle with queue := [opOf o] }) 0) { tile := 0 }
def setChase1 : Chase := { Chase.reset with state := .set, asid := 1, geo := ⟨0, 0, 0, 64, 1, 1, 320⟩ }
def fmmBlk (r : Nat) : FmmBlk := ⟨5, r, 8, 8, 0, 0, 1, false, 0, 0, 0⟩
theorem wit_engine_start : (∀ o ∈ [Op.fclr 0xFFFFFFFF, .fmap 31 [1], .fprb 31 (tileSpace 0 (0x1000 - 192)),
      .fmm (fmmBlk 0) (tileSpace 0 0) (tileSpace 0 64) false, .fmm (fmmBlk 1) (tileSpace 0 0) (tileSpace 0 64) true],
      CanStart (headed true o) 0 true (opOf o) []) ∧
    CanStart (headed false (.cfil (tileSpace 0 0xFF8) 8 1)) 0 false (opOf (.cfil (tileSpace 0 0xFF8) 8 1)) [] ∧
    (headed true (.fclr 0)).team 0 = some team1 ∧ team1.is 1 3 5 = true ∧ ((headed true (.fclr 0)).die 0).resetting = false ∧
    NoWatch (headed true (.fclr 0)) 0 1 ∧ ((headed true (.fclr 0)).chase 0 5).state = .unset ∧
    ((headed true (.fclr 0)).chase 0 5).foreign 1 = false := by
  refine ⟨fun o h => ?_, ⟨rfl, rfl, rfl, rfl, rfl⟩, rfl, rfl, rfl, nofun, rfl, rfl⟩
  simp only [List.mem_cons, List.not_mem_nil, or_false] at h
  rcases h with rfl | rfl | rfl | rfl | rfl <;> exact ⟨rfl, rfl, rfl, rfl, rfl⟩

/-- A direct CAST of three columns of five BF16 weights, 1, 2, 4, -1 and 0.5, into chase 7; one from beyond virtual memory. -/
def weights : List Byte := [0x80, 0x3F, 0x00, 0x40, 0x80, 0x40, 0x80, 0xBF, 0x00, 0x3F]
def source (base : W64) : Tensor := ⟨base, 64, 5, 640, 0, 0, 0, true, 1, 5, true, true⟩
abbrev plate3 : Geo := ⟨1, 0, 0, 3, 1, 1, 5⟩
def direct (base : W64) : State :=
  let q : Engine := { Engine.idle with queue := [opOf (.castDirect (source base) 0x30 7 plate3)] };
  ev { mach { tile1 anch 0 with forme := q, copy := q, tlb := [⟨1, 0x10000, 4096, leaf4k, true⟩] } 0 with
    mem := Memory.writeN (Memory.writeN (Memory.writeN [] 0x200000 weights) (0x200000 + 640) weights) (0x200000 + 1280) weights } { tile := 0 }
def castOf (s : State) : List (Group × Bool × W64) := (plateGroups plate3 1).map (fun e =>
  castGroup 0x30 ((List.range 5).map (fun n => BitVec.ofNat 16 (bytesAt s (0x200000 + 640 * e.2.2 + 2 * n) 2))))
theorem wit_direct : (∃ fs, ((direct 0x10000).tile 0).forme.queue = opOf (.castDirect (source 0x10000) 0x30 7 plate3) :: fs) ∧
    ((direct 0x10000).tile 0).forme.idleAt 100 = true ∧ ((direct 0x10000).tile 0).copy.idleAt 100 = true ∧
    ((direct 0x10000).tile 0).forme.stuck = none ∧ ((direct 0x10000).tile 0).opHeld (opOf (.castDirect (source 0x10000) 0x30 7 plate3)) 100 = false ∧
    (∀ e ∈ plateGroups plate3 1, EngineBytes (direct 0x10000) 0 1 ((0x10000 + e.2.2 / 1 * 640 + 640 * (e.2.2 % 1)) % 2 ^ 64) 10
      (0x200000 + 640 * e.2.2)) ∧
    (∀ e ∈ castOf (direct 0x10000), e.2.1 = false) ∧
    (∃ c, buildChase 1 plate3 [] ((castOf (direct 0x10000)).map (·.1)) = .ok c) ∧
    2 ^ 56 ≤ ((source (2 ^ 56)).base.toNat + (0 * 1 + 0) / 1 * 640 + 640 * ((0 * 1 + 0) % 1)) % 2 ^ 64 := by
  refine ⟨⟨_, rfl⟩, rfl, rfl, rfl, rfl, fun e h => ?_, by decide +kernel, ?_, by decide +kernel⟩
  · have h' : e = (0, 0, 0) ∨ e = (1, 0, 1) ∨ e = (2, 0, 2) := by
      have : plateGroups plate3 1 = [(0, 0, 0), (1, 0, 1), (2, 0, 2)] := by decide +kernel
      simpa [this] using h
    rcases h' with rfl | rfl | rfl <;>
      exact ⟨by decide, rfl, rfl, ⟨1, 0x10000, 4096, leaf4k, true⟩, rfl, by decide, by decide +kernel, by decide +kernel, by decide +kernel⟩
  · have : ((buildChase 1 plate3 [] ((castOf (direct 0x10000)).map (·.1))).toOption).isSome = true := by decide +kernel
    cases h : buildChase 1 plate3 [] ((castOf (direct 0x10000)).map (·.1)) with
    | ok c => exact ⟨c, rfl⟩
    | error m => rw [h] at this; cases this

/-- The engine of an operation, its tile with the page, and a memory. -/
def eng (forme : Bool) (o : Op) (mem : List Host.Cell) (ch : Table Chase := []) : State :=
  ev { mach ({ tile1 anch 0 with tlb := [page], chases := ch }.setEngine forme { Engine.idle with queue := [opOf o] }) 0 with mem := mem } { tile := 0 }
theorem can_start (forme : Bool) (o : Op) (mem : List Host.Cell) (ch : Table Chase) (h : o.isDirect = false) :
    CanStart (eng forme o mem ch) 0 forme (opOf o) [] := by
  cases forme <;> refine ⟨rfl, rfl, rfl, h, ?_⟩ <;> cases o <;> simp [Tile.opHeld, Tile.acUnread, Tile.priorOpen, Tile.openBefore, eng, ev, mach,
    State.tile, tile1, Tile.reset, Tile.setEngine, opOf, Table.get, Table.find, Engine.idle, team1, fetchTeam]
theorem own_team (forme : Bool) (o : Op) (mem : List Host.Cell) (ch : Table Chase) : OwnTeam (eng forme o mem ch) 0 (opOf o) team1 := by
  cases forme <;> exact ⟨by decide, rfl, rfl, by decide, rfl⟩
theorem no_watch (forme : Bool) (o : Op) (mem : List Host.Cell) (ch : Table Chase) : NoWatch (eng forme o mem ch) 0 1 := by
  cases forme <;> exact nofun
/-- Reads and writes of the engine in the page. -/
theorem no_migration (forme : Bool) (o : Op) (mem : List Host.Cell) (ch : Table Chase) (pa : Nat) (d : pa / 2 ^ 39 = 0) :
    (eng forme o mem ch).migrating [(.dev pa, 1)] = false := by
  have e : (eng forme o mem ch).die 0 = die1 := by cases forme <;> rfl
  have d : pa / 549755813888 = 0 := d
  simp [State.migrating, d, e, die1, Die.reset]
theorem page_of (va n pa : Nat) (h : va + n ≤ 0x11000) (h0 : va < 0x11000) (h2 : 0x10000 ≤ va) (h3 : pa = 0x200000 + va % 4096) :
    tlbFind [page] 1 va = some page ∧ va + n ≤ page.va + page.size ∧ pa = ptePa page.leaf + va % pageBytes (pteSize page.leaf) := by
  have g : ptePa page.leaf = 0x200000 ∧ pageBytes (pteSize page.leaf) = 4096 := by decide +kernel
  refine ⟨?_, h, by rw [g.1, g.2, h3]⟩
  simp [tlbFind, page]; omega
theorem page_read (forme : Bool) (o : Op) (mem : List Host.Cell) (ch : Table Chase) (va n pa : Nat) (h : va + n ≤ 0x11000) (h0 : va < 0x11000)
    (h2 : 0x10000 ≤ va) (h3 : pa = 0x200000 + va % 4096) : EngineBytes (eng forme o mem ch) 0 1 va n pa := by
  obtain ⟨a, b, c⟩ := page_of va n pa h h0 h2 h3
  cases forme <;> exact ⟨by omega, rfl, no_migration _ o mem ch pa (by omega), page, a, b, rfl, rfl, c⟩
theorem page_room (forme : Bool) (o : Op) (mem : List Host.Cell) (ch : Table Chase) (va n pa : Nat) (h : va + n ≤ 0x11000) (h0 : va < 0x11000)
    (h2 : 0x10000 ≤ va) (h3 : pa = 0x200000 + va % 4096) : EngineRoom (eng forme o mem ch) 0 1 va n pa := by
  obtain ⟨a, b, c⟩ := page_of va n pa h h0 h2 h3
  have d : pa / 2 ^ 39 = 0 := by omega
  have q : (eng forme o mem ch).noticePage pa = false := by
    cases forme <;> simp [State.noticePage, eng, ev, mach, die1, ctx1, Ctx.absent] <;> omega
  cases forme <;> exact ⟨by omega, no_migration _ o mem ch pa d, q, by omega, by rw [d]; exact nofun, page, a, b, rfl, rfl, rfl, c⟩

/-- A plate with a macro row too many: 320 rows and a duplicated channel. -/
theorem wit_plate : (rowEntries [(List.replicate 320 1, 0)] ⟨0, 0, 0, 1, 1, 1, 320⟩ [0] 0).length = 321 ∧
    (rowEntries [(List.replicate 320 1, 0)] ⟨0, 0, 0, 1, 1, 1, 320⟩ [] 0).length ≤ 320 := by decide +kernel

/-- A ternary tensor of 5 or 320 rows and 2 columns at virtual 0x10000, its records at 0x10800; plates of 1 and 2 columns. -/
def tern (k : Nat) : Tensor := ⟨0x10000, 2, k, 64, 0x10800, 0, 0, true, 1, 0, true, true⟩
abbrev geo (n k : Nat) : Geo := ⟨1, 0, 0, n, 1, 1, k⟩
/-- Group 0 of all +1. -/
def ones : List Host.Cell := Memory.writeN [] 0x200000 (List.replicate 64 121)
/-- FSET of a plate, of one whose second record is not its own, of one with a byte above 242, and of one with 321 rows. -/
theorem wit_fset_steps : (∀ k ∈ [5, 320], ordinals (geo 1 k) (tern k) = [0] ∧ ordinals (geo 2 k) (tern k) = [0, 1]) ∧
    (∀ n k ch mem q, q < 2 → k ≤ 320 →
      EngineBytes (eng true (.fset 31 (geo n k) (tern k)) mem ch) 0 1 (((tern k).base.toNat + q * (tern k).pitch) % 2 ^ 64)
        ((groupLen (tern k) q + 4) / 5) (0x200000 + 64 * q) ∧
      EngineBytes (eng true (.fset 31 (geo n k) (tern k)) mem ch) 0 1 (((tern k).sbase.toNat + 4 * q) % 2 ^ 64) 4 (0x200800 + 4 * q)) ∧
    (let s := eng true (.fset 31 (geo 2 5) (tern 5)) [];
     Memory.readN s.mem 0x200000 1 = [0] ∧ bytesAt s 0x200800 4 / 2 ^ 16 = 0 ∧ bytesAt s 0x200804 4 / 2 ^ 16 ≠ 1 ∧
     (buildChase 1 (geo 1 5) [] [(List.replicate 5 0, 0)]).isOk = true) ∧
    (∃ b ∈ Memory.readN (Memory.writeN [] 0x200000 [243]) 0x200000 1, 243 ≤ b.toNat) ∧
    (let s := eng true (.fset 31 (geo 1 320) (tern 320)) ones [(31, Chase.unset 1 [0])];
     Memory.readN s.mem 0x200000 64 = List.replicate 64 121 ∧ bytesAt s 0x200800 4 / 2 ^ 16 = 0 ∧ (s.chase 0 31).dup = [0] ∧
     (buildChase 1 (geo 1 320) [0] [(List.replicate 320 1, 0)]).isOk = false) := by
  refine ⟨by decide +kernel, fun n k ch mem q hq hk => ?_, by decide +kernel, by decide +kernel, by decide +kernel⟩
  have l : (groupLen (tern k) q + 4) / 5 ≤ 64 := by simp only [groupLen]; omega
  have b : (tern k).base.toNat = 0x10000 ∧ (tern k).sbase.toNat = 0x10800 ∧ (tern k).pitch = 64 := ⟨rfl, rfl, rfl⟩
  rw [b.1, b.2.1, b.2.2]
  exact ⟨page_read _ _ _ _ _ _ _ (by omega) (by omega) (by omega) (by omega),
    page_read _ _ _ _ _ _ _ (by omega) (by omega) (by omega) (by omega)⟩

/-- A set chase, a suspect one, and one of another context, for FSCL and FMM; its record. -/
def plateOf (st : ChaseState) (a : Nat) : Chase := { Chase.reset with
  state := st, asid := a, geo := geo 1 5, rows := [(0, 0x8002)], cells := [(0, 1)], scales := [(0, 0x3F80)], parity := [(0, true)] }
theorem wit_fscl : (∀ x ∈ [plateOf .set 1, plateOf .suspect 1], x.state ≠ .unset ∧ x.asid = 1) ∧
    ((plateOf .unset 1).state = .unset ∧ (plateOf .set 2).asid ≠ 1) ∧
    CanStart (eng true (.fscl 31 (geo 2 5) (tern 5)) [] [(31, plateOf .set 1)]) 0 true (opOf (.fscl 31 (geo 2 5) (tern 5))) [] ∧
    EngineBytes (eng true (.fscl 31 (geo 2 5) (tern 5)) [] [(31, plateOf .set 1)]) 0 1 0x10804 4 0x200804 ∧
    ((eng true (.fscl 31 (geo 2 5) (tern 5)) [] [(31, plateOf .set 1)]).chase 0 31) = plateOf .set 1 :=
  ⟨by decide, by decide, can_start _ _ _ _ rfl, page_read _ _ _ _ _ _ _ (by omega) (by omega) (by omega) (by omega), rfl⟩

theorem row_time (st : ChaseState) (a p : Nat) : IsRowTime (plateOf st a) p p := by
  refine ⟨Nat.le_refl _, fun m h => ?_, .inl rfl⟩
  have h : m < 1 * 1 := h
  obtain rfl : m = 0 := by omega
  simp [plateOf]
theorem wit_probe : IsRowTime (plateOf .set 1) 8 8 ∧ IsRowTime (plateOf .suspect 1) 4 4 ∧ (plateOf .set 1).state ≠ .unset ∧
    (plateOf .set 1).dup.countP (fun k => decide (k < 5)) < 2 ^ 16 := ⟨row_time _ _ _, row_time _ _ _, by decide, by decide⟩

/-- FMM and FMMT of one row of 5 INT8 elements or 5 of MXINT8 into an accumulator, and scaled into the grant's last bytes. -/
def fmmOn (act out : Nat) : FmmBlk := ⟨31, 1, 64, 64, 0x3F800000, act, out, false, 7, tileSpace 0 0x200, 64⟩
def fmmEng (st : ChaseState) (act out : Nat) (tr : Bool) : State :=
  eng true (.fmm (fmmOn act out) (tileSpace 0 0x100) (tileSpace 0 0xFE0) tr) [] [(31, plateOf st 1)]
theorem wit_fmm_steps : ∀ st ∈ [ChaseState.set, .suspect], ∀ act ∈ [0, 1, 2], ∀ out ∈ [0, 1, 2, 3], ∀ tr ∈ [true, false],
    let s := fmmEng st act out tr
    let b := fmmOn act out
    CanStart s 0 true (opOf (.fmm b (tileSpace 0 0x100) (tileSpace 0 0xFE0) tr)) [] ∧
    OwnTeam s 0 (opOf (.fmm b (tileSpace 0 0x100) (tileSpace 0 0xFE0) tr)) team1 ∧ NoWatch s (0 / 256) 1 ∧
    (s.chase 0 b.chase).state ≠ .unset ∧ (s.chase 0 b.chase).asid = 1 ∧ (s.chase 0 b.chase).badParity = [] ∧
    (∀ p, IsRowTime (s.chase 0 b.chase) p p) ∧ rowLen (s.chase 0 b.chase) b tr ≤ 5 ∧ Readable s 0 team1 0x100 5 ∧
    (Loc.spad 0 0xFE0).key + 20 ≤ (Loc.spad 0 team1.grant).key := by
  intro st hs act ha out ho tr ht
  refine ⟨can_start _ _ _ _ rfl, own_team _ _ _ _, no_watch _ _ _ _, ?_, ?_, ?_, row_time st 1, ?_, ⟨by decide, rfl⟩, by decide⟩ <;>
    simp only [List.mem_cons, List.not_mem_nil, or_false] at hs ha ho ht <;> rcases hs with rfl | rfl <;>
    rcases ha with rfl | rfl | rfl <;> rcases ho with rfl | rfl | rfl | rfl <;> rcases ht with rfl | rfl <;> decide +kernel

/-- CPY of one row of 8 bytes of MXINT8 with its scale byte, or of INT4 without, either way; the last byte of the grant. -/
def mxT (f : Nat) : Tensor := ⟨0x10000, 4, 64, 64, 0x10800, 16, 0, true, 1, f, true, true⟩
theorem wit_cpy_steps : ∀ f ∈ [2, 3], ∀ toH ∈ [true, false],
    let sa : W64 := if f = 3 then tileSpace 0 0xFFF else 0
    let o := Op.cpy (mxT f) toH 1 1 32 16 64 (tileSpace 0 0x100) sa
    let s := eng false o []
    let n := 16 * (mxT f).half / 2
    let moves : List (Nat × Nat × Nat × Nat) := (0x100, 0x10040 + 16 * (mxT f).half, 0x200040 + 16 * (mxT f).half, n) ::
      (if f = 3 then [(0xFFF, 0x10811, 0x200811, 1)] else [])
    CanStart s 0 false (opOf o) [] ∧ OwnTeam s 0 (opOf o) team1 ∧ NoWatch s (0 / 256) 1 ∧
    ∀ e ∈ moves, e.1 + e.2.2.2 ≤ team1.grant ∧ s.egress [(.spad 0 e.1, e.2.2.2)] [(.dev e.2.2.1, e.2.2.2)] = false ∧
      s.egress [(.dev e.2.2.1, e.2.2.2)] [(.spad 0 e.1, e.2.2.2)] = false ∧ EngineBytes s 0 1 e.2.1 e.2.2.2 e.2.2.1 ∧
      EngineRoom s 0 1 e.2.1 e.2.2.2 e.2.2.1 ∧ s.poisoned (Loc.spad 0 e.1).key e.2.2.2 = false := by
  intro f hf toH ht
  simp only [List.mem_cons, List.not_mem_nil, or_false] at hf ht
  rcases hf with rfl | rfl <;> rcases ht with rfl | rfl <;>
    refine ⟨can_start _ _ _ _ rfl, own_team _ _ _ _, no_watch _ _ _ _, fun e h => ?_⟩ <;>
    simp only [if_true, List.mem_cons, List.not_mem_nil, or_false, Nat.reduceEqDiff, if_false] at h
  case inl.inl | inl.inr =>
    subst h
    exact ⟨by decide, rfl, rfl, page_read _ _ _ _ _ _ _ (by decide) (by decide) (by decide) (by decide),
      page_room _ _ _ _ _ _ _ (by decide) (by decide) (by decide) (by decide), rfl⟩
  all_goals
    rcases h with rfl | rfl <;>
    exact ⟨by decide, rfl, rfl, page_read _ _ _ _ _ _ _ (by decide) (by decide) (by decide) (by decide),
      page_room _ _ _ _ _ _ _ (by decide) (by decide) (by decide) (by decide), rfl⟩

/-- CPYR to its own tile and to tile 3, which has room for one chunk of 64 bytes or for none. -/
def dealt (g : Nat) : State :=
  let s := eng false (.cpyr (tileSpace 0 0x100) 64 128 0x40 [0, 3]) []
  { s with tiles := s.tiles ++ [(3, { Tile.reset with team := some { team1 with ident := 9, grant := g } })] }
theorem wit_cpyr_steps : ∀ g ∈ [0x80, 0x7F], CanStart (dealt g) 0 false (opOf (.cpyr (tileSpace 0 0x100) 64 128 0x40 [0, 3])) [] ∧
    OwnTeam (dealt g) 0 (opOf (.cpyr (tileSpace 0 0x100) 64 128 0x40 [0, 3])) team1 ∧ Readable (dealt g) 0 team1 0x100 128 ∧
    (∀ u ∈ [0, 3], ((dealt g).die (u / 256)).resetting = false ∧ NoWatch (dealt g) (u / 256) 1 ∧
      ∃ k, (dealt g).team u = some k ∧ k.asid = 1 ∧ k.grant = (if u = 3 then g else 0x1000) ∧ k.grant ≤ 0x180000) ∧
    (∀ n u e, u ∈ [0, 3] → (dealt g).egress [(.spad 0 n, e)] [(.spad u n, e)] = false) ∧
    (0x100 + 128 ≤ 0x180000 ∧ 0x40 + 64 ≤ 0x100) := by
  intro g hg
  simp only [List.mem_cons, List.not_mem_nil, or_false] at hg
  rcases hg with rfl | rfl <;>
    refine ⟨⟨rfl, rfl, rfl, rfl, rfl⟩, ⟨by decide, rfl, rfl, by decide, rfl⟩, ⟨by decide, rfl⟩, fun u hu => ?_, fun n u e hu => ?_, by decide⟩ <;>
    simp only [List.mem_cons, List.not_mem_nil, or_false] at hu <;> rcases hu with rfl | rfl <;>
    first | rfl | exact ⟨rfl, nofun, _, rfl, rfl, rfl, by decide⟩

/-- CPYG of the rows 1 and 4 of a tensor of 4 rows of bytes. -/
def listed : List Host.Cell := Memory.writeN [] (Loc.spad 0 0x100).key (leBytes 4 1 ++ leBytes 4 4)
theorem wit_cpyg_steps : (let o := Op.cpyg (mxT 7) 2 0 16 16 (tileSpace 0 0x100) (tileSpace 0 0xFE0)
    let s := eng false o listed
    CanStart s 0 false (opOf o) [] ∧ OwnTeam s 0 (opOf o) team1 ∧ NoWatch s (0 / 256) 1 ∧ Readable s 0 team1 0x100 8 ∧
    bytesAt s (Loc.spad 0 0x100).key 4 = 1 ∧ bytesAt s (Loc.spad 0 0x104).key 4 = 4 ∧ (mxT 7).rows = 4 ∧
    0xFE0 + 1 * 16 + 16 ≤ team1.grant ∧ EngineBytes s 0 1 0x10040 16 0x200040 ∧
    s.egress [(.dev 0x200040, 16)] [(.spad 0 0xFE0, 16)] = false) :=
  ⟨can_start _ _ _ _ rfl, own_team _ _ _ _, no_watch _ _ _ _, ⟨by decide, rfl⟩, by decide +kernel, by decide +kernel, rfl, by decide,
    page_read _ _ _ _ _ _ _ (by decide) (by decide) (by decide) (by decide), rfl⟩

/-- CAST and CQNT of a row of 5 or 33 BF16 elements, into each kind of destination. -/
def latent (k : Nat) : Tensor := ⟨0x10000, 2, k, 128, 0, 0, 0, true, 1, 5, true, true⟩
def into (f k g : Nat) : Tensor := ⟨0x10200, 2, k, 64, 0x10800, 16, g, true, 1, f, true, true⟩
theorem wit_cast_steps : (let o := Op.cast (latent 5) (into 0 5 0) 0x30 0 2
    let s := eng false o []
    CanStart s 0 false (opOf o) [] ∧ ∀ q, q < 2 →
      EngineBytes s 0 1 (0x10000 + q * 128) 10 (0x200000 + q * 128) ∧ EngineRoom s 0 1 (0x10200 + q * 64) 1 (0x200200 + q * 64) ∧
      EngineRoom s 0 1 (0x10800 + 4 * q) 4 (0x200800 + 4 * q)) ∧
    (FVal.isFinite (.ofBf 0x7F80) = false ∧ FVal.isFinite (.ofBf 0x7FC0) = false ∧ FVal.isFinite (.ofBf 0x3F80) = true) :=
  ⟨⟨can_start _ _ _ _ rfl, fun q h => ⟨page_read _ _ _ _ _ _ _ (by omega) (by omega) (by omega) (by omega),
    page_room _ _ _ _ _ _ _ (by omega) (by omega) (by omega) (by omega),
    page_room _ _ _ _ _ _ _ (by omega) (by omega) (by omega) (by omega)⟩⟩, by decide +kernel⟩
theorem wit_cqnt_steps : (∀ f ∈ [1, 2, 3], ∀ z ∈ [true, false],
    let o := Op.cqnt (latent 33) (into f 33 32) 0 2 z
    let s := eng false o []
    CanStart s 0 false (opOf o) [] ∧ ∀ i, i < 2 → EngineBytes s 0 1 (0x10000 + i * 128) 66 (0x200000 + i * 128) ∧
      (∀ n, n ≤ 33 → EngineRoom s 0 1 (0x10200 + i * 64) n (0x200200 + i * 64)) ∧
      EngineRoom s 0 1 (0x10800 + i * 16) 2 (0x200800 + i * 16) ∧
      ∀ j, j < 2 → EngineRoom s 0 1 (0x10800 + 4 * (i * 2 + j)) 4 (0x200800 + 4 * (i * 2 + j))) ∧
    (((FVal.ofInt 0).divFin (FVal.ofInt 7)).toBf.1.toNat % 2 ^ 15 = 0 ∧ ((FVal.ofInt 3).divFin (FVal.ofInt 7)).toBf.1.toNat % 2 ^ 15 ≠ 0) :=
  ⟨fun f _ z _ => ⟨can_start _ _ _ _ rfl, fun i h => ⟨page_read _ _ _ _ _ _ _ (by omega) (by omega) (by omega) (by omega),
    fun n hn => page_room _ _ _ _ _ _ _ (by omega) (by omega) (by omega) (by omega),
    page_room _ _ _ _ _ _ _ (by omega) (by omega) (by omega) (by omega),
    fun j hj => page_room _ _ _ _ _ _ _ (by omega) (by omega) (by omega) (by omega)⟩⟩, by decide +kernel⟩

def doneOp : EngDone := ⟨33, 2, 1, 3, 5, 100, some 5, 0x80, false, none, none⟩
theorem wit_token_complete : (let s := ev (mach { tile1 anch 0 with forme := { Engine.idle with done := [doneOp] } } 0) { tile := 0 };
      (s.tile 0).forme.done = [doneOp] ∧ doneOp.due ≤ s.clk ∧ s.team 0 = some team1 ∧ team1.asid = 1 ∧ team1.ident = 3 ∧
      team1.block = 5 ∧ team1.noExchange = false) ∧
    ∀ n ∈ [0, 318], (let s := ev (mach { tile1 anch 0 with chases := [(0, setChase1)], scrub := n } 0) { tile := 0 };
      (s.tile 0).forme.queue = [] ∧ (s.tile 0).forme.idleAt s.clk = true ∧ n = (s.tile 0).scrub ∧ (s.chase 0 (n / 20480)).state = .set ∧
      n / 320 % 64 < (s.chase 0 (n / 20480)).geo.kg * (s.chase 0 (n / 20480)).geo.ng ∧ n % 320 ≠ 319) := by
  refine ⟨⟨rfl, by decide, rfl, rfl, rfl, rfl, rfl⟩, ?_⟩
  decide +kernel

/-! ## Time slices, memory system, migration: hypotheses that hold somewhere -/

/-- A waiting edition with undealt blocks beside the resident one. -/
def ed4 : Edition := { ed3 with
  ident := 4, seq := 2, atRoot := [(0, 4)], dealt := [],
  desc := { parseDesc (List.replicate 128 0) with grant := 0x800, n := 1, x := 4, y := 1, z := 1 } }
def contest (m : Team) : State := ev ((mach { tile1 anch 0 with team := some m } 0).modRoot 1 (fun x => { x with editions := [ed3, ed4] })) { tile := 0 }
theorem wit_slice : (∃ m, m = { team1 with residence := 1600, asleepFor := 4096 } ∧ (contest m).team 0 = some m ∧
      ((contest m).tile 0).preemptible = true ∧ ((contest m).ctx 0 1).quantum = 1600 ∧ 1600 ≤ m.residence ∧
      (contest m).contested 0 = true ∧ 4096 ≤ m.asleepFor ∧ (contest m).waitingFor 0 ≠ [] ∧ m.yreq = false) ∧
    (∃ m, m = { team1 with yreq := true, count := some 0 } ∧ (contest m).team 0 = some m ∧ MayLeave (contest m) 0 1) ∧
    ∃ m, m = { team1 with yreq := true, yreqAt := 0 } ∧ (contest m).team 0 = some m ∧ m.count = none ∧
      m.yreqAt + 1600 / 16 ≤ (contest m).clk ∧ MayLeave (contest m) 0 1 := by
  refine ⟨⟨_, rfl, rfl, ?_, ?_, ?_, ?_, ?_, ?_, ?_⟩, ⟨_, rfl, rfl, ?_, ?_, ?_⟩, _, rfl, rfl, rfl, ?_, ?_, ?_, ?_⟩ <;> decide +kernel

/-- A save with two strands, the last queue full. -/
def saved (p : SavePath) : Saved := ⟨{ team1 with q := team1.q.set 3 eight }, [(0, anch), (7, { anch with uid := 77 })], p, 2,
  0x1000000 + 2 * 2 ^ 20 * 2, [], 90, false⟩
def away (p : SavePath) : State := ev (mach { Tile.reset with swapped := [saved p] } 0) { tile := 0, asid := 1, n := 2, k := 90 }
theorem wit_swap : ((one anch 0).team 0 = some team1 ∧ ((one anch 0).tile 0).forme.quiet = true ∧ ((one anch 0).tile 0).copy.quiet = true) ∧
    (∀ p ∈ [SavePath.forced, .compact], ((away p).tile 0).savedAt 1 2 = some (saved p) ∧ (away p).savePending 0 (saved p) = false) ∧
    (∀ e ∈ (saved .forced).strands, e.1 < 8) ∧ (∀ i : Fin 4, (saved .forced).team.q[i].length ≤ 8) ∧
    (let s := (away .forced).modTile 0 (fun w => { w with incoming := some (.saved 2 1) });
     (s.tile 0).incoming = some (.saved 2 1) ∧ (s.tile 0).savedAt 1 2 = some (saved .forced) ∧ s.team 0 = none ∧
     Table.risingFrom 0 (saved .forced).strands = true ∧ (s.root 1).chosen = none ∧ Memory.wf s.mem = true ∧
     (saved .forced).pa + 2 ^ 21 ≤ 2 ^ 50) ∧
    InDecl loopDecl 0x1FFFF ∧ ¬ InDecl (saved .compact).decl 0 := by
  refine ⟨⟨rfl, rfl, rfl⟩, ?_, ?_, ?_, ⟨rfl, ?_, rfl, ?_, rfl, rfl, ?_⟩, ⟨0, 0x2000010000, ?_⟩, ?_⟩ <;> first | decide +kernel | simp [InDecl, saved]

theorem wit_asleep : ∃ st s, st = { anch with hold := some (.queueRecv 1 0) } ∧
    s = ev ((one st 0).modRoot 1 (fun r => { r with chosen := some 7 })) { asid := 1 } ∧ (s.root 1).chosen = some 7 ∧
    s.findUid 7 = some r0 ∧ s.strand r0 = some st ∧ st.run = .running ∧ s.asleepAt r0 st = true :=
  ⟨_, _, rfl, rfl, rfl, by decide +kernel, rfl, rfl, by decide +kernel⟩

/-- A gang edition with tiles 0 and 1, a team of another edition on tile 1. -/
def gang : Edition := { ed3 with
  desc := { ed3.desc with gang := true }, gangTiles := [⟨5, 0⟩, ⟨6, 1⟩], slice := 1, gangStart := some 10 }
def ganged (e : Edition) (k : Nat) : State :=
  ev (withEd ((one anch 0).setTile 1 { Tile.reset with team := some { team1 with ident := 9 } }) e)
    { asid := 1, n := 1, ident := 3, k := k, value := 60 }
theorem wit_gang : (∀ k ∈ [0, 1, 2], (ganged gang k).edition 1 3 = some gang ∧ (ganged gang k).ev.n = gang.seq) ∧
    gang.state = .running ∧ gang.desc.gang = true ∧ gang.gangTiles ≠ [] ∧
    (ganged { gang with gangStart := none } 2).edition 1 3 = some { gang with gangStart := none } ∧
    (ganged gang 1).team 0 = some team1 ∧ team1.is 1 3 5 = true ∧
    (ganged gang 0).team 1 = some { team1 with ident := 9 } ∧ { team1 with ident := 9 }.is 1 3 6 = false ∧
    ((ganged gang 0).pkg ((ganged gang 0).root 1).pkg).gangReady = true ∧ (ganged gang 0).gangHere 1 gang ⟨5, 0⟩ = true := by
  refine ⟨?_, rfl, rfl, nofun, rfl, rfl, ?_, rfl, ?_, ?_, ?_⟩ <;> decide +kernel

/-- A load of strand 7 is on its way as packet 33. -/
def packet (l : Loc) (ans : Option Answer) : Packet := ⟨33, r0, 7, 1, sp + 0xA00FF8, [(l, 8)], .load 3 8 true, .acquire, none, ans, []⟩
def loading (h : Hold) (p : Packet) (status : HostStatus) : State :=
  ev { one { anch with hold := some h } 0 with
    net := [p], tiles := [(0, tile1 { anch with hold := some h } 0), (5, { idleTile with team := some { team1 with ident := 9 } })] }
    { n := 33, status := status }
theorem loadOut (h : Hold) (l : Loc) (ans : Option Answer) (status : HostStatus) :
    LoadOut (loading h (packet l ans) status) 0 0 { anch with hold := some h } (packet l ans) 3 8 true h :=
  ⟨rfl, rfl, rfl, rfl, rfl, rfl, rfl⟩
theorem wit_answers : LoadOut (loading (.remote 33) (packet (.spad 5 0xFF8) none) .ok) 0 0 { anch with hold := some (.remote 33) }
      (packet (.spad 5 0xFF8) none) 3 8 true (.remote 33) ∧
    InBank (loading (.remote 33) (packet (.spad 5 0xFF8) none) .ok) 5 1 0xFF8 8 ∧
    ((one anch 0).tile 5).grantOf 1 = none ∧ ((one anch 0).die 0).resetting = false ∧
    LoadOut (loading (.remote 33) (packet (.spad 5 0) (some (.fault 0x12))) .ok) 0 0 { anch with hold := some (.remote 33) }
      (packet (.spad 5 0) (some (.fault 0x12))) 3 8 true (.remote 33) ∧
    (∀ z ∈ [HostStatus.ok, .error], LoadOut (loading (.host 33) (packet (.host 0x5000) none) z) 0 0
      { anch with hold := some (.host 33) } (packet (.host 0x5000) none) 3 8 true (.host 33)) ∧
    (let s := loading (.host 33) (packet (.host 0x5000) none) .ok;
     s.poisoned (2 ^ 64 + 0x5000) 8 = false ∧ s.ev.k = 0 ∧ (packet (.host 0x5000) none).parts = [] ∧ 8 ≤ 64 - 0x5000 % 64) ∧
    (LoadOut (loading (.host 33) (packet (.host 0x503C) none) .ok) 0 0 { anch with hold := some (.host 33) }
        (packet (.host 0x503C) none) 3 8 true (.host 33) ∧ 64 - 0x503C % 64 < 8 ∧
      (loading (.host 33) (packet (.host 0x503C) none) .ok).poisoned (2 ^ 64 + 0x503C) (64 - 0x503C % 64) = false) ∧
    ∀ z ∈ [HostStatus.ok, .error], (let p := { packet (.host 0x503C) none with parts := [(0, [1, 2, 3, 4])] };
      let s := ev (loading (.host 33) p z) { n := 33, k := 1, status := z };
      LoadOut s 0 0 { anch with hold := some (.host 33) } p 3 8 true (.host 33) ∧ s.ev.k = 1 ∧ p.parts = [(0, [1, 2, 3, 4])] ∧
      s.poisoned (2 ^ 64 + 0x503C + 4) (8 - 4) = false) :=
  ⟨loadOut _ _ _ _, ⟨⟨_, rfl, rfl, by decide, by decide⟩, rfl, rfl⟩, rfl, rfl, loadOut _ _ _ _, fun z _ => loadOut _ _ _ z,
    ⟨rfl, rfl, rfl, by decide⟩, ⟨loadOut _ _ _ _, by decide, rfl⟩, fun z _ => ⟨⟨rfl, rfl, rfl, rfl, rfl, rfl, rfl⟩, rfl, rfl, rfl⟩⟩

/-- The last byte of the last tile's space. -/
theorem wit_ingress : ∃ w s, w = (⟨(Loc.spad 0x7FFFF 0x1FFFFF).key, 0, 1, [7]⟩ : HostWrite) ∧
    s = ev (one anch 0) { write := some w } ∧ s.ev.write = some w ∧ s.ev.status = .ok ∧ NoWatch s (0x7FFFF / 256) 1 ∧ 0x1FFFFF < 2 ^ 21 :=
  ⟨_, _, rfl, rfl, rfl, rfl, nofun, by decide⟩

def storeEnt (l : Loc) : StoreEnt := ⟨9, 7, 1, none, sp, [(l, 4)], [1, 2, 3, 4], .store, .relaxed, false⟩
def sideEnt : SideEnt := ⟨9, 7, 0, 0, 1, none, tileSpace 0 0xFF8, [1, 2, 3, 4, 5, 6, 7, 8], .store, .relaxed, true, true, false⟩
def budget : Watch := { parseWatch (entry 8) 5 6 0 with budget := 3, window := 50, created := 2 }
theorem wit_stores : (let s := ev (mach { tile1 anch 0 with sb := [storeEnt (.host 0x100)] } 0) { n := 9 };
      (s.tile 0).sb.find? (fun x => x.n == 9 && !x.registered) = some (storeEnt (.host 0x100))) ∧
    (∀ k ∈ [0, 1], (let s := ev (mach { tile1 anch 0 with sb := [storeEnt (.host 0x13E)] } 0) { n := 9, k := k };
      (s.tile 0).sb.find? (fun x => x.n == 9 && !x.registered) = some (storeEnt (.host 0x13E)) ∧ 64 - 0x13E % 64 < 4)) ∧
    (let s := ev { one anch 0 with dies := [(0, { die1 with owner := [(0x80000, 0)] })] } { tile := 0, k := 0x80000 };
     (s.die (4 * 0x80000 / 2 ^ 39)).owner.find 0x80000 = some 0) ∧
    (let s := ev (mach { tile1 anch 0 with side := [sideEnt] } 0) { tile := 0 };
     (s.tile 0).side = [sideEnt] ∧ (s.tile 0).sb = [] ∧ sideEnt.addr = tileSpace 0 0xFF8 ∧ InBank s 0 1 0xFF8 8 ∧ NoWatch s 0 1) ∧
    (let s := ev { one anch 0 with dies := [(0, { die1 with frisket := [(256, budget)] })] } { die := 0, n := 256 };
     (s.die 0).frisket.find 256 = some budget ∧ budget.armed = true ∧ budget.winClk + budget.window ≤ s.clk) := by
  refine ⟨rfl, fun k _ => ⟨rfl, by decide⟩, rfl, ⟨rfl, rfl, rfl, ⟨⟨team1, rfl, rfl, by decide, by decide⟩, rfl, rfl⟩, nofun⟩, rfl, rfl, by decide +kernel⟩

def Found (s : State) (d a va : Nat) (x : Nat) : Bool :=
  match s.fill d a va with
  | .entry _ e => decide (e.va ≤ x) && decide (x < e.va + e.size)
  | _ => false
theorem wit_walk : (match (one anch 0).fill 0 1 0x10000 with
      | .absent => True
      | _ => False) ∧
    (let st := { anch with hold := some (.xlate 0x10008) };
     let s := { one st 0 with mem := tables };
     Found s 0 1 0x10000 0x10008 = true ∧ s.strand r0 = some st ∧ st.asid = 1) := by
  refine ⟨trivial, by decide +kernel, rfl, rfl⟩

theorem wit_decision : (let s := ev (paged anch 0) { decision := some ⟨1, 0x10000, .mapped, [(0x503000, 5)]⟩ };
      (∀ w ∈ [((0x503000 : Nat), (5 : W64))], s.retiredLeaf w.2 = false) ∧ 0 ∈ s.diesOf 1) ∧
    (let s := ev (paged anch 0) { die := 0, asid := 1, value := 0x10000, n := 1 };
     s.ev.value.toNat ≤ 0x10000 ∧ 0x10000 < s.ev.value.toNat + s.ev.n) := by decide +kernel

def plan : MigratePlan := ⟨1, 0, 0x503000, BitVec.ofNat 64 (2 ^ 63 + 2 ^ 57 + 2 ^ 56 + 2 ^ 55 + 2 ^ 54 + 0x400000)⟩
def migration (p : MigPhase) : Migration := ⟨plan, 0x200000, 0x201000, 4096, 0, [], p⟩
def moving (p : MigPhase) (sb : List StoreEnt) : State :=
  ev { mach { tile1 anch 0 with sb := sb } 0 with dies := [(0, { die1 with migrations := [migration p] })] } { die := 0, n := 0x503000 }
theorem wit_migration : (let s := ev { one anch 0 with dies := [(0, { die1 with migQueue := [⟨1, 0, 0⟩] })] } { die := 0, plan := some plan };
      s.ev.flag = false ∧ (s.die 0).migQueue = [⟨1, 0, 0⟩] ∧ s.ev.plan = some plan ∧ s.retiredLeaf plan.newLeaf = false) ∧
    (∀ p ∈ [MigPhase.copy, .recopy 0, .recopy 3, .switch], ((moving p []).die 0).migrations = [migration p] ∧ (migration p).phase = p ∧
      (migration p).src + (migration p).size ≤ (migration p).dst) ∧
    Memory.wf (moving .copy []).mem = true ∧ (∀ t, ((moving (.recopy 3) []).tile t).dirty = []) ∧
    ∀ e ∈ ((moving .switch [storeEnt (.dev 0x200FFC)]).tile 0).sb, e.n = 9 →
      e.registered = false ∧ e.segs = [(.dev 0x200FFC, e.data.length)] := by
  refine ⟨by decide +kernel, by decide +kernel, rfl, fun t => ?_, by decide +kernel⟩
  cases t <;> rfl

/-! ## Debug, trace -/

def debugged (st : Strand) (x : EvArg) : State :=
  ev (withEd (mach { tile1 st 0 with gens := [(0, 4)] } 0) ed3) x
theorem wit_debug : (∀ z ∈ [Run.running, .frozen, .halted, .parked], (let st := { anch with run := z };
      let s := debugged st { tile := 0, slot := 0, gen := 4 };
      s.strand r0 = some st ∧ (s.tile 0).gens.get 0 0 = s.ev.gen ∧ (s.tile 0).gens.get 0 0 ≠ 5 ∧ s.blockKilled 1 3 5 = false ∧
      s.edition 1 3 = some ed3 ∧ (s.edition 1 3).bind (fun e => e.dealt.find? (fun y => y.idx == 5)) = some ⟨5, 0⟩ ∧
      (s.tile 0).blockTeam 1 3 5 = some team1)) ∧
    team1.killed = false ∧ ed3.state = .running ∧ { lite with edition := none }.edition = none ∧
    (∀ h ∈ [none, some (.host 4), some (.remote 4), some Hold.bart], (let st := { lite with edition := none, hold := h };
      let s := debugged st { tile := 0, slot := 0, gen := 4 };
      s.strand r0 = some st ∧ (s.tile 0).gens.get 0 0 = s.ev.gen ∧ st.run = .running ∧ ∀ n, st.hold ≠ some (.storeAcq n))) ∧
    (let st := { anch with run := .parked };
     let s := debugged st { tile := 0, slot := 0, gen := 4, flag := true };
     s.strand r0 = some st ∧ (s.tile 0).gens.get 0 0 = s.ev.gen ∧ s.ev.flag = true ∧ st.edition = some 3 ∧ st.block = some 5) ∧
    (let s := debugged anch { tile := 0, n := 8, k := 0x17FFF8 };
     s.frameTile 0 = false ∧ NoWatch s 0 (((s.team 0).map (·.asid)).getD 0)) ∧
    (debugged anch { tile := 0, n := 8, k := 0x800078 }).ev.k = 0x800000 + 0x100 * 0 + 8 * 15 := by
  refine ⟨fun z _ => ⟨rfl, rfl, by cases z <;> decide +kernel, ?_, rfl, rfl, rfl⟩, rfl, rfl, rfl, fun h hh => ⟨rfl, rfl, rfl, fun n e => ?_⟩,
    ⟨rfl, rfl, rfl, rfl, rfl⟩, ⟨?_, nofun⟩, rfl⟩
  · cases z <;> decide +kernel
  · simp only [List.mem_cons, List.not_mem_nil, or_false] at hh
    rcases hh with rfl | rfl | rfl | rfl <;> cases e
  · decide +kernel

/-- The last entry of the buffer; post 0 and 5. -/
theorem wit_trace : ∀ n ∈ [0x00FF000000000FFF, 0x0001000500000000],
    (let s := ev (mach { tile1 anch 0 with trace := ⟨BitVec.ofNat 64 n, 1, 2, [(3, 7)], none⟩ } 0) { tile := 0 };
     let c := (s.tile 0).trace.ctl.toNat;
     c = n ∧ c / 2 ^ 63 = 0 ∧ c / 2 ^ 48 % 256 ≠ 0 ∧ (s.tile 0).trace.left = none) := by
  decide +kernel

/-! ## The host, commands, firmware, links: hypotheses that hold somewhere -/

def liveCore : Core := { running := true, mail := [], version := 1, image := [] }
/-- A package that is up, with function 0's event ring and its queue 3. -/
def pkgUp : Package := { Package.reset with step := 6, cores := (List.range 8).map (fun i => (i, liveCore)) }
def fnUp : Fn := { Package.reset.fn 0 with
  evbase := 0x7000, even := true, evsize := 2, evhead := 5, evtail := 3,
  queues := [(3, { base := 0x9000, en := true, size := 0, tail := 2, head := 1, blocked := false })] }
def hosted (s : State) (p : Package → Package) (x : EvArg) : State :=
  ev { s with pkgs := [(0, p { pkgUp with fns := [(0, fnUp)] })] } x
abbrev home : State := withEd (one anch 0) ed3
/-- A command: its opcode, signed or not, context 1, tag 77, and its doublewords from the first on. -/
def words (op : Nat) (signed : Bool) (w : List Nat) : List W64 :=
  BitVec.ofNat 64 (op * 2 ^ 56 + (if signed then 2 ^ 48 else 0) + 77 * 2 ^ 32 + 1) :: w.map (BitVec.ofNat 64) ++
    List.replicate (6 - w.length) 0 ++ [if signed then 0x8000 else 0]
def cmd (op : Nat) (signed : Bool) (w : List Nat) : Cmd := ⟨0, 0, 3, words op signed w⟩
def given (s : State) (p : Package → Package) (op : Nat) (signed : Bool) (w : List Nat) : State :=
  hosted s p { pkg := 0, n := 0, k := 3, words := words op signed w }

theorem cmdOk (op : Nat) (signed : Bool) (w : List Nat) (s : State) (p : Package → Package)
    (h1 : (words op signed w).length = 8) (h2 : ((given s p op signed w).fn 0 0).room = true)
    (h3 : ((given s p op signed w).fn 0 0).lostSince = 0) (h4 : ((given s p op signed w).fn 0 0).heldDone = [])
    (h5 : ((given s p op signed w).pkg 0).coreLive (opCore (cmd op signed w).op) = true)
    (h6 : (cmd op signed w).headOk = true) (h7 : (given s p op signed w).ownsAsid 0 0 (cmd op signed w).asid = true) :
    CmdOk (given s p op signed w) (cmd op signed w) :=
  ⟨⟨rfl, rfl, rfl, (show 0 < 512 by decide), (show 0 < 256 by decide), (show 3 < 16 by decide), rfl, h1, rfl, h2, h3, h4, h5⟩, h6, h7⟩

/-- Tails at the head and a ring ahead; the next command of queue 3. -/
theorem wit_doorbell : Bar0Up (hosted home id {}) 0 0 ∧
    (∀ v ∈ [1, 17], (BitVec.ofNat 32 v - (((hosted home id {}).fn 0 0).queue 3).head).toNat ≤ 2 ^ (4 + (((hosted home id {}).fn 0 0).queue 3).size)) ∧
    (let w := words 0x03 false [0, 9];
     let s := memAt (hosted home id { flag := true, k := 3 }) (2 ^ 64 + 0x9000 + 64) (w.flatMap (fun x => leBytes 8 x.toNat));
     (s.pkg 0).ready 0 3 = true ∧ w = dwords (Memory.readN s.mem ((s.fn 0 0).queue 3).slot 64) ∧
     s.poisoned ((s.fn 0 0).queue 3).slot 64 = false ∧ (w.getD 0 0).toNat.testBit 48 = false ∧
     (s.pkg 0).coreLive (opCore ((w.getD 0 0).toNat / 2 ^ 56)) = true ∧ pfOnly ((w.getD 0 0).toNat / 2 ^ 56) = false ∧
     (commandStep w).toOption = some .cmdPlatetag) ∧
    (((hosted home id {}).fn 0 0).queue 15).en = false := by
  refine ⟨⟨by decide +kernel, by decide +kernel, rfl, by decide⟩, by decide +kernel, by decide +kernel, rfl⟩

theorem wit_latch : (∀ n ∈ [0, 15], 0x1010 + 0x40 * n < 0x1400) ∧
    ((hosted home (fun p => { p with pstate := 4 }) {}).pkg 0).pstate = 4 ∧
    (let s := hosted home (fun p => { p with waking := true, tails := [(3, 17), (5, 2)] }) {};
     (s.pkg 0).waking = true ∧ (s.pkg 0).pstate ≠ 4 ∧ (s.pkg 0).coreLive 0 = true ∧ (s.pkg 0).writes = [] ∧
     (s.pkg 0).tails = [(3, 17), (5, 2)] ∧ (17 - ((s.fn 0 0).queue 3).head).toNat ≤ 2 ^ (4 + ((s.fn 0 0).queue 3).size)) ∧
    ((hosted home (fun p => { p with waking := true }) {}).pkg 0).tails = [] := by
  refine ⟨by decide, rfl, ⟨rfl, by decide +kernel, by decide +kernel, rfl, rfl, by decide +kernel⟩, rfl⟩

/-- A command whose reserved bits are not 0; one of a function that does not own its context. -/
theorem wit_refused : (let c : Cmd := ⟨0, 0, 3, 0x1000 :: List.replicate 7 0⟩; c.headOk = false) ∧
    (let s := hosted home id { n := 5, k := 3, words := words 0x03 false [0, 0] };
     s.ownsAsid 0 5 1 = false ∧ (cmd 0x03 false [0, 0]).headOk = true) := by decide +kernel

theorem wit_context_commands : CmdOk (given home id 0x03 false [2 ^ 19 - 1, 0xFFFF]) (cmd 0x03 false [2 ^ 19 - 1, 0xFFFF]) ∧
    CmdOk (given home id 0x0C false [0]) (cmd 0x0C false [0]) ∧ CmdOk (given home id 0x06 false [0, 0x1000]) (cmd 0x06 false [0, 0x1000]) ∧
    CmdOk (given home id 0x05 false [0x4000, 0x5000, 255]) (cmd 0x05 false [0x4000, 0x5000, 255]) ∧
    ctxReserved ((given home id 0x05 false [0x4000, 0x5000, 255]).hostBytes 0x4000 128) = true ∧
    (given home id 0x0C false [0]).team 0 = some team1 := by
  refine ⟨cmdOk _ _ _ _ _ ?_ ?_ rfl rfl ?_ ?_ ?_, cmdOk _ _ _ _ _ ?_ ?_ rfl rfl ?_ ?_ ?_, cmdOk _ _ _ _ _ ?_ ?_ rfl rfl ?_ ?_ ?_,
    cmdOk _ _ _ _ _ ?_ ?_ rfl rfl ?_ ?_ ?_, ?_, rfl⟩ <;> decide +kernel

/-- The last entry of the tensor table; a sealed frame; a message to the last byte of tile 31's scratchpad. -/
theorem wit_tensor : ∃ s, s = given (memAt home (2 ^ 64 + 0x4000) (tentry 0x10000 5 0)) id 0x02 false [7, 0x4000] ∧
    CmdOk s (cmd 0x02 false [7, 0x4000]) ∧ s.hostPoisoned 0x4000 64 = false ∧ s.hostBytes 0x4000 64 = tentry 0x10000 5 0 ∧
    (s.ctx (s.edgeDie 0 1) 1).valid = true ∧ 7 < (s.ctx (s.edgeDie 0 1) 1).ttlen ∧ tensorReserved (tentry 0x10000 5 0) = true ∧
    field (dwordAt (tentry 0x10000 5 0) 0x28) 51 40 = 1 ∧ (s.die 0).frisket = [] := by
  refine ⟨_, rfl, cmdOk _ _ _ _ _ ?_ ?_ rfl rfl ?_ ?_ ?_, ?_, ?_, ?_, ?_, ?_, ?_, ?_⟩ <;> decide +kernel
theorem wit_sealed : ∃ s, s = given { home with dies := [(0, { die1 with frames := [(1, ⟨3, 1⟩), (2, ⟨3, 1⟩)] })] } id 0x0B false [0x1FC0, 0x4000, 128] ∧
    CmdOk s (cmd 0x0B false [0x1FC0, 0x4000, 128]) ∧ s.allSealed 0x1FC0 128 = true ∧ s.hostPoisoned 0x4000 128 = false ∧
    (∀ d, (s.die d).frisket = []) := by
  refine ⟨_, rfl, cmdOk _ _ _ _ _ ?_ ?_ rfl rfl ?_ ?_ ?_, ?_, ?_, fun d => ?_⟩
  all_goals first | decide +kernel | (cases d <;> rfl)
theorem wit_active : ∃ s c, c = cmd 0x01 false [0x1004, (tileSpace 31 0x17FFFF).toNat, 3, 4, 5, 6] ∧
    s = given home id 0x01 false [0x1004, (tileSpace 31 0x17FFFF).toNat, 3, 4, 5, 6] ∧ CmdOk s c ∧ c.dw 1 % 4 = 0 ∧ c.dw 7 < 4 ∧
    s.signature c = none ∧ c.w.getD 2 0 = tileSpace 31 0x17FFFF ∧ s.inPartition (s.edgeDie 0 c.asid) c.asid 31 = true := by
  refine ⟨_, _, rfl, rfl, cmdOk _ _ _ _ _ ?_ ?_ rfl rfl ?_ ?_ ?_, ?_, ?_, ?_, ?_, ?_⟩ <;> decide +kernel

/-- A frame of 64 bytes at 0x1000 (R317). -/
def frameDesc : List Byte := leBytes 8 0x1000 ++ leBytes 8 64 ++ leBytes 8 0x8000 ++ leBytes 8 0xA000 ++
  leBytes 8 (3 * 2 ^ 56 + 1) ++ leBytes 8 5 ++ List.replicate 16 0
def secured (l : BitVec 2) : State :=
  given (memAt home (2 ^ 64 + 0x4000) frameDesc) (fun p => { p with sec := l, key := some ([1], [2]) }) 0x04 false [0x4000]
theorem wit_frame_command : ∀ l ∈ [0, 2], (let s := secured l;
    CmdOk s (cmd 0x04 false [0x4000]) ∧ s.hostPoisoned 0x4000 64 = false ∧ s.hostBytes 0x4000 64 = frameDesc ∧
    s.ownsAsid 0 0 (parseFrame frameDesc).asid = true ∧ (s.pkg 0).sec = l) := by
  intro l h
  simp only [List.mem_cons, List.not_mem_nil, or_false] at h
  rcases h with rfl | rfl
  all_goals
    refine ⟨cmdOk _ _ _ _ _ ?_ ?_ rfl rfl ?_ ?_ ?_, ?_, ?_, ?_, ?_⟩ <;> decide +kernel
def framed (key : Option (List Byte × List Byte)) (live : Bool) : State :=
  hosted { home with mem := tables, dies := [(0, { die1 with frames := [(0x201, ⟨1, 1⟩)] })] }
    (fun p => { p with key := key, sec := 2, marker := [⟨0, 3, 7, frameDesc, live⟩] }) { pkg := 0 }
theorem wit_marking : ((framed none true).pkg 0).key = none ∧ ((framed none true).pkg 0).marker = [⟨0, 3, 7, frameDesc, true⟩] ∧
    ((framed (some ([1], [2])) false).pkg 0).marker = [⟨0, 3, 7, frameDesc, false⟩] ∧
    frameOk frameDesc = true ∧
    (framed (some ([1], [2])) true).frameRuns ((framed (some ([1], [2])) true).edgeDie 0 1) 1 (64 / 4096 + 2) 0x1000 64 = some [(.dev 0x201000, 64)] ∧
    (parseFrame frameDesc).src = 0x1000 ∧ (parseFrame frameDesc).len = 64 ∧ (parseFrame frameDesc).asid = 1 ∧
    (framed (some ([1], [2])) true).frameClass [(.dev 0x201000, 64)] = true ∧
    (framed (some ([1], [2])) true).segsPoisoned [(.dev 0x201000, 64)] = false := by
  refine ⟨rfl, rfl, rfl, ?_, ?_, ?_, ?_, ?_, ?_, rfl⟩ <;> decide +kernel

theorem wit_secure : CmdOk (given home id 0x0A false [0x4000, 0x6000]) (cmd 0x0A false [0x4000, 0x6000]) ∧
    CmdOk (given home id 0x0D true [7, 0]) (cmd 0x0D true [7, 0]) ∧ (given home id 0x0D true [7, 0]).coreImage 0 7 0 = some [] ∧
    (∀ d ∈ [0, 2], CmdOk (given home (fun p => { p with debug := BitVec.ofNat 2 d }) 0x08 true [1, d]) (cmd 0x08 true [1, d])) ∧
    CmdOk (given home id 0x08 true [2, 0x4000]) (cmd 0x08 true [2, 0x4000]) ∧
    (given home id 0x08 true [2, 0x4000]).hostPoisoned 0x4000 89 = false := by
  refine ⟨cmdOk _ _ _ _ _ ?_ ?_ rfl rfl ?_ ?_ ?_, cmdOk _ _ _ _ _ ?_ ?_ rfl rfl ?_ ?_ ?_, ?_, fun d h => ?_,
    cmdOk _ _ _ _ _ ?_ ?_ rfl rfl ?_ ?_ ?_, ?_⟩
  all_goals first
    | decide +kernel
    | (simp only [List.mem_cons, List.not_mem_nil, or_false] at h
       rcases h with rfl | rfl
       all_goals
         refine cmdOk _ _ _ _ _ ?_ ?_ rfl rfl ?_ ?_ ?_ <;> decide +kernel)

/-- Nothing is resident; every die has its grants taken away. -/
def vacant : State := { State.reset with clk := 100, fresh := 50, cur := r0 }
theorem vacant_ungranted (p : Package → Package) (op : Nat) (signed : Bool) (w : List Nat) (t : Nat) :
    (given vacant p op signed w).ungranted t = true := rfl
theorem wit_repair : ∀ w ∈ [[1, 3, 15], [2, 2 ^ 19 - 1, 256 * 31 + 63], [3, 3, 5], [4, 143], [5, 511], [6, 2 ^ 50 - 4096]],
    CmdOk (given vacant id 0x07 false w) (cmd 0x07 false w) ∧ (cmd 0x07 false w).zeroFrom 4 = true := by
  intro w h
  simp only [List.mem_cons, List.not_mem_nil, or_false] at h
  rcases h with rfl | rfl | rfl | rfl | rfl | rfl
  all_goals
    refine ⟨cmdOk _ _ _ _ _ ?_ ?_ rfl rfl ?_ ?_ ?_, ?_⟩ <;> decide +kernel
theorem wit_repair_state : (∀ t, (given vacant id 0x07 false [1, 3, 15]).ungranted t = true) ∧
    ((given vacant id 0x07 false [1, 3, 15]).pkg 0).rowSpared.contains 3 = false ∧
    ((given vacant id 0x07 false []).chase 5 31).state ≠ .set ∧ ((given vacant id 0x07 false []).tile 5).spares.length < 32 ∧
    (∀ e ∈ ((given vacant id 0x07 false []).die 3).frames, Config.channelOf e.1 ≠ 5) ∧
    (((given vacant id 0x07 false []).pkg 0).port 143).up = false ∧
    ((given vacant id 0x07 false []).die 5).frames.find 7 = none :=
  ⟨fun t => rfl, rfl, nofun, by decide, nofun, rfl, rfl⟩

theorem wit_power : (∀ w ∈ [[0, 8], [2, 8, 0, 0, 0, 2 ^ 63], [3, 8], [4, 15]],
      CmdOk (given vacant id 0x09 true w) (cmd 0x09 true w)) ∧ (∀ d, (given vacant id 0x09 true [4, 15]).dieUngranted d = true) ∧
    ((given vacant id 0x09 true [4, 15]).pkg 0).waitingCommands = true ∧
    (∃ f : Package → Package, f = (fun p => { p with fns := [(0, { fnUp with queues := [] })] }) ∧
      CmdOk (given vacant f 0x09 true [4, 15]) (cmd 0x09 true [4, 15]) ∧
      ((given vacant f 0x09 true [4, 15]).pkg 0).waitingCommands = false) ∧
    (∀ z ∈ [2, 3], ((ev { vacant with dies := [(3, { Die.reset with pstate := BitVec.ofNat 3 z })] } { die := 3, k := z }).die 3).pstate =
      BitVec.ofNat 3 z) ∧
    ((hosted vacant (fun p => { p with pstate := 4 }) { k := 4 }).pkg 0).pstate = 4 := by
  refine ⟨fun w h => ?_, fun d => ?_, ?_, ⟨_, rfl, cmdOk _ _ _ _ _ ?_ ?_ rfl rfl ?_ ?_ ?_, ?_⟩, ?_, rfl⟩
  · simp only [List.mem_cons, List.not_mem_nil, or_false] at h
    rcases h with rfl | rfl | rfl | rfl
    all_goals
      refine cmdOk _ _ _ _ _ ?_ ?_ rfl rfl ?_ ?_ ?_ <;> decide +kernel
  · exact List.all_eq_true.mpr (fun i _ => rfl)
  all_goals decide +kernel

theorem wit_firmware : (let s := hosted home id { pkg := 0, k := 3, words := [1] };
      s.ev.toDie = none ∧ (s.mailbox 0 3).length < 16 ∧ (s.mailbox 0 11).length < 16 ∧ ((s.pkg 0).core 3).running = true ∧ ((s.pkg 0).core 7).running = true ∧
      (s.pkg 0).role = none ∧ (s.pkg 0).takeover = none) ∧
    (∀ k ∈ [3, 8, 11], let s := (hosted home id { pkg := 0, k := k, flag := true }).setMailbox 0 k [[0x70 * 2 ^ 56, 1, 2]];
      (s.pkg 0).coreLive 3 = true ∧ s.mailbox 0 k = [[0x70 * 2 ^ 56, 1, 2]] ∧ (s.fn 0 0).room = true ∧ (s.fn 0 0).lostSince = 0) ∧
    (let s := ev { sup { anch with hold := some .halt } with pkgs := [(0, pkgUp)] } { pkg := 0, k := 3, toDie := some 0 };
     (s.die 0).sups = [(0, { anch with hold := some .halt })]) ∧
    (let s := hosted home (fun p => { p.modCore 2 (fun c => { c with running := false }) with takeover := some (2, 5) }) { pkg := 0 };
     (s.pkg 0).takeover = some (2, 5) ∧ ((s.pkg 0).core 7).running = true ∧ ((s.pkg 0).core 2).running = false) ∧
    (∀ n ∈ [0, 5], (let s := hosted home (fun p => { p with step := n }) { pkg := 0, flag := true }; (s.pkg 0).failed = false ∧ (s.pkg 0).step = n)) := by
  refine ⟨by decide +kernel, by decide +kernel, rfl, by decide +kernel, by decide +kernel⟩

def flit : Flit := { seq := 9, payload := [1, 2, 3], good := true, check := 5, poison := false, vc := 0 }
def linked (b : List Flit) (r : Nat) (f : Option Flit) : State :=
  hosted home (fun p => { p with ports := [(5, { Port.reset with up := true, expect := 9, buffer := b, replays := r })] })
    { pkg := 0, k := 5, flit := f }
theorem wit_link : (((linked [] 0 (some flit)).pkg 0).port 5).up = true ∧ (linked [] 0 (some flit)).ev.flit = some flit ∧
    flit.seq = (((linked [] 0 (some flit)).pkg 0).port 5).expect ∧ { flit with seq := 8 }.seq < 9 ∧ 9 < { flit with seq := 10 }.seq ∧
    (((linked [flit] 14 none).pkg 0).port 5).buffer ≠ [] ∧ (((linked [flit] 14 none).pkg 0).port 5).replays < 15 := by
  refine ⟨rfl, rfl, rfl, by decide, by decide, nofun, by decide⟩
theorem wit_trip : (let s := hosted home (fun p => { p with amps := 5250, celsius := 110 }) { die := 3 };
      5250 ≤ (s.pkg (3 / 4)).amps ∧ 110 ≤ (s.pkg (3 / 4)).celsius) ∧
    (let s := ev home { die := 3, flag := true, n := 5250, slot := 110 }; s.ev.flag = true ∧ 5250 ≤ s.ev.n ∧ 110 ≤ s.ev.slot) ∧ ((ev home { die := 2047 }).die 2047).resetting = false ∧
    (ev home { die := 2047, flag := true }).ev.flag = true := by decide +kernel
/-! ## Words of the encoding tables -/

/-- Each word alone decodes to the instruction beside it. -/
def decodes (l : List (W32 × Instr)) : Bool :=
  l.all (fun e => match decodeWords e.1 0 with
    | .ok i => decide (i = e.2)
    | .error _ => false)

/-- R113. -/
theorem test_decode_scalar0 : decodes [
    (0x01#6 ++ 5#4 ++ 4#4 ++ 3#4 ++ 0x000#10 ++ 0#4, .add 5 4 3),
    (0x01#6 ++ 5#4 ++ 4#4 ++ 3#4 ++ 0x001#10 ++ 0#4, .sub 5 4 3),
    (0x01#6 ++ 5#4 ++ 4#4 ++ 3#4 ++ 0x002#10 ++ 0#4, .and 5 4 3),
    (0x01#6 ++ 5#4 ++ 4#4 ++ 3#4 ++ 0x003#10 ++ 0#4, .or 5 4 3),
    (0x01#6 ++ 5#4 ++ 4#4 ++ 3#4 ++ 0x004#10 ++ 0#4, .xor 5 4 3),
    (0x01#6 ++ 5#4 ++ 4#4 ++ 3#4 ++ 0x005#10 ++ 0#4, .andn 5 4 3),
    (0x01#6 ++ 5#4 ++ 4#4 ++ 3#4 ++ 0x006#10 ++ 0#4, .shl 5 4 3),
    (0x01#6 ++ 5#4 ++ 4#4 ++ 3#4 ++ 0x007#10 ++ 0#4, .shr 5 4 3),
    (0x01#6 ++ 5#4 ++ 4#4 ++ 3#4 ++ 0x008#10 ++ 0#4, .sar 5 4 3),
    (0x01#6 ++ 5#4 ++ 4#4 ++ 3#4 ++ 0x009#10 ++ 0#4, .min 5 4 3),
    (0x01#6 ++ 5#4 ++ 4#4 ++ 3#4 ++ 0x00A#10 ++ 0#4, .max 5 4 3),
    (0x01#6 ++ 5#4 ++ 4#4 ++ 3#4 ++ 0x00B#10 ++ 0#4, .minu 5 4 3)] = true := by decide +kernel
/-- R113. -/
theorem test_decode_scalar1 : decodes [
    (0x01#6 ++ 5#4 ++ 4#4 ++ 3#4 ++ 0x00C#10 ++ 0#4, .maxu 5 4 3),
    (0x01#6 ++ 5#4 ++ 4#4 ++ 3#4 ++ 0x00D#10 ++ 0#4, .slt 5 4 3),
    (0x01#6 ++ 5#4 ++ 4#4 ++ 3#4 ++ 0x00E#10 ++ 0#4, .sltu 5 4 3),
    (0x01#6 ++ 5#4 ++ 4#4 ++ 3#4 ++ 0x00F#10 ++ 0#4, .seq 5 4 3),
    (0x01#6 ++ 1#4 ++ 2#4 ++ 3#4 ++ 0x010#10 ++ 4#4, .sel 1 2 3 4),
    (0x01#6 ++ 9#4 ++ 10#4 ++ 0#4 ++ 0x011#10 ++ 0#4, .clz 9 10),
    (0x01#6 ++ 9#4 ++ 10#4 ++ 0#4 ++ 0x012#10 ++ 0#4, .ctz 9 10),
    (0x01#6 ++ 9#4 ++ 10#4 ++ 0#4 ++ 0x013#10 ++ 0#4, .popc 9 10),
    (0x01#6 ++ 1#4 ++ 2#4 ++ 3#4 ++ 0x014#10 ++ 4#4, .ext 1 2 3 4),
    (0x01#6 ++ 1#4 ++ 2#4 ++ 3#4 ++ 0x015#10 ++ 4#4, .ins 1 2 3 4),
    (0x01#6 ++ 15#4 ++ 14#4 ++ 13#4 ++ 0x016#10 ++ 15#4, .lea 15 14 13 15),
    (0x01#6 ++ 6#4 ++ 7#4 ++ 8#4 ++ 0x017#10 ++ 0#4, .tad 6 7 8)] = true := by decide +kernel
/-- R113. -/
theorem test_decode_scalar2 : decodes [
    (0x02#6 ++ 5#4 ++ 4#4 ++ 3#4 ++ 0x000#10 ++ 0#4, .mul 5 4 3),
    (0x02#6 ++ 5#4 ++ 4#4 ++ 3#4 ++ 0x001#10 ++ 0#4, .mulh 5 4 3),
    (0x02#6 ++ 5#4 ++ 4#4 ++ 3#4 ++ 0x002#10 ++ 0#4, .mulhu 5 4 3),
    (0x02#6 ++ 5#4 ++ 4#4 ++ 3#4 ++ 0x003#10 ++ 0#4, .div 5 4 3),
    (0x02#6 ++ 5#4 ++ 4#4 ++ 3#4 ++ 0x004#10 ++ 0#4, .divu 5 4 3),
    (0x02#6 ++ 5#4 ++ 4#4 ++ 3#4 ++ 0x005#10 ++ 0#4, .rem 5 4 3),
    (0x02#6 ++ 5#4 ++ 4#4 ++ 3#4 ++ 0x006#10 ++ 0#4, .remu 5 4 3)] = true := by decide +kernel
/-- R105, R112, R114. -/
theorem test_decode_immediate0 : decodes [
    (0x04#6 ++ 1#4 ++ 2#4 ++ 0x3FFFF#18, .addi 1 2 (-1)),
    (0x05#6 ++ 1#4 ++ 2#4 ++ 0x3FFFF#18, .andi 1 2 0x3FFFF),
    (0x06#6 ++ 1#4 ++ 2#4 ++ 0x20000#18, .ori 1 2 0x20000),
    (0x07#6 ++ 1#4 ++ 2#4 ++ 0x00005#18, .xori 1 2 5),
    (0x08#6 ++ 1#4 ++ 2#4 ++ 0x0003F#18, .shli 1 2 63),
    (0x09#6 ++ 1#4 ++ 2#4 ++ 0x00001#18, .shri 1 2 1),
    (0x0A#6 ++ 1#4 ++ 2#4 ++ 0x00020#18, .sari 1 2 32),
    (0x0B#6 ++ 1#4 ++ 2#4 ++ 0x20000#18, .slti 1 2 (-0x20000)),
    (0x0C#6 ++ 7#4 ++ 0#4 ++ 0x20000#18, .li 7 (-0x20000)),
    (0x0D#6 ++ 7#4 ++ 0#4 ++ 0x3FFFF#18, .lih 7 0x3FFFF),
    (0x10#6 ++ 3#4 ++ 4#4 ++ 0x3FFFE#18, .beq 3 4 (-2)),
    (0x11#6 ++ 3#4 ++ 4#4 ++ 0x3FFFE#18, .bne 3 4 (-2))] = true := by decide +kernel
/-- R105, R112, R114. -/
theorem test_decode_immediate1 : decodes [
    (0x12#6 ++ 3#4 ++ 4#4 ++ 0x3FFFE#18, .blt 3 4 (-2)),
    (0x13#6 ++ 3#4 ++ 4#4 ++ 0x3FFFE#18, .bge 3 4 (-2)),
    (0x14#6 ++ 3#4 ++ 4#4 ++ 0x3FFFE#18, .bltu 3 4 (-2)),
    (0x15#6 ++ 3#4 ++ 4#4 ++ 0x3FFFE#18, .bgeu 3 4 (-2)),
    (0x16#6 ++ 3#4 ++ 0#4 ++ 0x00007#18, .beqz 3 7),
    (0x17#6 ++ 3#4 ++ 0#4 ++ 0x20000#18, .bnez 3 (-0x20000)),
    (0x18#6 ++ 15#4 ++ 0x200000#22, .jal 15 (-0x200000)),
    (0x19#6 ++ 15#4 ++ 1#4 ++ 0x3FFFC#18, .jalr 15 1 (-4))] = true := by decide +kernel
/-- R114, R115. -/
theorem test_decode_memory0 : decodes [
    (0x20#6 ++ 7#4 ++ 6#4 ++ 0#2 ++ 0xFFF8#16, .ldb 7 6 .relaxed (-8)),
    (0x21#6 ++ 7#4 ++ 6#4 ++ 1#2 ++ 0xFFF8#16, .ldbu 7 6 .acquire (-8)),
    (0x22#6 ++ 7#4 ++ 6#4 ++ 2#2 ++ 0xFFF8#16, .ldh 7 6 .release (-8)),
    (0x23#6 ++ 7#4 ++ 6#4 ++ 3#2 ++ 0xFFF8#16, .ldhu 7 6 .acqRel (-8)),
    (0x24#6 ++ 7#4 ++ 6#4 ++ 0#2 ++ 0xFFF8#16, .ldw 7 6 .relaxed (-8)),
    (0x25#6 ++ 7#4 ++ 6#4 ++ 1#2 ++ 0xFFF8#16, .ldwu 7 6 .acquire (-8)),
    (0x26#6 ++ 7#4 ++ 6#4 ++ 2#2 ++ 0xFFF8#16, .ldd 7 6 .release (-8)),
    (0x27#6 ++ 7#4 ++ 6#4 ++ 0#2 ++ 0x7FF8#16, .ldc 7 6 0x7FF8),
    (0x28#6 ++ 7#4 ++ 6#4 ++ 3#2 ++ 0x8000#16, .stb 7 6 .acqRel (-0x8000)),
    (0x29#6 ++ 7#4 ++ 6#4 ++ 2#2 ++ 0x8000#16, .sth 7 6 .release (-0x8000)),
    (0x2A#6 ++ 7#4 ++ 6#4 ++ 1#2 ++ 0x8000#16, .stw 7 6 .acquire (-0x8000)),
    (0x2B#6 ++ 7#4 ++ 6#4 ++ 0#2 ++ 0x8000#16, .std 7 6 .relaxed (-0x8000))] = true := by decide +kernel
/-- R114, R115. -/
theorem test_decode_memory1 : decodes [
    (0x2C#6 ++ 1#4 ++ 2#4 ++ 3#4 ++ 0#4 ++ 0#2 ++ 0x0#4 ++ 2#2 ++ 0#2, .aadd 1 2 3 .relaxed .w),
    (0x2C#6 ++ 1#4 ++ 2#4 ++ 3#4 ++ 0#4 ++ 1#2 ++ 0x1#4 ++ 3#2 ++ 0#2, .aand 1 2 3 .acquire .d),
    (0x2C#6 ++ 1#4 ++ 2#4 ++ 3#4 ++ 0#4 ++ 2#2 ++ 0x2#4 ++ 2#2 ++ 0#2, .aor 1 2 3 .release .w),
    (0x2C#6 ++ 1#4 ++ 2#4 ++ 3#4 ++ 0#4 ++ 3#2 ++ 0x3#4 ++ 3#2 ++ 0#2, .axor 1 2 3 .acqRel .d),
    (0x2C#6 ++ 1#4 ++ 2#4 ++ 3#4 ++ 0#4 ++ 0#2 ++ 0x4#4 ++ 2#2 ++ 0#2, .amin 1 2 3 .relaxed .w),
    (0x2C#6 ++ 1#4 ++ 2#4 ++ 3#4 ++ 0#4 ++ 1#2 ++ 0x5#4 ++ 3#2 ++ 0#2, .amax 1 2 3 .acquire .d),
    (0x2C#6 ++ 1#4 ++ 2#4 ++ 3#4 ++ 0#4 ++ 2#2 ++ 0x6#4 ++ 2#2 ++ 0#2, .aminu 1 2 3 .release .w),
    (0x2C#6 ++ 1#4 ++ 2#4 ++ 3#4 ++ 0#4 ++ 3#2 ++ 0x7#4 ++ 3#2 ++ 0#2, .amaxu 1 2 3 .acqRel .d),
    (0x2C#6 ++ 1#4 ++ 2#4 ++ 3#4 ++ 0#4 ++ 0#2 ++ 0x8#4 ++ 2#2 ++ 0#2, .aswp 1 2 3 .relaxed .w),
    (0x2C#6 ++ 1#4 ++ 2#4 ++ 3#4 ++ 4#4 ++ 3#2 ++ 0x9#4 ++ 3#2 ++ 0#2, .acas 1 2 3 4 .acqRel .d),
    (0x2C#6 ++ 1#4 ++ 2#4 ++ 3#4 ++ 0#4 ++ 0#2 ++ 0xA#4 ++ 1#2 ++ 0#2, .aaddf 1 2 3 .relaxed .bf),
    (0x2C#6 ++ 1#4 ++ 2#4 ++ 3#4 ++ 0#4 ++ 1#2 ++ 0xA#4 ++ 2#2 ++ 0#2, .aaddf 1 2 3 .acquire .f)] = true := by decide +kernel
/-- R114, R115. -/
theorem test_decode_memory2 : decodes [
    (0x2C#6 ++ 0#4 ++ 2#4 ++ 3#4 ++ 0#4 ++ 2#2 ++ 0xB#4 ++ 2#2 ++ 0#2, .radd 2 3 .release .w)] = true := by decide +kernel
/-- R107, R117, R167 (whose printed words these are). -/
theorem test_decode_coordination0 : decodes [
    (0xC0000000, .fenceL),
    (0xC0000010, .fenceH),
    (0xC0000020, .bart),
    (0xC1580030, .barw 5 6 .row),
    (0xC011C042, .waitv 4 7 .w),
    (0xC0C80050, .waitx 3 2),
    (0xC0240060, .yield 9),
    (0xC4100001, .qsnd 4 1),
    (0xC5400012, .qrcv 5 2),
    (0xC5580020, .qtry 5 6 0),
    (0xC5C00033, .qcnt 7 3),
    (0xC8114000, .fork 4 5)] = true := by decide +kernel
/-- R107, R117, R167 (whose printed words these are). -/
theorem test_decode_coordination1 : decodes [
    (0xC8000010, .join),
    (0xC8000020, .exit),
    (0xC80C0030, .go 3),
    (0xC8000040, .home),
    (0xC8080050, .prio 2),
    (0xC9000063, .id 4 .tile),
    (0xCC180002, .launch 6 2),
    (0xCC200011, .next 8 1),
    (0xCC0D0025, .estat 3 4 5),
    (0xCC0C003E, .cancel 3 true 6),
    (0xD1580000, .watch 5 6),
    (0xD0140010, .unwatch 5)] = true := by decide +kernel
/-- R107, R117, R167 (whose printed words these are). -/
theorem test_decode_coordination2 : decodes [
    (0xD1D40020, .wqry 7 5),
    (0xD400800A, .trap 0x2A),
    (0xD4000011, .brk 1),
    (0xD4000020, .halt),
    (0xD8C00002, .srd 3 2),
    (0xDC100001, .swr 4 1),
    (0x36#6 ++ 3#4 ++ 0#4 ++ 0x00104#18, .srdSysFhead 3),
    (0x37#6 ++ 0#4 ++ 4#4 ++ 0x00105#18, .swrSysFtail 4),
    (0x37#6 ++ 0#4 ++ 4#4 ++ 0x00109#18, .swrSysCtxload 4),
    (0xFC000000, .nop),
    (0x3F#6 ++ 2#4 ++ 0x0000A5#22, .wait 0xA5),
    (0x3F#6 ++ 3#4 ++ 5#4 ++ 2#2 ++ 0xFFF0#16, .pref 5 .far 0xFFF0)] = true := by decide +kernel
/-- R107, R117, R167 (whose printed words these are). -/
theorem test_decode_coordination3 : decodes [
    (0x3F#6 ++ 4#4 ++ 0x000001#22, .likely),
    (0x3F#6 ++ 4#4 ++ 0x000000#22, .unlikely)] = true := by decide +kernel
/-- R118, R119, and printed words of 08. -/
theorem test_decode_vector0 : decodes [
    (0xE8640160, .vld 3 4 1 .bf),
    (0xE9230001, .vst 9 3 0 .b),
    (0x3A#6 ++ 31#5 ++ 15#5 ++ 14#5 ++ 7#3 ++ 7#3 ++ 0x02#5, .vlds 31 15 14 7 .fz),
    (0x3A#6 ++ 31#5 ++ 15#5 ++ 14#5 ++ 7#3 ++ 6#3 ++ 0x03#5, .vsts 31 15 14 7 .bfz),
    (0xE8823944, .vgth 4 2 7 1 .w),
    (0x3A#6 ++ 4#5 ++ 2#5 ++ 31#5 ++ 1#3 ++ 1#3 ++ 0x05#5, .vsct 4 2 31 1 .h),
    (0xE8012006, .vldt 0 1 4 0 .b),
    (0xE8C60087, .vxch 6 6 0 .f),
    (0x3A#6 ++ 17#5 ++ 9#5 ++ 0#5 ++ 2#3 ++ 5#3 ++ 0x08#5, .vbcst 17 9 2 .f8),
    (0x3A#6 ++ 17#5 ++ 30#5 ++ 0#5 ++ 2#3 ++ 7#3 ++ 0x09#5, .vmov 17 30 2 .fz),
    (0x3B#6 ++ 1#5 ++ 2#5 ++ 3#5 ++ 4#3 ++ 7#3 ++ 0x00#5, .vadd 1 2 3 4 .fz),
    (0x3B#6 ++ 1#5 ++ 2#5 ++ 3#5 ++ 4#3 ++ 6#3 ++ 0x01#5, .vsub 1 2 3 4 .bfz)] = true := by decide +kernel
/-- R118, R119, and printed words of 08. -/
theorem test_decode_vector1 : decodes [
    (0x3B#6 ++ 1#5 ++ 2#5 ++ 3#5 ++ 4#3 ++ 4#3 ++ 0x02#5, .vmul 1 2 3 4 .f),
    (0x3B#6 ++ 1#5 ++ 2#5 ++ 3#5 ++ 4#3 ++ 2#3 ++ 0x03#5, .vmac 1 2 3 4 .w),
    (0x3B#6 ++ 1#5 ++ 2#5 ++ 3#5 ++ 4#3 ++ 3#3 ++ 0x04#5, .vfma 1 2 3 4 .bf),
    (0x3B#6 ++ 1#5 ++ 2#5 ++ 3#5 ++ 4#3 ++ 5#3 ++ 0x05#5, .vmin 1 2 3 4 .f8),
    (0x3B#6 ++ 1#5 ++ 2#5 ++ 3#5 ++ 4#3 ++ 0#3 ++ 0x06#5, .vmax 1 2 3 4 .b),
    (0x3B#6 ++ 1#5 ++ 2#5 ++ 0#5 ++ 4#3 ++ 5#3 ++ 0x07#5, .vabs 1 2 4 .f8),
    (0x3B#6 ++ 1#5 ++ 2#5 ++ 0#5 ++ 4#3 ++ 1#3 ++ 0x08#5, .vneg 1 2 4 .h),
    (0x3B#6 ++ 1#5 ++ 2#5 ++ 3#5 ++ 4#3 ++ 0#3 ++ 0x09#5, .vshl 1 2 3 4 .b),
    (0x3B#6 ++ 1#5 ++ 2#5 ++ 3#5 ++ 4#3 ++ 1#3 ++ 0x0A#5, .vshr 1 2 3 4 .h),
    (0x3B#6 ++ 1#5 ++ 2#5 ++ 3#5 ++ 4#3 ++ 2#3 ++ 0x0B#5, .vsar 1 2 3 4 .w),
    (0x3B#6 ++ 1#5 ++ 2#5 ++ 3#5 ++ 4#3 ++ 0#3 ++ 0x0C#5, .vand 1 2 3 4 .b),
    (0x3B#6 ++ 1#5 ++ 2#5 ++ 3#5 ++ 4#3 ++ 1#3 ++ 0x0D#5, .vor 1 2 3 4 .h)] = true := by decide +kernel
/-- R118, R119, and printed words of 08. -/
theorem test_decode_vector2 : decodes [
    (0x3B#6 ++ 1#5 ++ 2#5 ++ 3#5 ++ 4#3 ++ 2#3 ++ 0x0E#5, .vxor 1 2 3 4 .w),
    (0x3B#6 ++ 1#5 ++ 2#5 ++ 3#5 ++ 4#3 ++ 5#3 ++ 0x0F#5, .vsel 1 2 3 4 .f8)] = true := by decide +kernel
/-- R118 to R121, and printed words of 08. -/
theorem test_decode_convert0 : decodes [
    (0x3B#6 ++ 0#2 ++ 3#3 ++ 2#5 ++ 1#5 ++ 4#3 ++ 5#3 ++ 0x10#5, .vcmpEq 3 2 1 4 .f8),
    (0x3B#6 ++ 0#2 ++ 3#3 ++ 2#5 ++ 1#5 ++ 4#3 ++ 4#3 ++ 0x11#5, .vcmpNe 3 2 1 4 .f),
    (0x3B#6 ++ 0#2 ++ 3#3 ++ 2#5 ++ 1#5 ++ 4#3 ++ 3#3 ++ 0x12#5, .vcmpLt 3 2 1 4 .bf),
    (0x3B#6 ++ 0#2 ++ 3#3 ++ 2#5 ++ 1#5 ++ 4#3 ++ 0#3 ++ 0x13#5, .vcmpLe 3 2 1 4 .b),
    (0x3B#6 ++ 0#2 ++ 3#3 ++ 2#5 ++ 1#5 ++ 4#3 ++ 1#3 ++ 0x14#5, .vcmpLtu 3 2 1 4 .h),
    (0x3B#6 ++ 0#2 ++ 3#3 ++ 2#5 ++ 1#5 ++ 4#3 ++ 2#3 ++ 0x15#5, .vcmpLeu 3 2 1 4 .w),
    (0x3B#6 ++ 1#5 ++ 2#5 ++ 0#5 ++ 4#3 ++ 7#3 ++ 0x16#5, .vrsum 1 2 4 .fz),
    (0x3B#6 ++ 1#5 ++ 2#5 ++ 0#5 ++ 4#3 ++ 5#3 ++ 0x17#5, .vrmax 1 2 4 .f8),
    (0x3B#6 ++ 1#5 ++ 2#5 ++ 0#5 ++ 4#3 ++ 0#3 ++ 0x18#5, .vrmin 1 2 4 .b),
    (0xF0A7A880, .vcvt 5 7 true false .f 0 .bf),
    (0x3C#6 ++ 5#5 ++ 7#5 ++ 0b01#2 ++ 0#3 ++ 2#3 ++ 3#3 ++ 0#5, .vcvt 5 7 false true .i8 2 .f8),
    (0xF1024801, .vqnt 8 2 9 0 .i8)] = true := by decide +kernel
/-- R118 to R121, and printed words of 08. -/
theorem test_decode_convert1 : decodes [
    (0x3C#6 ++ 8#5 ++ 2#5 ++ 9#5 ++ 0#3 ++ 5#3 ++ 0x02#5, .vdq 8 2 9 0 .f),
    (0x3C#6 ++ 1#5 ++ 2#5 ++ 0#5 ++ 4#3 ++ 3#3 ++ 0x03#5, .vexp2 1 2 4 .bf),
    (0x3C#6 ++ 1#5 ++ 2#5 ++ 0#5 ++ 4#3 ++ 7#3 ++ 0x04#5, .vrcp 1 2 4 .fz),
    (0x3C#6 ++ 1#5 ++ 2#5 ++ 0#5 ++ 4#3 ++ 6#3 ++ 0x05#5, .vrsq 1 2 4 .bfz),
    (0x3C#6 ++ 1#5 ++ 2#5 ++ 0#5 ++ 4#3 ++ 0#3 ++ 0x06#5, .vtunp 1 2 4),
    (0x3C#6 ++ 1#5 ++ 2#5 ++ 0#5 ++ 4#3 ++ 0#3 ++ 0x07#5, .vtpk 1 2 4),
    (0x3C#6 ++ 1#5 ++ 2#5 ++ 3#5 ++ 4#3 ++ 2#3 ++ 0x08#5, .vperm 1 2 3 4 .w),
    (0x3C#6 ++ 1#5 ++ 2#5 ++ 15#5 ++ 4#3 ++ 1#3 ++ 0x09#5, .vslid 1 2 15 4 .h),
    (0x3C#6 ++ 1#5 ++ 2#5 ++ 3#5 ++ 0#3 ++ 0#3 ++ 0x10#5, .pand 1 2 3),
    (0x3C#6 ++ 7#5 ++ 6#5 ++ 5#5 ++ 0#3 ++ 0#3 ++ 0x11#5, .por 7 6 5),
    (0x3C#6 ++ 7#5 ++ 6#5 ++ 0#5 ++ 0#3 ++ 0#3 ++ 0x12#5, .pnot 7 6),
    (0x3C#6 ++ 15#5 ++ 6#5 ++ 0#5 ++ 0#3 ++ 2#3 ++ 0x13#5, .pcnt 15 6 .w)] = true := by decide +kernel
/-- R118 to R121, and printed words of 08. -/
theorem test_decode_convert2 : decodes [
    (0xF0230054, .pset 1 3 .w),
    (0xF40430A0, .dmm 0 4 3 .f8),
    (0xF4001101, .dmmb 0 0 1 1 .b),
    (0x3D#6 ++ 7#5 ++ 0#5 ++ 0#5 ++ 0#3 ++ 0#3 ++ 0x02#5, .aclr 7),
    (0xF4231043, .acrd 1 3 2 .w),
    (0x3D#6 ++ 7#5 ++ 31#5 ++ 2#5 ++ 0#3 ++ 4#3 ++ 0x04#5, .acwr 7 31 2 .f)] = true := by decide +kernel
/-- R122, R245. -/
theorem test_decode_engine0 : decodes [
    (0x38#6 ++ 3#3 ++ 0x81#8 ++ 1#4 ++ 2#4 ++ 3#4 ++ 0#3, .cpy 3 0x81 1 2 3),
    (0x38#6 ++ 3#3 ++ 0x81#8 ++ 1#4 ++ 2#4 ++ 0#4 ++ 1#3, .cpyr 3 0x81 1 2),
    (0x38#6 ++ 3#3 ++ 0x81#8 ++ 1#4 ++ 2#4 ++ 3#4 ++ 2#3, .cpyg 3 0x81 1 2 3),
    (0x38#6 ++ 3#3 ++ 0x81#8 ++ 1#4 ++ 2#4 ++ 3#4 ++ 3#3, .cfil 3 0x81 1 2 3),
    (0x38#6 ++ 3#3 ++ 0x81#8 ++ 1#4 ++ 2#4 ++ 3#4 ++ 4#3, .cast 3 0x81 1 2 3),
    (0x38#6 ++ 3#3 ++ 0x81#8 ++ 1#4 ++ 2#4 ++ 3#4 ++ 5#3, .cqnt 3 0x81 1 2 3),
    (0x39#6 ++ 7#3 ++ 0x40#8 ++ 15#4 ++ 14#4 ++ 0#4 ++ 0#3, .fset 7 0x40 15 14),
    (0x39#6 ++ 7#3 ++ 0x40#8 ++ 15#4 ++ 14#4 ++ 13#4 ++ 1#3, .fmap 7 0x40 15 14 13),
    (0x39#6 ++ 3#3 ++ 0x81#8 ++ 1#4 ++ 2#4 ++ 3#4 ++ 2#3, .fmm 3 0x81 1 2 3),
    (0x39#6 ++ 3#3 ++ 0x81#8 ++ 1#4 ++ 2#4 ++ 3#4 ++ 3#3, .fmmt 3 0x81 1 2 3),
    (0x39#6 ++ 3#3 ++ 0x81#8 ++ 1#4 ++ 2#4 ++ 0#4 ++ 4#3, .fscl 3 0x81 1 2),
    (0x39#6 ++ 3#3 ++ 0x81#8 ++ 1#4 ++ 0#4 ++ 0#4 ++ 5#3, .fclr 3 0x81 1)] = true := by decide +kernel
/-- R122, R245. -/
theorem test_decode_engine1 : decodes [
    (0x39#6 ++ 3#3 ++ 0x81#8 ++ 1#4 ++ 2#4 ++ 0#4 ++ 6#3, .fprb 3 0x81 1 2)] = true := by decide +kernel
/-- Words that are no instruction, with the causes of R123. -/
def refuses (l : List (W32 × UndefCause)) : Bool :=
  l.all (fun e => match decodeWords e.1 0 with
    | .ok _ => false
    | .error c => decide (c = e.2))
theorem test_decode_refused : refuses [
    (0, .zeroWord), (0x03#6 ++ 0#26, .unassigned), (0x3E#6 ++ 1#26, .unassigned),
    (0x01#6 ++ 5#4 ++ 4#4 ++ 3#4 ++ 0x018#10 ++ 0#4, .unassigned), (0x38#6 ++ 0#23 ++ 6#3, .unassigned),
    (0x3F#6 ++ 5#4 ++ 0#22, .unassigned), (0x01#6 ++ 5#4 ++ 4#4 ++ 3#4 ++ 0#10 ++ 1#4, .reservedField),
    (0x16#6 ++ 3#4 ++ 1#4 ++ 7#18, .reservedField), (0x0C#6 ++ 3#4 ++ 1#4 ++ 7#18, .reservedField), (0x3C#6 ++ 0#5 ++ 2#5 ++ 3#5 ++ 0#3 ++ 0#3 ++ 0x10#5, .reservedField),
    (0x31#6 ++ 5#4 ++ 5#4 ++ 0#4 ++ 2#10 ++ 0#4, .reservedField),
    (0x3B#6 ++ 1#5 ++ 2#5 ++ 3#5 ++ 4#3 ++ 5#3 ++ 0#5, .operandType)] = true := by decide +kernel

/-! ## Ill-formed terms, one for each check -/

theorem test_ill_formed_scalar : ([.qtry 5 5 0, .srd 3 0x104, .srd 3 4, .srd 3 0xFF, .swr 4 0x105, .swr 4 0x109, .swr 4 4,
    .swr 4 0xFF] : List Instr).all (fun i => !i.wf) = true := by decide +kernel
theorem test_ill_formed_vector : ([.vldt 0 1 4 0 .fz, .vbcst 0 1 0 .bfz, .vadd 1 2 3 4 .f8, .vsub 1 2 3 4 .f8, .vmul 1 2 3 4 .f8,
    .vmac 1 2 3 4 .bf, .vfma 1 2 3 4 .w, .vmin 1 2 3 4 .fz, .vmax 1 2 3 4 .bfz, .vabs 1 2 4 .fz, .vneg 1 2 4 .bfz,
    .vshl 1 2 3 4 .f, .vshr 1 2 3 4 .f8, .vsar 1 2 3 4 .bf, .vand 1 2 3 4 .f, .vor 1 2 3 4 .f8, .vxor 1 2 3 4 .fz,
    .vsel 1 2 3 4 .fz, .vcmpEq 0 1 2 0 .b, .vcmpNe 1 1 2 0 .fz, .vcmpLt 0 1 2 0 .f, .vcmpLe 1 1 2 0 .bfz, .vcmpLtu 1 1 2 0 .f,
    .vcmpLeu 0 1 2 0 .b, .vrsum 1 2 4 .f8, .vrmax 1 2 4 .fz, .vrmin 1 2 4 .bfz] : List Instr).all (fun i => !i.wf) = true := by
  decide +kernel
theorem test_ill_formed_convert : ([.vcvt 1 2 false false .bf 0 .bf, .vcvt 1 2 false false .i8 0 .mx8, .vcvt 1 2 false false .mx8 0 .w,
    .vcvt 1 2 true false .i8 0 .w, .vcvt 1 2 false true .bf 0 .f, .vqnt 1 2 9 0 .bf, .vdq 1 2 9 0 .i8, .vexp2 1 2 4 .b,
    .vrcp 1 2 4 .f8, .vrsq 1 2 4 .w, .vperm 1 2 3 4 .f8, .vslid 1 2 3 4 .bf, .pand 0 1 2, .por 0 1 2, .pnot 0 1,
    .pcnt 1 2 .f, .pset 0 1 .b, .pset 1 1 .bf, .dmm 0 4 3 .h, .dmmb 0 4 3 1 .bf, .acrd 1 3 2 .b, .acwr 1 3 2 .bf] :
    List Instr).all (fun i => !i.wf) = true := by decide +kernel

/-! ## Single instructions, with the values that the spec works out -/

/-- Register d of the strand in slot 0 of tile 0 after the instruction, with registers 1, 2, 3 given. -/
def after (i : Instr) (a b c : W64) (d : GReg) : Option W64 :=
  match exec i (one (regs3 anch a b c) 0) with
  | .next t => (t.strand (.tile 0 0)).map (fun st => st.rd d)
  | _ => none
/-- The PC after it. -/
def pcAfter (i : Instr) (a b : W64) : Option W64 :=
  match exec i (one (regs3 anch a b 0) 0) with
  | .next t => (t.strand (.tile 0 0)).map (·.pc)
  | _ => none
/-- The team after it, its registers given. -/
def teamAfter (i : Instr) (m : Team) : Option Team :=
  match exec i (mach { tile1 anch 0 with team := some m } 0) with
  | .next t => t.team 0
  | _ => none
abbrev spelled (l : List Nat) : VWord := BitVec.ofNat 1024 (l.foldr (fun x n => x + 256 * n) 0)

/-- R144: the example of EXT and INS at position 60 with width 8. -/
theorem test_ext_example : after (.ext 4 1 2 3) 0xFFFF0000000000AB 60 8 4 = some 0xF := by decide +kernel
theorem test_ins_example : after (.ins 4 1 2 3) 0xFFFF0000000000AB 60 8 4 = some 0xB000000000000000 := by decide +kernel
/-- R146: −7 DIV 2 is −3 and −7 REM 2 is −1; the overflow case; division by zero. -/
theorem test_div : after (.div 4 1 2) (-7) 2 0 4 = some (-3) ∧ after (.div 4 1 2) (2 ^ 63) (-1) 0 4 = some (2 ^ 63) ∧
    after (.div 4 1 2) 5 0 0 4 = some (-1) := by decide +kernel
theorem test_rem : after (.rem 4 1 2) (-7) 2 0 4 = some (-1) ∧ after (.rem 4 1 2) (2 ^ 63) (-1) 0 4 = some 0 ∧
    after (.rem 4 1 2) 5 0 0 4 = some 5 := by decide +kernel
/-- R147: the high half of the constant 0xE00000A34D6C0100. -/
theorem test_lih_example : after (.lih 1 0xE00000A3) 0x4D6C0100 0 0 1 = some 0xE00000A34D6C0100 := by decide +kernel
/-- R140: ADD g3, g3, g3 doubles g3; sums are modulo 2^64. -/
theorem test_add : after (.add 3 3 3) 0 0 21 3 = some 42 ∧ after (.add 4 1 2) (-1) 1 0 4 = some 0 := by decide +kernel
/-- R142: only the low six bits of a shift count. -/
theorem test_shift : after (.shl 4 1 2) 3 65 0 4 = some 6 ∧ after (.sar 4 1 2) (-8) 1 0 4 = some (-4) := by decide +kernel
/-- R148, R149: the strand stands at 0x1000. -/
theorem test_branch : pcAfter (.blt 1 2 (-1)) (-1) 0 = some 0xFFC ∧ pcAfter (.bltu 1 2 (-1)) (-1) 0 = some 0x1004 := by
  decide +kernel
theorem test_jal : pcAfter (.jal 15 4) 0 0 = some 0x1010 ∧ after (.jal 15 4) 0 0 0 15 = some 0x1004 := by decide +kernel
/-- R217: the example of VNEG.f8, and of VFMA.f (−2^−46 exactly). -/
theorem test_vneg_f8 : (teamAfter (.vneg 1 2 0 .f8) { team1 with v := team1.v.set 2 (spelled [0x38, 0, 0x80, 0x7F]) }).map
    (fun m => (List.range 4).map (fun j => lane (m.vr 1) 8 j)) = some [0xB8, 0, 1, 0xFF] := by decide +kernel
theorem test_vfma_example : (teamAfter (.vfma 1 2 3 0 .f) { team1 with
    v := ((team1.v.set 2 0x3F800001).set 3 0x3F7FFFFE).set 1 0xBF800000 }).map (fun m => lane (m.vr 1) 32 0) =
      some 0xA8800000 := by decide +kernel
/-- R235: PSET.b with 37 makes lanes 0 to 36 active. -/
theorem test_pset_count : (match exec (.pset 1 1 .b) (one (regs3 anch 37 0 0) 0) with
    | .next t => (t.team 0).map (fun m => m.pred 1)
    | _ => none) = some (2 ^ 37 - 1) := by decide +kernel
/-- R241: A[0][k] = k + 1 and B[k][0] = ±1 take an element that holds 10 to 6. -/
theorem test_dmm_example : (teamAfter (.dmm 0 2 2 .b) { team1 with
    ac := team1.ac
    v := (team1.v.set 2 (BitVec.ofNat 1024 ((List.range 8).map (fun k => (k + 1) * 256 ^ (16 * k))).sum)).set 4
      (BitVec.ofNat 1024 ((List.range 8).map (fun k => (if k % 2 = 0 then 1 else 255) * 256 ^ (16 * k))).sum) }).bind
    (fun m => (teamAfter (.acrd 1 0 0 .w) m).map (fun m => lane (m.vr 1) 32 0)) = some (2 ^ 32 - 4) := by decide +kernel

/-! ## The machine as a whole: hypotheses that hold somewhere -/

/-- ADD g5, g4, g3 placed where the next step fetches it. -/
abbrev placed : State := State.reset.withFetchWord 32 0x0550C000
theorem wit_step : placed.agenda = .issue (.tile 0 0) :: [] ∧
    (let s0 : State := { placed with agenda := [] };
     match s0.strand (.tile 0 0) with
     | none => false
     | some st => s0.canIssue (.tile 0 0) st && (match s0.fetchAt (.tile 0 0) st with
       | .instr s1 i _ => decide (i = .add 5 4 3) && decide (s1.operandsAt (.tile 0 0) st i ≤ s1.clk)
       | _ => false)) = true := by decide +kernel
/-- An IMX and LI at the end of a page that is mapped, no write noted there; a wake event whose turn it is. -/
theorem wit_fetch : (placed.strand (.tile 0 0)).map (fun st => (st.pc, st.asid)) = some (0x10000000, 1) ∧
    (∃ e : TlbEnt, e = ⟨1, 0x10000000, 4096, fetchLeaf, true⟩ ∧ tlbFind (placed.tile 0).tlb 1 0x10000000 = some e ∧
      placed.migrating [(.dev 0x100000, 4)] = false ∧ placed.migrating [(.dev 0x100004, 4)] = false ∧
      tlbFind (placed.tile 0).tlb 1 0x10000004 = some e ∧ pteX e.leaf = true ∧ pteHost e.leaf = false ∧
      ptePa e.leaf + (0x10000000 - e.va) = 0x100000) ∧ placed.poison = [] ∧ placed.hist = [] ∧
    isImx (BitVec.ofNat 32 (bytesAt placed 0x100000 4)) = false ∧
    decodeWords (BitVec.ofNat 32 (bytesAt placed 0x100000 4)) 0 = .ok (.add 5 4 3) := by
  refine ⟨by decide +kernel, ⟨_, rfl, ?_, ?_, ?_, ?_, ?_, ?_, ?_⟩, rfl, rfl, by decide +kernel, by decide +kernel⟩ <;> decide +kernel
theorem wit_imx : isImx (0x3F#6 ++ 1#4 ++ 1#22) = true ∧
    decodeWords (0x3F#6 ++ 1#4 ++ 1#22) (0x0C#6 ++ 2#4 ++ 0#4 ++ 0#18) = .ok (.li 2 0x40000) := by decide +kernel
theorem wit_turn : ({ one anch 0 with agenda := [.happen .wakeEvent { k := 1 }] } : State).agenda = .happen .wakeEvent { k := 1 } :: [] ∧
    Instr.wakeEvent.isEvent = true := ⟨rfl, rfl⟩
theorem wit_encode : (Instr.ldd 7 6 .acquire (-8)).wf = true ∧ (Instr.ldd 7 6 .acquire (-8)).isEvent = false := by decide +kernel
theorem wit_invariant : Claims.Inv State.reset ∧ (match step State.reset with
    | .next _ => true
    | _ => false) = true := by
  unfold Claims.Inv; decide +kernel

/-- R363: tile 0.1.1.1 at window offset 5 through BAR2; an access that crosses a window. -/
theorem test_bar2 : bar2At 0 0 (0x1_0000_0000 + 17 * 0x1000000 + 5) 8 = some (256 + 17, 5) ∧
    bar2At 0 0 0xFFFFFC 8 = none := by decide +kernel
/-- R365: function number, ring registers, qhead; an unlisted offset. -/
theorem test_bar0 : ({ Fn.reset with even := true, evsize := 3 }.read 2 0x10, Fn.reset.read 2 0x00,
    Fn.reset.read 2 0x1010, Fn.reset.read 2 0x40) = (0x13, 2, 0, 0) := by decide +kernel

/-- The word that withFetchWord places is the instruction that the next step runs. -/
theorem test_fetch_word : (match step placed with
    | .next t => (t.strand (.tile 0 0)).map (fun st => (st.pc, st.rd 5))
    | _ => none) = some (0x10000004, 0) := by decide +kernel

end Sys2Proof.Tests
end

section
/-! SUPPORT. What a program can see (registers, teams, bytes of memory, special-purpose registers) and the operations that
change none of it; what a retirement, a hold and a fault change. -/
namespace Sys2Proof.Machine

/-! ## States that a program cannot tell apart -/

/-- The registers of `State.SameSpecial` that a die has. -/
def Die.SameSpecial (x y : Die) : Prop :=
  y.ctxtab = x.ctxtab ∧ y.tiletab = x.tiletab ∧ y.fring = x.fring ∧ y.fhead = x.fhead ∧ y.ftail = x.ftail ∧
    y.svasid = x.svasid ∧ y.pstate = x.pstate ∧ y.ctxs = x.ctxs ∧ y.grants = x.grants ∧ y.frisket = x.frisket

theorem Die.SameSpecial.refl (x : Die) : x.SameSpecial x := ⟨rfl, rfl, rfl, rfl, rfl, rfl, rfl, rfl, rfl, rfl⟩

theorem State.sameSpecial_iff (s t : State) :
    s.SameSpecial t ↔ (∀ d, (s.die d).SameSpecial (t.die d)) ∧ ∀ p, t.pkg p = s.pkg p := Iff.rfl

/-- Every strand, team, byte and special-purpose register is as before, and the same strand executes. -/
structure State.SameView (s t : State) : Prop where
  cur : t.cur = s.cur
  strand : ∀ q, t.strand q = s.strand q
  team : ∀ u, t.team u = s.team u
  bytes : s.SameBytes t
  special : s.SameSpecial t

theorem State.SameSpecial.of_die_pkg {s t : State} (hd : ∀ d, t.die d = s.die d) (hp : ∀ p, t.pkg p = s.pkg p) :
    s.SameSpecial t :=
  (State.sameSpecial_iff s t).2 ⟨fun d => by rw [hd]; exact Die.SameSpecial.refl _, hp⟩

theorem State.SameSpecial.trans {s t u : State} (h : s.SameSpecial t) (k : t.SameSpecial u) : s.SameSpecial u := by
  obtain ⟨hd, hp⟩ := h
  obtain ⟨kd, kp⟩ := k
  exact ⟨fun d => by simp only [kd d, hd d, and_self], fun p => (kp p).trans (hp p)⟩

theorem State.SameView.refl (s : State) : s.SameView s :=
  ⟨rfl, fun _ => rfl, fun _ => rfl, fun _ => rfl, .of_die_pkg (fun _ => rfl) (fun _ => rfl)⟩

theorem State.SameView.trans {s t u : State} (h : s.SameView t) (k : t.SameView u) : s.SameView u where
  cur := k.cur.trans h.cur
  strand q := (k.strand q).trans (h.strand q)
  team v := (k.team v).trans (h.team v)
  bytes a := (k.bytes a).trans (h.bytes a)
  special := h.special.trans k.special

/-- A loop whose every pass leaves the view unchanged leaves it unchanged. -/
theorem State.SameView.foldl {α : Type} {f : State → α → State} {s u : State} (h : s.SameView u)
    (hf : ∀ (s : State) x, s.SameView (f s x)) (l : List α) : s.SameView (l.foldl f u) := by
  induction l generalizing u with
  | nil => exact h
  | cons x l ih => exact ih (h.trans (hf u x))

/-! ## Operations that no program sees -/

@[simp] theorem State.agenda_post (s : State) (e : Instr) (x : EvArg) :
    (s.post e x).agenda = s.agenda ++ [.happen e x] := rfl

section
variable {s u : State} (h : s.SameView u)
include h

theorem State.SameView.post (e : Instr) (x : EvArg) : s.SameView (u.post e x) :=
  h.trans ⟨rfl, State.strand_post u e x, fun _ => rfl, fun _ => rfl, .of_die_pkg (fun _ => rfl) (fun _ => rfl)⟩

theorem State.SameView.fresh (n : Nat) : s.SameView { u with fresh := n } :=
  h.trans ⟨rfl, fun q => by cases q <;> rfl, fun _ => rfl, fun _ => rfl, .of_die_pkg (fun _ => rfl) (fun _ => rfl)⟩

theorem State.SameView.free (n : Nat) : s.SameView { u with free := n } :=
  h.trans ⟨rfl, fun q => by cases q <;> rfl, fun _ => rfl, fun _ => rfl, .of_die_pkg (fun _ => rfl) (fun _ => rfl)⟩

/-- A change of a tile beside its strands and its team is not seen. -/
theorem State.SameView.modTile {t : Nat} {f : Tile → Tile} (hs : (f (u.tile t)).strands = (u.tile t).strands)
    (hm : (f (u.tile t)).team = (u.tile t).team) : s.SameView (u.modTile t f) :=
  h.trans ⟨rfl, State.strand_modTile u t f hs, State.team_modTile u t f hm, fun _ => rfl,
    .of_die_pkg (fun _ => rfl) (fun _ => rfl)⟩

/-- A change of a die beside its supervisor strands and its special-purpose registers is not seen. -/
theorem State.SameView.setDie {d : Nat} {x : Die} (hs : x.sups = (u.die d).sups) (hx : (u.die d).SameSpecial x) :
    s.SameView (u.setDie d x) := by
  refine h.trans ⟨rfl, fun q => ?_, fun _ => rfl, fun _ => rfl, (State.sameSpecial_iff _ _).2 ⟨fun e => ?_, fun _ => rfl⟩⟩
  · cases q with
    | tile t k => rfl
    | sup e k =>
      simp only [State.strand, State.die_setDie]
      split
      · next he => rw [he, hs]
      · rfl
  · rw [State.die_setDie]
    split
    · next he => rw [he]; exact hx
    · exact .refl _

theorem State.SameView.modDie {d : Nat} {f : Die → Die} (hs : (f (u.die d)).sups = (u.die d).sups)
    (hx : (u.die d).SameSpecial (f (u.die d))) : s.SameView (u.modDie d f) :=
  h.setDie hs hx

theorem State.SameView.trace (r : Ref) (k p : Nat) : s.SameView (u.trace r k p) :=
  h.trans ⟨State.trace_cur u r k p, State.strand_trace u r k p, State.team_trace u r k p,
    fun _ => by rw [State.trace_mem], .of_die_pkg (State.die_trace u r k p) (State.pkg_trace u r k p)⟩

theorem State.SameView.dropUnowned (r : Ref) : s.SameView (u.dropUnowned r) := by
  cases r with
  | tile t k => unfold State.dropUnowned; exact h.modTile rfl rfl
  | sup d k => exact h

/-! ## Copies in the caches (R77, R78) -/

theorem State.SameView.evictL1 (t line : Nat) : s.SameView (u.evictL1 t line) := by
  unfold State.evictL1
  dsimp only
  refine State.SameView.modTile (h.foldl (fun s e => ?_) _) rfl rfl
  apply (State.SameView.refl s).modDie
  · split <;> rfl
  · split <;> exact .refl _

theorem State.SameView.putL1 (t k : Nat) (x : L1Word) : s.SameView (u.putL1 t k x) := by
  unfold State.putL1
  refine State.SameView.modTile ?_ rfl rfl
  split
  · exact h
  · exact (h.evictL1 t _).free _

theorem State.SameView.putRdc (d k : Nat) (x : RdcWord) : s.SameView (u.putRdc d k x) := by
  unfold State.putRdc
  refine State.SameView.modDie ?_ rfl (.refl _)
  split
  · exact h
  · refine State.SameView.free ?_ _
    exact h.modDie rfl (.refl _)

theorem State.SameView.countRemote (pa d : Nat) : s.SameView (u.countRemote pa d) := by
  unfold State.countRemote
  dsimp only
  split
  · exact h
  · split
    · split
      · exact h.setDie rfl (.refl _)
      · refine State.SameView.free ?_ _
        exact h.setDie rfl (.refl _)
    · split
      · exact h.setDie rfl (.refl _)
      · split <;> exact h.setDie rfl (.refl _)

theorem State.SameView.fillCopies (t : Nat) (acq : W64) (pa n : Nat) : s.SameView (u.fillCopies t acq pa n) := by
  unfold State.fillCopies
  dsimp only
  refine State.SameView.free (h.foldl (fun s x => ?_) _) _
  have far (c : Prop) [Decidable c] (y : RdcWord) : s.SameView (if c then s else s.putRdc (t / 256) x.1 y) := by
    split
    · exact .refl s
    · exact (State.SameView.refl s).putRdc _ _ _
  split
  · split
    · exact far _ _
    · exact (far _ _).putL1 _ _ _
  · exact (far _ _).putL1 _ _ _

/-- A prefetch fills caches and counts a remote access, and no program sees either (R111). -/
theorem State.SameView.prefetch (t : Nat) (st : Strand) (intent : PrefIntent) (va : Nat) :
    s.SameView (u.prefetch t st intent va) := by
  unfold State.prefetch
  split
  · exact h
  · split
    · dsimp only
      split
      · exact h
      · cases intent with
        | far =>
          dsimp only
          split
          · exact h
          · exact ((h.foldl (fun s i => (State.SameView.refl s).putRdc _ _ _) _).countRemote _ _).free _
        | rd => exact h.fillCopies _ _ _ _
        | wr => exact h.fillCopies _ _ _ _
    · exact h
    · exact h

end

/-! ## Operations that only one strand sees -/

theorem State.sameSpecial_setStrand (s : State) (r : Ref) (x : Strand) : s.SameSpecial (s.setStrand r x) := by
  cases r with
  | tile t k => exact .of_die_pkg (fun _ => rfl) (fun _ => rfl)
  | sup d k =>
    refine (State.sameSpecial_iff _ _).2 ⟨fun u => ?_, fun _ => rfl⟩
    rw [State.die_setStrand_sup]
    split
    · next h => rw [h]; exact .refl _
    · exact .refl _

theorem State.onlyStrand_setStrand (s : State) (r : Ref) (x : Strand) : s.OnlyStrand (s.setStrand r x) r :=
  ⟨⟨fun _ h => State.strand_setStrand_other s x h, State.team_setStrand s r x⟩,
    fun _ => by rw [State.setStrand_mem], State.sameSpecial_setStrand s r x⟩

theorem State.OnlyStrand.trans_view {s t u : State} {r : Ref} (h : s.OnlyStrand t r) (k : t.SameView u) :
    s.OnlyStrand u r := by
  obtain ⟨⟨hq, hm⟩, hb, hs⟩ := h
  exact ⟨⟨fun q hn => (k.strand q).trans (hq q hn), fun v => (k.team v).trans (hm v)⟩,
    fun a => (k.bytes a).trans (hb a), hs.trans k.special⟩

theorem State.SameView.trans_only {s t u : State} {r : Ref} (h : s.SameView t) (k : t.OnlyStrand u r) :
    s.OnlyStrand u r := by
  obtain ⟨⟨kq, km⟩, kb, ks⟩ := k
  exact ⟨⟨fun q hn => (kq q hn).trans (h.strand q), fun v => (km v).trans (h.team v)⟩,
    fun a => (kb a).trans (h.bytes a), h.special.trans ks⟩

theorem State.onlyStrand_holdAt (s : State) (r : Ref) (st : Strand) (h : Hold) : s.OnlyStrand (s.holdAt r st h) r := by
  rw [State.holdAt_eq]
  exact (State.onlyStrand_setStrand s r _).trans_view ((State.SameView.refl _).fresh _)

theorem State.onlyStrand_retireAcq (s : State) (r : Ref) (st : Strand) : s.OnlyStrand (s.retireAcq r st) r :=
  ((State.SameView.refl s).dropUnowned r).trans_only (State.onlyStrand_setStrand _ r _)

/-- A fault is seen by its strand alone (R304). -/
theorem State.onlyStrand_trap (s : State) (r : Ref) (st : Strand) (c : Byte) (i : TrapInfo) :
    s.OnlyStrand (s.trap r st c i) r := by
  cases r with
  | tile t k =>
    unfold State.trap
    dsimp only
    refine State.OnlyStrand.trans_view ?_ (((State.SameView.refl _).trace _ _ _).post _ _)
    exact (State.onlyStrand_setStrand s _ _).trans_view ((State.SameView.refl _).modDie rfl (.refl _))
  | sup d k => exact (State.onlyStrand_setStrand s (.sup d k) _).trans_view ((State.SameView.refl _).post _ _)

/-! ## How an instruction ends -/

/-- A retired strand has ended its instruction, whatever it wrote and whenever it acquired. -/
theorem Strand.ended_retired (st : Strand) (g : Vector W64 16) (acq : W64) {n : Nat} (h : st.ready ≤ n) (pc : W64) :
    st.Ended ({ st with g := g, acq := acq, ready := n }.retired pc) pc :=
  ⟨rfl, h.trans (Nat.le_max_left _ _)⟩

/-- A retirement without a write lets the strand go on and does no more. -/
theorem Strand.retired_after (st : Strand) : Claims.Retired st (st.retired st.after) :=
  ⟨Strand.ended_retired st st.g st.acq le_rfl _, rfl, fun _ => rfl⟩

theorem Strand.writes_wr (st : Strand) (d : GReg) (x : W64) : st.Writes (st.wr d x) d x :=
  ⟨Strand.rd_wr_same st d x, fun _ h => Strand.rd_wr_other st x h⟩

/-- A fault without a cause is the precise fault of R304 and R305. -/
theorem State.traps_raise {s : State} {t k : Nat} (st : Strand) (code : Byte) (addr : W64) (hc : s.cur = .tile t k) :
    Claims.Traps s (s.raise st code addr) t k st code 0 addr := by
  rw [State.raise, hc]
  exact ⟨State.strand_trap s (.tile t k) st code _, State.faults_trap s t k st code _, State.onlyStrand_trap s _ st code _⟩

/-- A fault of a supervisor strand is escalated (R298). -/
theorem State.supTraps_raise {s : State} {d k : Nat} (st : Strand) (code : Byte) (addr : W64) (hc : s.cur = .sup d k) :
    Claims.SupTraps s (s.raise st code addr) d k st := by
  rw [State.raise, hc]
  exact ⟨State.strand_trap s (.sup d k) st code _, by simp [State.trap], State.onlyStrand_trap s _ st code _⟩

end Sys2Proof.Machine
end

section
/-! SUPPORT. The branches and jumps (R148 to R150, R106). -/
namespace Sys2Proof.Machine
open Sys2Proof.Claims

/-! ## Targets -/

/-- A target is four times the offset from the word of the instruction (R106). -/
theorem Strand.target_eq {n : Nat} (st : Strand) (off : BitVec n) :
    st.target off = st.fetch.own + int (4 * off.toInt) := by
  have h : (off.signExtend 64) <<< 2 = int (4 * off.toInt) := by
    rw [BitVec.shiftLeft_eq_mul_twoPow, int, BitVec.ofInt_mul, BitVec.mul_comm]
    rfl
  rw [Strand.target, h]

/-! ## A taken branch or jump -/

theorem State.strand_taken (s : State) (st : Strand) (pc : W64) :
    (s.taken st pc).strand s.cur = some ((st.notBefore (st.lastIssue + st.fetch.clks + 1)).retired pc) := by
  rw [State.taken, State.jump_eq, State.trace_cur, State.strand_setStrand_same]

theorem State.onlyStrand_taken (s : State) (st : Strand) (pc : W64) : s.OnlyStrand (s.taken st pc) s.cur := by
  rw [State.taken, State.jump_eq, State.trace_cur]
  exact ((State.SameView.refl s).trace _ _ _).trans_only (State.onlyStrand_setStrand _ _ _)

/-- A jump that links writes the address of the next word and goes to its target. -/
theorem State.taken_link {s : State} {r : Ref} {st : Strand} (h : s.At r st) (d : GReg) (pc : W64) :
    ∃ st', (s.taken (st.wr d st.after) pc).strand r = some st' ∧ s.OnlyStrand (s.taken (st.wr d st.after) pc) r ∧
      st'.acq = st.acq ∧ st.Writes st' d (st.fetch.own + 4) ∧ st.Ended st' pc := by
  obtain ⟨rfl, -⟩ := h
  exact ⟨_, State.strand_taken s _ pc, State.onlyStrand_taken s _ pc, rfl, Strand.writes_wr st d st.after,
    Strand.ended_retired st (st.wr d st.after).g st.acq (Nat.le_max_left _ _) pc⟩

/-! ## Conditions -/

theorem State.At.withCur {s : State} {r : Ref} {st : Strand} (h : s.At r st) (f : Strand → State) :
    s.withCur f = .next (f st) := by
  obtain ⟨rfl, hst⟩ := h
  exact State.withCur_some f hst

theorem beq_eq_decide_toNat (x y : W64) : (x == y) = decide (x.toNat = y.toNat) := by
  rw [Bool.eq_iff_iff, beq_iff_eq, decide_eq_true_eq, BitVec.toNat_eq]

theorem bne_eq_decide_toNat (x y : W64) : (x != y) = decide (x.toNat ≠ y.toNat) := by
  rw [bne, beq_eq_decide_toNat, decide_not]

/-- A branch goes to its target when the condition of R148 holds, and else to the next word. -/
theorem exec_branchOf {s : State} {r : Ref} {st : Strand} {i : Instr} {c : Bool} {off : BitVec 40} (h : s.At r st)
    (hb : branchOf i st = some (c, off)) :
    exec i s = .next (if c then s.taken st (st.target off) else s.retire st) := by
  have run (f : Strand → Bool) (hc : f st = c) :
      s.branch off f = .next (if c then s.taken st (st.target off) else s.retire st) := by
    rw [State.branch, h.withCur, hc]
  unfold branchOf at hb
  split at hb <;> simp only [Option.some.injEq, Prod.mk.injEq, reduceCtorEq] at hb <;> obtain ⟨hc, rfl⟩ := hb
  case h_1 => exact run _ ((beq_eq_decide_toNat _ _).trans hc)
  case h_2 => exact run _ ((bne_eq_decide_toNat _ _).trans hc)
  case h_3 => exact run _ hc
  case h_4 => exact run _ hc
  case h_5 => exact run _ hc
  case h_6 => exact run _ hc
  case h_7 => exact run _ ((beq_eq_decide_toNat _ _).trans hc)
  case h_8 => exact run _ ((bne_eq_decide_toNat _ _).trans hc)

/-! ## The statement -/

theorem branchResults : BranchResults := by
  intro s r st i c off h hb
  have he := exec_branchOf h hb
  obtain ⟨rfl, -⟩ := h
  cases c with
  | true =>
    refine ⟨_, _, he, State.strand_taken s st _, State.onlyStrand_taken s st _, fun _ => rfl, rfl, ?_⟩
    rw [Strand.target_eq]
    exact Strand.ended_retired st st.g st.acq (Nat.le_max_left _ _) _
  | false =>
    obtain ⟨hend, ha, hg⟩ := Strand.retired_after st
    exact ⟨_, _, he, State.strand_retire s st, State.onlyStrand_setStrand s _ _, hg, ha, hend⟩

theorem exec_jal {s : State} {r : Ref} {st : Strand} (h : s.At r st) (d : GReg) (off : BitVec 44) :
    exec (.jal d off) s = .next (s.taken (st.wr d st.after) (st.fetch.own + int (4 * off.toInt))) :=
  (h.withCur _).trans (by rw [Strand.target_eq])

/-- JALR takes the instruction-alignment fault on a target that is no word's address (R149). -/
theorem exec_jalr {s : State} {r : Ref} {st : Strand} (h : s.At r st) (d a : GReg) (imm : BitVec 40) :
    exec (.jalr d a imm) s = .next (if (st.rd a + int imm.toInt).toNat % 4 ≠ 0
      then s.raise st fcInstrAlign (st.rd a + int imm.toInt)
      else s.taken (st.wr d st.after) (st.rd a + int imm.toInt)) := h.withCur _

theorem jumpResults : JumpResults := by
  intro s r st d a off imm h
  refine ⟨?_, fun ha => ?_, fun ha => ?_⟩
  · obtain ⟨st', hst⟩ := State.taken_link h d (st.fetch.own + int (4 * off.toInt))
    exact ⟨_, st', exec_jal h d off, hst⟩
  · obtain ⟨st', hst⟩ := State.taken_link h d (st.rd a + int imm.toInt)
    exact ⟨_, st', (exec_jalr h d a imm).trans (by rw [if_neg (not_not.2 ha)]), hst⟩
  · have he := exec_jalr h d a imm
    rw [if_pos ha] at he
    obtain ⟨hc, -⟩ := h
    exact ⟨fun t k hr => ⟨_, he, State.traps_raise st _ _ (hc.trans hr)⟩,
      fun e k hr => ⟨_, he, State.supTraps_raise st _ _ (hc.trans hr)⟩⟩

/-- Settles O2: a branch, JAL and an aligned JALR retire at their target, and a misaligned JALR takes a fault. -/
theorem controlResults : Obligations.ControlResults := ⟨branchResults, jumpResults⟩

end Sys2Proof.Machine
end

section
/-! SUPPORT. The fences, their serialise requests, and the hints (R89, R90, R107, R111, R169). -/
namespace Sys2Proof.Machine
open Sys2Proof.Claims

/-! ## Hints -/

/-- An instruction that only retires lets its strand go on and does no more. -/
theorem State.At.retire {s : State} {r : Ref} {st : Strand} (h : s.At r st) :
    ∃ st', s.retire st = s.setStrand r st' ∧ Retired st st' := by
  obtain ⟨rfl, -⟩ := h
  exact ⟨_, State.retire_eq s st, Strand.retired_after st⟩

theorem exec_pref {s : State} {r : Ref} {st : Strand} (h : s.At r st) (base : GReg) (intent : PrefIntent)
    (off : BitVec 16) : ∃ u, exec (.pref base intent off) s = .next (u.retire st) ∧ s.SameView u := by
  have he : exec (.pref base intent off) s = .next _ := h.withCur _
  cases r with
  | tile t k =>
    simp only [h.1] at he
    refine ⟨_, he, ?_⟩
    split
    · exact (State.SameView.refl s).prefetch _ _ _ _
    · exact .refl s
  | sup d k =>
    simp only [h.1] at he
    exact ⟨s, he, .refl s⟩

theorem hintResults : HintResults := by
  intro s r st h
  refine ⟨fun i hi => ?_, fun base intent off => ?_⟩
  · obtain ⟨st', he, hr⟩ := h.retire
    have run : s.withCur s.retire = .next (s.setStrand r st') := (h.withCur _).trans (congrArg _ he)
    simp only [List.mem_cons, List.not_mem_nil, or_false] at hi
    rcases hi with rfl | rfl | rfl <;> exact ⟨st', run, hr⟩
  · obtain ⟨u, he, hv⟩ := exec_pref h base intent off
    rw [State.retire_eq, hv.cur, h.1] at he
    exact ⟨_, _, he, State.strand_setStrand_same u r _, Strand.retired_after st,
      hv.trans_only (State.onlyStrand_setStrand u r _)⟩

/-! ## Fences -/

/-- A step posted for each number of a list. -/
def State.postEach (s : State) (e : Instr) (l : List Nat) (f : Nat → EvArg) : State :=
  l.foldl (fun s u => s.post e (f u)) s

theorem State.SameView.postEach {s u : State} (h : s.SameView u) (e : Instr) (l : List Nat) (f : Nat → EvArg) :
    s.SameView (u.postEach e l f) :=
  h.foldl (fun s x => (State.SameView.refl s).post e (f x)) l

theorem State.agenda_postEach (s : State) (e : Instr) (l : List Nat) (f : Nat → EvArg) :
    (s.postEach e l f).agenda = s.agenda ++ l.map (fun u => .happen e (f u)) := by
  unfold State.postEach
  induction l generalizing s with
  | nil => simp
  | cons x l ih => rw [List.foldl_cons, ih]; simp

/-- FENCE.H of a supervisor strand acts as FENCE.L (R298). -/
theorem exec_fenceH_sup {s : State} {d k : Nat} {st : Strand} (h : s.At (.sup d k) st) :
    exec .fenceH s = .next (s.retire st) := by
  refine (h.withCur _).trans ?_
  rw [h.1]

theorem exec_fenceH_undrained {s : State} {t k : Nat} {st : Strand} (h : s.At (.tile t k) st)
    (hd : s.drained (.tile t k) st = false) : exec .fenceH s = .next (s.holdAt (.tile t k) st .release) := by
  refine (h.withCur _).trans ?_
  rw [State.release_undrained (h.1 ▸ hd), State.holdCur, h.1]
  rfl

/-- FENCE.H with its stores registered holds and asks every tile of the context (R90). -/
theorem exec_fenceH_drained {s : State} {t k : Nat} {st : Strand} (h : s.At (.tile t k) st)
    (hd : s.drained (.tile t k) st = true) :
    exec .fenceH s = .next (({ s with fresh := s.fresh + 1 }.holdAt (.tile t k) st
      (.fence s.fresh (s.tilesOf st.asid).length)).postEach .serialiseRequest (s.tilesOf st.asid)
        (fun u => { tile := u, asid := st.asid, n := s.fresh, k := st.uid })) := by
  refine (h.withCur _).trans ?_
  rw [State.release_drained (h.1 ▸ hd)]
  simp only [Got.finish_go, State.holdCur, h.1, State.postEach]

theorem fenceResults : FenceResults := by
  intro s r st h
  obtain ⟨st', he, hr⟩ := h.retire
  refine ⟨⟨st', (h.withCur _).trans (congrArg _ he), hr⟩, ?_, ?_, ?_⟩
  · rintro d k rfl
    exact ⟨st', (exec_fenceH_sup h).trans (congrArg _ he), hr⟩
  · rintro t k rfl hd
    exact ⟨_, exec_fenceH_undrained h hd, State.strand_holdAt s _ st _, State.onlyStrand_holdAt s _ st _⟩
  · rintro t k rfl hd
    have asked (x : State) := (State.SameView.refl x).postEach .serialiseRequest (s.tilesOf st.asid)
      (fun u => { tile := u, asid := st.asid, n := s.fresh, k := st.uid })
    refine ⟨_, _, exec_fenceH_drained h hd, ((asked _).strand _).trans (State.strand_holdAt _ _ st _), rfl,
      (((State.SameView.refl s).fresh _).trans_only (State.onlyStrand_holdAt _ _ st _)).trans_view (asked _),
      fun u hu => ?_⟩
    rw [State.agenda_postEach]
    exact List.mem_append_right _ (List.mem_map_of_mem hu)

/-! ## Serialise requests and their acknowledgements -/

/-- A map over the values of a table maps what is found. -/
theorem Table.find_map {α β : Type} (f : Nat × α → Nat × β) (hf : ∀ e, (f e).1 = e.1) (l : Table α) (k : Nat) :
    Table.find (l.map f) k = (l.find k).map (fun v => (f (k, v)).2) := by
  induction l with
  | nil => rfl
  | cons e l ih =>
    obtain ⟨j, v⟩ := e
    have hj := hf (j, v)
    rw [List.map_cons, ← Prod.eta (f (j, v)), hj]
    simp only [Table.find]
    split
    · next h => rw [h]; rfl
    · exact ih

theorem State.registerAll_of_registered {s : State} {t a : Nat}
    (h : ∀ e ∈ (s.tile t).sb, e.asid = a → e.registered = true) : s.registerAll t a = s := by
  have none_open : (s.tile t).sb.filter (fun e => e.asid == a && !e.registered) = [] := by
    rw [List.filter_eq_nil_iff]
    intro e he hp
    simp only [Bool.and_eq_true, beq_iff_eq, Bool.not_eq_true'] at hp
    exact absurd (h e he hp.1) (by simp [hp.2])
  rw [State.registerAll, State.registerWhere, none_open, List.foldl_nil]

/-- A tile without stores of the context serves the one request that waits (R90, R169). -/
theorem State.serveSerial_single {s : State} {t : Nat} (q : Serial) (hside : ∀ e ∈ (s.tile t).side, e.asid ≠ q.asid)
    (hsb : ∀ e ∈ (s.tile t).sb, e.asid = q.asid → e.registered = true) :
    s.serveSerial t [q] = (s.serialised t q, []) := by
  have hw : ((s.tile t).side.any (fun e => e.asid == q.asid) ||
      (s.tile t).sb.any (fun e => e.asid == q.asid && !e.registered)) = false := by
    simp only [Bool.or_eq_false_iff, List.any_eq_false, beq_iff_eq, Bool.and_eq_true, Bool.not_eq_true', not_and,
      Bool.not_eq_false]
    exact ⟨hside, hsb⟩
  simp only [State.serveSerial, State.registerAll_of_registered hsb, hw, Bool.false_eq_true, if_false]

theorem State.strand_serialised {s : State} {t k : Nat} {st : Strand} (q : Serial) (hs : s.strand (.tile t k) = some st)
    (ha : st.asid = q.asid) : (s.serialised t q).strand (.tile t k) = some { st with acq := s.podTime } := by
  simp only [State.strand] at hs
  simp only [State.serialised, State.strand, State.tile_post, State.tile_modTile_same]
  rw [Table.find_map _ (fun e => by split <;> rfl), hs, Option.map_some, if_pos ha]

theorem exec_serialiseRequest_alone {s : State} (hf : s.ev.flag = false) (hq : (s.tile s.ev.tile).serials = [])
    (hside : ∀ e ∈ (s.tile s.ev.tile).side, e.asid ≠ s.ev.asid)
    (hsb : ∀ e ∈ (s.tile s.ev.tile).sb, e.asid = s.ev.asid → e.registered = true) :
    exec .serialiseRequest s =
      .next ((s.serialised s.ev.tile ⟨s.ev.asid, s.ev.n, s.ev.k⟩).modTile s.ev.tile (fun w => { w with serials := [] })) := by
  show execSerialiseRequest s = _
  simp only [execSerialiseRequest, hf, hq, List.nil_append, Bool.false_eq_true, if_false,
    State.serveSerial_single ⟨s.ev.asid, s.ev.n, s.ev.k⟩ hside hsb, List.isEmpty_nil, if_true]

theorem exec_serialiseAck {s : State} {r : Ref} {st : Strand} {acks : Nat} (hu : s.findUid s.ev.k = some r)
    (hs : s.strand r = some st) (hh : st.hold = some (.fence s.ev.n acks)) :
    exec .serialiseAck s = .next (if acks ≤ 1 then s.retireAcq r st
      else s.setStrand r { st with hold := some (.fence s.ev.n (acks - 1)) }) := by
  show execSerialiseAck s = _
  simp only [execSerialiseAck, hu, hs, hh, ne_eq, not_true, if_false]
  split <;> rfl

/-- The last acknowledgement lets the strand acquire and go on. -/
theorem Strand.acquired_retired (s : State) (st : Strand) :
    Acquired s st ({ st with acq := s.podTime }.retired st.after) :=
  ⟨Strand.ended_retired st st.g s.podTime le_rfl _, rfl, fun _ => rfl⟩

theorem serialiseResults : SerialiseResults := by
  rintro s t a rfl rfl
  refine ⟨fun hf hq hside hsb => ?_, ?_⟩
  · have clear := (State.SameView.refl (s.serialised s.ev.tile ⟨s.ev.asid, s.ev.n, s.ev.k⟩)).modTile
      (t := s.ev.tile) (f := fun w => { w with serials := [] }) rfl rfl
    refine ⟨_, exec_serialiseRequest_alone hf hq hside hsb, fun _ => rfl, .of_die_pkg (fun _ => rfl) (fun _ => rfl), ?_,
      fun k st hs ha => (clear.strand _).trans (State.strand_serialised _ hs ha), ?_⟩
    · simp [State.serialised]
    · simp [State.serialised]
  · rintro r st n acks hu hs hh rfl
    have he := exec_serialiseAck hu hs hh
    refine ⟨fun ha => ?_, fun ha => ?_⟩
    · rw [if_pos ha] at he
      exact ⟨_, _, he, State.strand_retireAcq s r st, Strand.acquired_retired s st, State.onlyStrand_retireAcq s r st⟩
    · rw [if_neg (by omega)] at he
      exact he

/-- Settles O10: what each fence and hint does to its own strand, and that no program sees more of it than the
statement says; a tile serves a serialise request at once where nothing keeps it waiting. -/
theorem fenceAndHintResults : Obligations.FenceAndHintResults := ⟨fenceResults, serialiseResults, hintResults⟩

end Sys2Proof.Machine
end

section
/-! SUPPORT. The instructions on scalar registers: the values in the tables of R142 to R147, and INS (R144). -/
namespace Sys2Proof.Machine
open Sys2Proof.Claims

/-! ## Registers as numbers -/

@[simp] theorem nat_toNat (x : W64) : nat x.toNat = x :=
  (BitVec.ofNat_toNat 64 x).trans (BitVec.setWidth_eq x)

@[simp] theorem int_toInt (x : W64) : int x.toInt = x := BitVec.ofInt_toInt

@[simp] theorem int_natCast (n : Nat) : int n = nat n := BitVec.ofInt_natCast 64 n

theorem eq_nat_of_toNat {x : W64} {n : Nat} (h : x.toNat = n) : x = nat n := by rw [← h, nat_toNat]

theorem eq_int_of_toInt {x : W64} {n : Int} (h : x.toInt = n) : x = int n := by rw [← h, int_toInt]

theorem nat_mod (n : Nat) : nat (n % 2 ^ 64) = nat n := BitVec.eq_of_toNat_eq (by simp [nat])

theorem toNat_nat {n : Nat} (h : n < 2 ^ 64) : (nat n).toNat = n := by rw [nat, BitVec.toNat_ofNat, Nat.mod_eq_of_lt h]

theorem nat_add (m n : Nat) : nat (m + n) = nat m + nat n := BitVec.ofNat_add m n

theorem int_add (m n : Int) : int (m + n) = int m + int n := BitVec.ofInt_add m n

theorem int_neg_one : int (-1) = BitVec.allOnes 64 := by decide

theorem signExtend_eq_int {n : Nat} (x : BitVec n) : x.signExtend 64 = int x.toInt := rfl

theorem toNat_eq_zero_iff (x : W64) : x.toNat = 0 ↔ x = 0 := (BitVec.toNat_inj (y := 0#64))

/-- A choice of one of two registers by a comparison of the numbers they hold is the number chosen. -/
theorem ite_eq_nat (p : Prop) [Decidable p] (x y : W64) :
    (if p then x else y) = nat (if p then x.toNat else y.toNat) := by split <;> simp

theorem ite_eq_int (p : Prop) [Decidable p] (x y : W64) :
    (if p then x else y) = int (if p then x.toInt else y.toInt) := by split <;> simp

/-! ## Arithmetic and logic (R142) -/

theorem valAdd_eq (a b : W64) : valAdd a b = nat (a.toNat + b.toNat) := by rw [nat_add, nat_toNat, nat_toNat, valAdd]

theorem valSub_eq (a b : W64) : valSub a b = int (a.toNat - b.toNat) := by
  rw [valSub, BitVec.sub_eq_add_neg, Int.sub_eq_add_neg, int_add, int_natCast, nat_toNat]
  simp [int, BitVec.ofInt_neg]

theorem valAnd_eq (a b : W64) : valAnd a b = nat (a.toNat &&& b.toNat) := eq_nat_of_toNat (BitVec.toNat_and a b)

theorem valOr_eq (a b : W64) : valOr a b = nat (a.toNat ||| b.toNat) := eq_nat_of_toNat (BitVec.toNat_or a b)

theorem valXor_eq (a b : W64) : valXor a b = nat (a.toNat ^^^ b.toNat) := eq_nat_of_toNat (BitVec.toNat_xor a b)

theorem valAndn_eq (a b : W64) : valAndn a b = nat (a.toNat &&& (2 ^ 64 - 1 - b.toNat)) :=
  eq_nat_of_toNat ((BitVec.toNat_and a (~~~b)).trans (by rw [BitVec.toNat_not]))

theorem shiftLeft_eq_nat (a : W64) (n : Nat) : a <<< n = nat (a.toNat * 2 ^ n) := by
  rw [← nat_mod, ← Nat.shiftLeft_eq]
  exact eq_nat_of_toNat BitVec.toNat_shiftLeft

theorem shiftRight_eq_nat (a : W64) (n : Nat) : a >>> n = nat (a.toNat / 2 ^ n) := by
  rw [← Nat.shiftRight_eq_div_pow]
  exact eq_nat_of_toNat (BitVec.toNat_ushiftRight a n)

theorem sshiftRight_eq_int (a : W64) (n : Nat) : a.sshiftRight n = int (a.toInt / 2 ^ n) := by
  rw [eq_int_of_toInt BitVec.toInt_sshiftRight, Int.shiftRight_eq_div_pow]
  norm_cast

theorem valMin_eq (a b : W64) : valMin a b = int (Min.min a.toInt b.toInt) := ite_eq_int _ a b

theorem valMax_eq (a b : W64) : valMax a b = int (Max.max a.toInt b.toInt) := by
  rw [max_comm]; exact ite_eq_int _ a b

theorem valMinu_eq (a b : W64) : valMinu a b = nat (Min.min a.toNat b.toNat) := by
  rw [min_def]; exact ite_eq_nat _ a b

theorem valMaxu_eq (a b : W64) : valMaxu a b = nat (Max.max a.toNat b.toNat) := by
  rw [max_comm, max_def]; exact ite_eq_nat _ a b

theorem valSeq_eq (a b : W64) : valSeq a b = if a.toNat = b.toNat then 1 else 0 := by
  simp only [valSeq, BitVec.toNat_inj]

/-! ## Counting bits (R143) -/

theorem size_eq_log2_succ {n : Nat} (h : n ≠ 0) : n.size = n.log2 + 1 :=
  le_antisymm (Nat.size_le.2 Nat.lt_log2_self) (Nat.lt_size.2 (Nat.log2_self_le h))

theorem valClz_eq (a : W64) : valClz a = nat (64 - a.toNat.size) := by
  unfold valClz nat
  congr 1
  split
  · next h => simp [h]
  · next h => rw [size_eq_log2_succ (mt (toNat_eq_zero_iff a).1 h)]; omega

/-- The low bits of a number are all 0 when each of them is. -/
theorem mod_two_pow_eq_zero_iff (x n : Nat) : x % 2 ^ n = 0 ↔ ∀ i < n, x.testBit i = false := by
  constructor
  · intro h i hi
    have hb := Nat.testBit_mod_two_pow x n i
    simpa [h, hi] using hb.symm
  · intro h
    refine Nat.eq_of_testBit_eq fun i => ?_
    rw [Nat.testBit_mod_two_pow, Nat.zero_testBit, Bool.and_eq_false_iff, decide_eq_false_iff_not]
    exact (em (i < n)).symm.imp_right (h i)

/-- The place of the lowest 1 bit below `w` is the number of places up to which all bits are 0. -/
theorem find?_testBit_getD (x w : Nat) :
    ((List.range w).find? x.testBit).getD w = (List.range w).countP (fun n => x % 2 ^ (n + 1) == 0) := by
  induction w with
  | zero => rfl
  | succ w ih =>
    rw [List.range_succ, List.find?_append, List.countP_append, ← ih, List.countP_singleton]
    cases hf : (List.range w).find? x.testBit with
    | some k =>
      have hk : x.testBit k = true := List.find?_some hf
      have hkw : k < w := List.mem_range.1 (List.mem_of_find?_eq_some hf)
      have hz : x % 2 ^ (w + 1) ≠ 0 := fun h => by simp [(mod_two_pow_eq_zero_iff _ _).1 h k (by omega)] at hk
      simp [hz]
    | none =>
      have hlow : ∀ i < w, x.testBit i = false := by simpa [List.find?_eq_none] using hf
      have hz : x % 2 ^ (w + 1) = 0 ↔ x.testBit w = false := by
        rw [mod_two_pow_eq_zero_iff, Nat.forall_lt_succ_right]
        exact and_iff_right hlow
      cases hw : x.testBit w <;> simp [hw, hz]

theorem valCtz_eq (a : W64) : valCtz a = nat ((List.range 64).countP (fun n => a.toNat % 2 ^ (n + 1) == 0)) := by
  rw [← find?_testBit_getD]
  rfl

theorem countP_testBit_eq_sum (x : Nat) (l : List Nat) : l.countP x.testBit = (l.map (fun n => x / 2 ^ n % 2)).sum := by
  induction l with
  | nil => rfl
  | cons n l ih =>
    rw [List.countP_cons, List.map_cons, List.sum_cons, ih, ← Nat.toNat_testBit, add_comm]
    cases x.testBit n <;> rfl

theorem valPopc_eq (a : W64) : valPopc a = nat (((List.range 64).map (fun n => a.toNat / 2 ^ n % 2)).sum) := by
  rw [← countP_testBit_eq_sum]
  rfl

/-! ## Fields (R144) -/

theorem toNat_fieldMask (c : W64) : (fieldMask c).toNat = 2 ^ Min.min c.toNat 64 - 1 := by
  have hpos : 0 < 2 ^ Min.min c.toNat 64 := Nat.two_pow_pos _
  have hle : 2 ^ Min.min c.toNat 64 ≤ 2 ^ 64 := Nat.pow_le_pow_right (by decide) (min_le_right _ _)
  exact toNat_nat (Nat.sub_one_lt_of_le hpos hle)

theorem getLsbD_fieldMask (c : W64) (n : Nat) : (fieldMask c).getLsbD n = decide (n < Min.min c.toNat 64) := by
  rw [BitVec.getLsbD, toNat_fieldMask, Nat.testBit_two_pow_sub_one]

theorem valExt_eq (a b c : W64) :
    valExt a b c = nat (a.toNat / 2 ^ (b.toNat % 64) % 2 ^ Min.min c.toNat 64) :=
  eq_nat_of_toNat (by
    rw [valExt, BitVec.toNat_and, toNat_fieldMask, Nat.and_two_pow_sub_one_eq_mod, BitVec.toNat_ushiftRight,
      Nat.shiftRight_eq_div_pow])

theorem getLsbD_valIns (old a b c : W64) {n : Nat} (hn : n < 64) :
    (valIns old a b c).getLsbD n =
      if b.toNat % 64 ≤ n ∧ n < b.toNat % 64 + Min.min c.toNat 64
      then a.getLsbD (n - b.toNat % 64) else old.getLsbD n := by
  simp only [valIns, BitVec.getLsbD_or, BitVec.getLsbD_and, BitVec.getLsbD_not, BitVec.getLsbD_shiftLeft,
    getLsbD_fieldMask, hn, decide_true, Bool.true_and]
  by_cases hlo : n < b.toNat % 64
  · simp [hlo, Nat.not_le.2 hlo]
  · by_cases hhi : n - b.toNat % 64 < Min.min c.toNat 64
    · have hin : b.toNat % 64 ≤ n ∧ n < b.toNat % 64 + Min.min c.toNat 64 := by omega
      simp [hlo, hhi, if_pos hin]
    · have hout : ¬(b.toNat % 64 ≤ n ∧ n < b.toNat % 64 + Min.min c.toNat 64) := by omega
      simp [hlo, hhi, if_neg hout]

/-! ## Addresses (R145) -/

theorem leaValue_eq (a b : W64) (n : Nat) : a + b <<< n = nat (a.toNat + b.toNat * 2 ^ n) := by
  rw [nat_add, nat_toNat, shiftLeft_eq_nat]

theorem valTad_eq (a b : W64) :
    valTad a b = nat (0xE000000000000000 + a.toNat % 2 ^ 19 * 2 ^ 21 + b.toNat % 2 ^ 21) := by
  have ha : a &&& 0x7FFFF = nat (a.toNat % 2 ^ 19) :=
    eq_nat_of_toNat ((BitVec.toNat_and a _).trans (Nat.and_two_pow_sub_one_eq_mod _ 19))
  have hb : b &&& 0x1FFFFF = nat (b.toNat % 2 ^ 21) :=
    eq_nat_of_toNat ((BitVec.toNat_and b _).trans (Nat.and_two_pow_sub_one_eq_mod _ 21))
  rw [valTad, ha, hb, shiftLeft_eq_nat, nat_add, nat_add, toNat_nat (by omega)]
  rfl

/-! ## Multiplication and division (R146) -/

theorem valMul_eq (a b : W64) : valMul a b = nat (a.toNat * b.toNat) := by
  rw [← nat_mod]
  exact eq_nat_of_toNat (BitVec.toNat_mul a b)

theorem valDiv_eq (a b : W64) :
    valDiv a b = if b.toNat = 0 then int (-1) else int (a.toInt.tdiv b.toInt) := by
  simp only [valDiv, toNat_eq_zero_iff, int_neg_one]
  congr 1
  split
  · next h => rw [h.1, h.2, eq_int_of_toInt h.1]; decide
  · rfl

theorem valDivu_eq (a b : W64) : valDivu a b = if b.toNat = 0 then int (-1) else nat (a.toNat / b.toNat) := by
  simp only [valDivu, toNat_eq_zero_iff, int_neg_one, nat]

theorem valRem_eq (a b : W64) : valRem a b = if b.toNat = 0 then a else int (a.toInt.tmod b.toInt) := by
  simp only [valRem, toNat_eq_zero_iff, ← Int.tmod_def]
  congr 1
  split
  · next h => rw [h.1, h.2]; decide
  · rfl

theorem valRemu_eq (a b : W64) : valRemu a b = if b.toNat = 0 then a else nat (a.toNat % b.toNat) := by
  simp only [valRemu, toNat_eq_zero_iff, nat]

/-! ## Immediates (R147) -/

theorem zeroExtend_toNat (imm : BitVec 40) : (imm.zeroExtend 64).toNat = imm.toNat :=
  BitVec.toNat_setWidth_of_le (by decide)

theorem toInt_signExtend_imm (imm : BitVec 40) : (imm.signExtend 64).toInt = imm.toInt :=
  BitVec.toInt_signExtend_of_le (by decide)

theorem lihValue_eq (imm : BitVec 32) (x : W64) :
    imm ++ x.extractLsb' 0 32 = nat (imm.toNat * 2 ^ 32 + x.toNat % 2 ^ 32) := by
  refine eq_nat_of_toNat ((BitVec.toNat_append _ _).trans ?_)
  rw [BitVec.extractLsb'_toNat, Nat.shiftRight_zero, ← Nat.shiftLeft_eq,
    Nat.shiftLeft_add_eq_or_of_lt (Nat.mod_lt _ (by decide))]

/-! ## Execution -/

/-- A value computed from the registers goes to its destination, and the strand goes on at the next word. -/
theorem State.At.alu {s : State} {r : Ref} {st : Strand} (h : s.At r st) (d : GReg) (f : Strand → W64) :
    ∃ st', s.alu d f = .next (s.setStrand r st') ∧ st.Ended st' (st.fetch.own + 4) ∧ st'.acq = st.acq ∧
      st.Writes st' d (f st) := by
  have he : s.alu d f = _ := h.withCur _
  obtain ⟨rfl, -⟩ := h
  exact ⟨_, he, Strand.ended_retired st (st.wr d (f st)).g st.acq le_rfl _, rfl, Strand.writes_wr st d (f st)⟩

/-- Every instruction with a row in the tables writes a value computed from the registers: that of its row. -/
theorem exec_scalarValue {i : Instr} {st : Strand} {d : GReg} {x : W64} (hv : scalarValue i st = some (d, x)) :
    ∃ f : Strand → W64, f st = x ∧ ∀ s, exec i s = s.alu d f := by
  have run {g : State → Host.Outcome State Fault Refusal} {d' y} (f : Strand → W64)
      (hd : some (d', y) = some (d, x)) (hg : ∀ s, g s = s.alu d' f) (hf : f st = y) :
      ∃ f : Strand → W64, f st = x ∧ ∀ s, g s = s.alu d f := by
    cases hd
    exact ⟨f, hf, hg⟩
  cases i
  case add => exact run _ hv (fun _ => rfl) (valAdd_eq _ _)
  case sub => exact run _ hv (fun _ => rfl) (valSub_eq _ _)
  case and => exact run _ hv (fun _ => rfl) (valAnd_eq _ _)
  case or => exact run _ hv (fun _ => rfl) (valOr_eq _ _)
  case xor => exact run _ hv (fun _ => rfl) (valXor_eq _ _)
  case andn => exact run _ hv (fun _ => rfl) (valAndn_eq _ _)
  case shl => exact run _ hv (fun _ => rfl) (shiftLeft_eq_nat _ _)
  case shr => exact run _ hv (fun _ => rfl) (shiftRight_eq_nat _ _)
  case sar => exact run _ hv (fun _ => rfl) (sshiftRight_eq_int _ _)
  case min => exact run _ hv (fun _ => rfl) (valMin_eq _ _)
  case max => exact run _ hv (fun _ => rfl) (valMax_eq _ _)
  case minu => exact run _ hv (fun _ => rfl) (valMinu_eq _ _)
  case maxu => exact run _ hv (fun _ => rfl) (valMaxu_eq _ _)
  case slt => exact run _ hv (fun _ => rfl) rfl
  case sltu => exact run _ hv (fun _ => rfl) rfl
  case seq => exact run _ hv (fun _ => rfl) (valSeq_eq _ _)
  case sel => exact run _ hv (fun _ => rfl) (by simp only [toNat_eq_zero_iff, ne_eq, ite_not])
  case clz => exact run _ hv (fun _ => rfl) (valClz_eq _)
  case ctz => exact run _ hv (fun _ => rfl) (valCtz_eq _)
  case popc => exact run _ hv (fun _ => rfl) (valPopc_eq _)
  case ext => exact run _ hv (fun _ => rfl) (valExt_eq _ _ _)
  case lea => exact run _ hv (fun _ => rfl) (leaValue_eq _ _ _)
  case tad => exact run _ hv (fun _ => rfl) (valTad_eq _ _)
  case mul => exact run _ hv (fun _ => rfl) (valMul_eq _ _)
  case mulh => exact run _ hv (fun _ => rfl) rfl
  case mulhu => exact run _ hv (fun _ => rfl) rfl
  case div => exact run _ hv (fun _ => rfl) (valDiv_eq _ _)
  case divu => exact run _ hv (fun _ => rfl) (valDivu_eq _ _)
  case rem => exact run _ hv (fun _ => rfl) (valRem_eq _ _)
  case remu => exact run _ hv (fun _ => rfl) (valRemu_eq _ _)
  case addi => exact run _ hv (fun _ => rfl) (by rw [int_add, int_toInt, signExtend_eq_int])
  case andi => exact run _ hv (fun _ => rfl) ((valAnd_eq _ _).trans (by rw [zeroExtend_toNat]))
  case ori => exact run _ hv (fun _ => rfl) ((valOr_eq _ _).trans (by rw [zeroExtend_toNat]))
  case xori => exact run _ hv (fun _ => rfl) ((valXor_eq _ _).trans (by rw [zeroExtend_toNat]))
  case shli => exact run _ hv (fun _ => rfl) (shiftLeft_eq_nat _ _)
  case shri => exact run _ hv (fun _ => rfl) (shiftRight_eq_nat _ _)
  case sari => exact run _ hv (fun _ => rfl) (sshiftRight_eq_int _ _)
  case slti => exact run _ hv (fun _ => rfl) (by simp only [valSlt, toInt_signExtend_imm])
  case li => exact run _ hv (fun _ => rfl) rfl
  case lih => exact run _ hv (fun _ => rfl) (lihValue_eq _ _)
  all_goals exact nomatch hv

theorem scalarResults : ScalarResults := by
  intro s r st i d x h hv
  obtain ⟨f, rfl, he⟩ := exec_scalarValue hv
  rw [he]
  exact h.alu d f

theorem insertResult : InsertResult := by
  intro s r st d a b c h
  obtain ⟨st', he, hend, hacq, hd, hother⟩ := h.alu d (fun st => valIns (st.rd d) (st.rd a) (st.rd b) (st.rd c))
  exact ⟨st', he, hend, hacq, hother, fun n hn => by rw [hd, getLsbD_valIns _ _ _ _ hn]⟩

/-- Settles O1: an instruction of the tables retires with the value of its row in its destination, and INS with the bits
of its field replaced. -/
theorem scalarInstructionResults : Obligations.ScalarInstructionResults := ⟨scalarResults, insertResult⟩

end Sys2Proof.Machine
end

section
/-! SUPPORT. Reads of a tile's own scratchpad: the checks at issue, the place of its bytes, and what a read of a strand
without stores on their way returns (R24, R25, R86, R152, R354). -/
namespace Sys2Proof.Machine
open Sys2Proof.Claims

/-! ## Addresses of the own scratchpad -/

theorem Space.of_alias {off : Nat} (h : off < spadSize) : Space.of (nat (0xD000000000000000 + off)) = .localOff off := by
  have hv : (nat (0xD000000000000000 + off)).toNat = 0xD000000000000000 + off :=
    toNat_nat (Nat.lt_trans (Nat.add_lt_add_left h _) (by decide))
  rw [Space.of, hv, if_neg (by omega), if_pos ⟨by omega, Nat.add_lt_add_left h _⟩, Nat.add_sub_cancel_left]

theorem Space.of_tileSpace {t off : Nat} (ht : t < 2 ^ 19) (h : off < 2 ^ 21) :
    Space.of (nat (0xE000000000000000 + t * 2 ^ 21 + off)) = .tile t off := by
  have hv : (nat (0xE000000000000000 + t * 2 ^ 21 + off)).toNat = 0xE000000000000000 + (t * 2 ^ 21 + off) := by
    rw [toNat_nat (by omega), Nat.add_assoc]
  have htile : (t * 2 ^ 21 + off) / 2 ^ 21 = t := by omega
  have hoff : (t * 2 ^ 21 + off) % 2 ^ 21 = off := by omega
  simp only [Space.of, hv, Nat.add_sub_cancel_left, htile, hoff]
  rw [if_neg (by omega), if_neg (by simp only [spadSize]; omega), if_pos (by omega)]

theorem Loc.key_spad_add (t off i : Nat) : (Loc.spad t off).key + i = (Loc.spad t (off + i)).key :=
  Nat.add_assoc _ off i

/-! ## Checks at issue -/

section
variable {s : State} {t : Nat} {st : Strand} {m : Team} {ea : W64} {off n : Nat} (h : OwnBytes s t st m ea off n)
include h

theorem checkGrant_ownBytes : (s.tile t).checkGrant st.asid off n = .ok () := by
  obtain ⟨-, hm, ha, hoff, -⟩ := h
  rw [State.team] at hm
  simp only [Tile.checkGrant, Tile.grantOf, hm, if_pos ha, if_pos hoff]

theorem checkAccess_alias (hs : Space.of ea = .localOff off) : s.checkAccess t st.asid ea n = .ok (.own off) := by
  have hg := checkGrant_ownBytes h
  obtain ⟨-, -, -, hoff, hgr, -⟩ := h
  have hend : off + n ≤ spadSize := hoff.trans hgr
  simp only [State.checkAccess, hs, if_pos hend, hg]

theorem checkAccess_tileSpace (hs : Space.of ea = .tile t off) (hn : 0 < n)
    (hp : s.inPartition (t / 256) st.asid t = true) (hlast : ea.toNat + n ≤ 0xE000010000000000) :
    s.checkAccess t st.asid ea n = .ok (.own off) := by
  have hg := checkGrant_ownBytes h
  obtain ⟨-, -, -, hoff, hgr, -⟩ := h
  have hin : ¬ spadSize ≤ off := by
    simp only [spadSize]
    omega
  simp only [State.checkAccess, hs, if_neg (Nat.not_lt.2 hlast), if_neg hin, hp, hg, Bool.true_eq_false, if_false, if_true]

/-- Bytes of the own scratchpad within the grant pass the checks of R152. -/
theorem checkAccess_ownBytes (hn : 0 < n) : s.checkAccess t st.asid ea n = .ok (.own off) := by
  have hown := h
  obtain ⟨ht, -, -, hoff, hgr, hea, -⟩ := h
  rcases hea with hea | ⟨hea, hp⟩
  · exact checkAccess_alias hown (hea ▸ Space.of_alias (by simp only [spadSize]; omega))
  · refine checkAccess_tileSpace hown (hea ▸ Space.of_tileSpace ht (by omega)) hn hp ?_
    rw [hea, toNat_nat (by omega)]
    omega

theorem State.At.checked_own {k al : Nat} (hat : s.At (.tile t k) st) (hn : 0 < n) (hal : ea.toNat % al = 0) :
    s.checked st ea n al = .go s (.own off) := by
  simp only [State.checked, hat.1, checkAccess_ownBytes h hn, if_pos hal]

/-! ## Place, poison and contents -/

theorem place_ownBytes {i : Nat} (hi : i < n) : s.place t st.asid (off + i) = .bank := by
  obtain ⟨-, hm, ha, hoff, -, -, hr, -⟩ := h
  rw [State.team] at hm
  have hin : off + i < m.grant := by omega
  have hown : (some m).filter (fun x => x.asid == st.asid) = some m := by simp [ha]
  simp only [State.place, hr, hm, hown, if_pos hin, Bool.false_eq_true, if_false]

theorem readSpad_ownBytes : s.readSpad t st.asid off n = Memory.readN s.mem (Loc.spad t off).key n := by
  refine List.map_congr_left fun i hi => ?_
  rw [place_ownBytes h (List.mem_range.1 hi), Loc.key_spad_add]
  rfl

/-- No byte of a run is poisoned when the run is not. -/
theorem spadPoisoned_ownBytes : s.spadPoisoned t st.asid off n = false := by
  have hrun : s.poisoned (Loc.spad t off).key n = false := by
    obtain ⟨-, -, -, -, -, -, -, hp⟩ := h
    exact hp
  simp only [State.poisoned, List.any_eq_false, Bool.and_eq_true, decide_eq_true_eq, not_and] at hrun
  simp only [State.spadPoisoned, List.any_eq_false, List.mem_range]
  intro i hi
  simp only [place_ownBytes h hi, State.placePoisoned, ← Loc.key_spad_add, State.poisoned, List.any_eq_true,
    Bool.and_eq_true, decide_eq_true_eq, not_exists, not_and]
  intro x hx hlo hhi
  exact hrun x hx (by omega) (by omega)

end

/-! ## Stores on their way -/

theorem State.drained_tile {s : State} {t k : Nat} {st : Strand} :
    s.drained (.tile t k) st = true ↔
      (∀ e ∈ (s.tile t).sb, e.uid ≠ st.uid) ∧ ∀ e ∈ (s.tile t).side, e.uid ≠ st.uid := by
  simp only [State.drained, Bool.and_eq_true, List.all_eq_true, bne_iff_ne]

theorem sideCovers_eq_false {side : List SideEnt} {uid : Nat} (h : ∀ e ∈ side, e.uid ≠ uid) (ea : W64) (n : Nat) :
    sideCovers side uid ea n = false := by
  simp only [sideCovers, List.any_eq_false, Bool.and_eq_true, beq_iff_eq, not_and]
  exact fun e he hu => absurd hu.1 (h e he)

/-- A relaxed load waits for no store of another strand (R86). -/
theorem blockingStore_relaxed {sb : List StoreEnt} {uid : Nat} (h : ∀ e ∈ sb, e.uid ≠ uid) (keys : List Nat) :
    blockingStore sb uid false keys = none := by
  rw [blockingStore, Option.map_eq_none_iff, List.find?_eq_none]
  intro e he
  simp [h e he]

theorem fwdByte_eq_none {sb : List StoreEnt} {uid : Nat} (h : ∀ e ∈ sb, e.uid ≠ uid) (key : Nat) :
    fwdByte sb uid false key = none := by
  unfold fwdByte fwdFrom
  induction sb with
  | nil => rfl
  | cons e sb ih =>
    have he : (e.uid == uid) = false := by simpa using h e List.mem_cons_self
    rw [List.foldl_cons]
    simp only [he, Bool.false_or, Bool.false_and, Bool.false_eq_true, if_false]
    exact ih fun x hx => h x (List.mem_cons_of_mem e hx)

/-- A strand without stores of its own on their way loads what its scratchpad holds. -/
theorem State.loadRun_spad {s : State} {t : Nat} {st : Strand} (h : ∀ e ∈ (s.tile t).sb, e.uid ≠ st.uid) (acq : Bool)
    (u off n : Nat) : s.loadRun t st acq (.spad u off, n) = s.readSpad u st.asid off n := by
  have hlen : (s.readSpad u st.asid off n).length ≤ (segKeys [(Loc.spad u off, n)]).length := by
    simp [State.readSpad, segKeys]
  simp only [State.loadRun, fwdByte_eq_none h, Option.getD_none]
  exact List.map_snd_zip hlen

/-- A relaxed read of the own scratchpad, by a strand whose stores are all registered, returns its bytes at once. -/
theorem State.At.readData_own {s : State} {t k : Nat} {st : Strand} {m : Team} {ea : W64} {off n : Nat}
    (hat : s.At (.tile t k) st) (h : OwnBytes s t st m ea off n) (hd : s.drained (.tile t k) st = true) (acc : Access)
    (host : HostRule) :
    s.readData st ea n .relaxed (.own off) acc host = .go s (Memory.readN s.mem (Loc.spad t off).key n) := by
  obtain ⟨hsb, hside⟩ := State.drained_tile.1 hd
  have hacq : Order.relaxed.isAcq = false := rfl
  simp only [State.readData, hat.1, sideCovers_eq_false hside, hacq, blockingStore_relaxed hsb, spadPoisoned_ownBytes h,
    State.loadBytes, List.foldl_cons, List.foldl_nil, List.nil_append, State.loadRun_spad hsb, readSpad_ownBytes h]
  rfl

end Sys2Proof.Machine
end

section
/-! SUPPORT. The frisket's instructions (R194, R195, R199, R200). -/
namespace Sys2Proof.Machine
open Sys2Proof.Claims

/-! ## A frisket changes and an instruction retires -/

/-- The frisket of a die with a change made to it. -/
def State.modFrisket (s : State) (d : Nat) (f : Table Watch → Table Watch) : State :=
  s.modDie d (fun x => { x with frisket := f x.frisket })

theorem State.strand_modFrisket (s : State) (d : Nat) (f : Table Watch → Table Watch) (q : Ref) :
    (s.modFrisket d f).strand q = s.strand q := by
  cases q with
  | tile t k => rfl
  | sup e k =>
    simp only [State.modFrisket, State.modDie, State.strand, State.die_setDie]
    split
    · next h => rw [h]
    · rfl

theorem State.frisket_modFrisket (s : State) (d : Nat) (f : Table Watch → Table Watch) :
    ((s.modFrisket d f).die d).frisket = f (s.die d).frisket := by
  simp only [State.modFrisket, State.modDie, State.die_setDie_same]

/-- A change of a frisket and a retirement are all that changes of what a program sees. -/
theorem State.retire_modFrisket {s : State} {t k : Nat} (hc : s.cur = .tile t k) (d : Nat)
    (f : Table Watch → Table Watch) (n : Nat) (x : Strand) :
    let u := ({ s with fresh := n }.modFrisket d f).retire x
    u.strand (.tile t k) = some (x.retired x.after) ∧ s.SameBytes u ∧ s.SameOthers u (.tile t k) ∧
      (u.die d).frisket = f (s.die d).frisket := by
  have hu : ({ s with fresh := n }.modFrisket d f).retire x =
      ({ s with fresh := n }.modFrisket d f).setStrand (.tile t k) (x.retired x.after) := by
    rw [State.retire_eq, ← hc]
    rfl
  have hs (q : Ref) : ({ s with fresh := n }.modFrisket d f).strand q = s.strand q :=
    (State.strand_modFrisket _ d f q).trans (((State.SameView.refl s).fresh n).strand q)
  dsimp only
  rw [hu]
  refine ⟨State.strand_setStrand_same _ _ _, fun _ => rfl,
    ⟨fun q hq => (State.strand_setStrand_other _ _ hq).trans (hs q), State.team_setStrand _ _ _⟩, ?_⟩
  rw [State.die_setStrand_tile]
  exact State.frisket_modFrisket _ d f

/-- A coordination instruction of a tile strand runs on its tile (R298). -/
theorem State.At.withCur_userOnly {s : State} {t k : Nat} {st : Strand} (hat : s.At (.tile t k) st)
    (f : Strand → Nat → State) : s.withCur (fun st => s.userOnly st (f st)) = .next (f st t) :=
  (hat.withCur _).trans (congrArg _ (State.userOnly_tile _ hat.1))

/-! ## WATCH -/

/-- What WATCH does once it has the 64 bytes of the entry (R194, R195). -/
def State.watchWith (s : State) (t : Nat) (st : Strand) (d : GReg) (ea : W64) (bs : List Byte) : State :=
  let w := parseWatch bs s.clk s.podTime s.fresh
  if watchOk (t / 256) bs w = false then s.raise st fcWatch ea
  else
    match s.freeWatch (t / 256) st.asid with
    | none => s.retire (st.wr d allOnes64)
    | some i => ({ s with fresh := s.fresh + 1 }.modFrisket (t / 256) (·.ins (256 * st.asid + i) w)).retire
        (st.wr d (BitVec.ofNat 64 i))

theorem State.takeData_none {s : State} {uid : Nat} (h : ∀ e ∈ s.data, e.1 ≠ uid) : s.takeData uid = none := by
  have hfind : s.data.find? (fun e => e.1 == uid) = none := by simpa [List.find?_eq_none] using h
  rw [State.takeData, hfind]

/-- WATCH of an aligned entry in the own scratchpad has its bytes in its own turn. -/
theorem exec_watch {s : State} {t k off : Nat} {st : Strand} {m : Team} {a : GReg} (hat : s.At (.tile t k) st)
    (h : OwnBytes s t st m (st.rd a) off 64) (hal : (st.rd a).toNat % 64 = 0) (hd : s.drained (.tile t k) st = true)
    (hdata : ∀ e ∈ s.data, e.1 ≠ st.uid) (d : GReg) :
    exec (.watch d a) s = .next (s.watchWith t st d (st.rd a) (Memory.readN s.mem (Loc.spad t off).key 64)) := by
  refine (hat.withCur_userOnly _).trans (congrArg _ ?_)
  dsimp only
  rw [hat.checked_own h (by decide) hal, Got.andThen_go, State.takeData_none hdata]
  dsimp only
  rw [hat.readData_own h hd]
  rfl

section
variable {s : State} {t k : Nat} {st : Strand} (hat : s.At (.tile t k) st) (d : GReg) (ea : W64) {bs : List Byte}
include hat

/-- An entry that fails its check (R195). -/
theorem State.At.watchWith_bad (hok : watchOk (t / 256) bs (parseWatch bs s.clk s.podTime s.fresh) = false) :
    Traps s (s.watchWith t st d ea bs) t k st fcWatch 0 ea := by
  simp only [State.watchWith, if_pos hok]
  exact State.traps_raise st fcWatch ea hat.1

/-- A context whose entries on the die are all in use (R194). -/
theorem State.At.watchWith_full (hok : watchOk (t / 256) bs (parseWatch bs s.clk s.podTime s.fresh) = true)
    (hfree : s.freeWatch (t / 256) st.asid = none) :
    s.watchWith t st d ea bs = s.setStrand (.tile t k) ((st.wr d (int (-1))).retired st.after) := by
  rw [← hat.1, int_neg_one]
  simp only [State.watchWith, hok, Bool.true_eq_false, if_false, hfree]
  rfl

end

/-- A context with a free entry on the die (R194). -/
theorem State.watchWith_free {s : State} {t : Nat} {st : Strand} (d : GReg) (ea : W64) {bs : List Byte}
    (hok : watchOk (t / 256) bs (parseWatch bs s.clk s.podTime s.fresh) = true) {i : Nat}
    (hfree : s.freeWatch (t / 256) st.asid = some i) :
    s.watchWith t st d ea bs =
      ({ s with fresh := s.fresh + 1 }.modFrisket (t / 256)
        (·.ins (256 * st.asid + i) (parseWatch bs s.clk s.podTime s.fresh))).retire (st.wr d (nat i)) := by
  simp only [State.watchWith, hok, Bool.true_eq_false, if_false, hfree]
  rfl

/-! ## UNWATCH and WQRY -/

section
variable {s : State} {t k : Nat} {st : Strand} (hat : s.At (.tile t k) st) {a : GReg}
include hat

theorem exec_unwatch (h : (st.rd a).toNat < 256) :
    exec (.unwatch a) s =
      .next ((s.modFrisket (t / 256) (·.del (256 * st.asid + (st.rd a).toNat))).retire st) :=
  (hat.withCur_userOnly _).trans (congrArg _ (if_neg (Nat.not_le.2 h)))

theorem exec_unwatch_fault (h : 256 ≤ (st.rd a).toNat) :
    exec (.unwatch a) s = .next (s.raise st fcWatch (st.rd a)) :=
  (hat.withCur_userOnly _).trans (congrArg _ (if_pos h))

theorem exec_wqry (d : GReg) (h : (st.rd a).toNat < 256) :
    exec (.wqry d a) s = .next (s.setStrand (.tile t k)
      ((st.wr d (s.watchState (t / 256) st.asid (st.rd a).toNat)).retired st.after)) := by
  refine (hat.withCur_userOnly _).trans (congrArg _ ?_)
  rw [← hat.1]
  exact if_neg (Nat.not_le.2 h)

theorem exec_wqry_fault (d : GReg) (h : 256 ≤ (st.rd a).toNat) :
    exec (.wqry d a) s = .next (s.raise st fcWatch (st.rd a)) :=
  (hat.withCur_userOnly _).trans (congrArg _ (if_pos h))

end

/-! ## The state word of an entry (R200) -/

/-- The word of R200 as a number, from bit 63 down: impressions dropped, impressions waiting, overprint, armed, valid. -/
def Watch.word (e : Watch) (n : Nat) : Nat :=
  e.dropped % 2 ^ 32 * 2 ^ 32 + Min.min 255 n * 2 ^ 8 + 4 * e.overprint.toNat + 2 * e.armed.toNat + 1

theorem Watch.word_lt (e : Watch) (n : Nat) : e.word n < 2 ^ 64 := by
  have ho := e.overprint.toNat_lt
  have ha := e.armed.toNat_lt
  unfold Watch.word
  omega

theorem State.watchState_free {s : State} {d a i : Nat} (h : (s.die d).frisket.find (256 * a + i) = none) :
    s.watchState d a i = 0 := by
  rw [State.watchState, h]

theorem State.watchState_installed {s : State} {d a i : Nat} {e : Watch}
    (h : (s.die d).frisket.find (256 * a + i) = some e) :
    s.watchState d a i =
      nat (e.word (s.waitingImps (fun x => !x.started && x.imp.any (fun y => y.inst == e.inst))).length) := by
  have hp : (fun x : Strand => x.isWaitingImp e.inst none) =
      fun x => !x.started && x.imp.any (fun y => y.inst == e.inst) := by
    funext x
    cases hx : x.imp <;> simp [Strand.isWaitingImp, hx]
  have hmin (n : Nat) : n.min 255 = Min.min 255 n := Nat.min_comm n 255
  simp only [State.watchState, h, hp, hmin, Watch.word, nat]
  cases e.overprint <;> cases e.armed <;> rfl

theorem getLsbD_eq_of_div_mod {x : W64} {i : Nat} {b : Bool} (h : x.toNat / 2 ^ i % 2 = b.toNat) : x.getLsbD i = b := by
  rw [← BitVec.testBit_toNat, Nat.testBit_eq_decide_div_mod_eq, h]
  cases b <;> rfl

/-- The fields of the word: bits 7:3 and 31:16 are 0. -/
theorem Watch.word_fields (e : Watch) (n : Nat) :
    (nat (e.word n)).getLsbD 0 = true ∧ (nat (e.word n)).getLsbD 1 = e.armed ∧
      (nat (e.word n)).getLsbD 2 = e.overprint ∧ (nat (e.word n)).toNat / 2 ^ 3 % 2 ^ 5 = 0 ∧
      (nat (e.word n)).toNat / 2 ^ 16 % 2 ^ 16 = 0 ∧ (nat (e.word n)).toNat / 2 ^ 8 % 2 ^ 8 = Min.min 255 n ∧
      (nat (e.word n)).toNat / 2 ^ 32 = e.dropped % 2 ^ 32 := by
  have hw : (nat (e.word n)).toNat =
      e.dropped % 2 ^ 32 * 2 ^ 32 + Min.min 255 n * 2 ^ 8 + 4 * e.overprint.toNat + 2 * e.armed.toNat + 1 :=
    toNat_nat (e.word_lt n)
  have ho := e.overprint.toNat_lt
  have ha := e.armed.toNat_lt
  refine ⟨getLsbD_eq_of_div_mod ?_, getLsbD_eq_of_div_mod ?_, getLsbD_eq_of_div_mod ?_, ?_, ?_, ?_, ?_⟩ <;> rw [hw]
  case refine_1 => rw [Bool.toNat_true]; omega
  all_goals omega

/-! ## The obligation -/

/-- Settles O28: WATCH by the outcome of its check and its search, UNWATCH and WQRY by the range of the index. -/
theorem watchResults : Obligations.WatchResults := by
  intro s t k off st m d a hat
  refine ⟨fun h hal hd hdata => ?_, fun hi => ⟨?_, ?_⟩, fun hi => ⟨?_, ?_⟩⟩
  · have he := exec_watch hat h hal hd hdata d
    refine ⟨fun hok => ?_, fun hok hfree => ?_, fun i hok hfree => ?_⟩
    · exact ⟨_, he, hat.watchWith_bad d _ hok⟩
    · rw [hat.watchWith_full d _ hok hfree] at he
      exact ⟨_, _, he, State.strand_setStrand_same s _ _, State.onlyStrand_setStrand s _ _,
        Strand.ended_retired st (st.wr d (int (-1))).g st.acq le_rfl _, Strand.writes_wr st d _⟩
    · rw [State.watchWith_free d _ hok hfree] at he
      obtain ⟨hs, hb, ho, hf⟩ := State.retire_modFrisket hat.1 (t / 256)
        (·.ins (256 * st.asid + i) (parseWatch _ s.clk s.podTime s.fresh)) (s.fresh + 1) (st.wr d (nat i))
      exact ⟨_, _, he, hs, hb, ho, Strand.ended_retired st (st.wr d (nat i)).g st.acq le_rfl _,
        Strand.writes_wr st d _, hf⟩
  · obtain ⟨hs, hb, ho, hf⟩ := State.retire_modFrisket hat.1 (t / 256)
      (·.del (256 * st.asid + (st.rd a).toNat)) s.fresh st
    exact ⟨_, _, exec_unwatch hat hi, hs, Strand.retired_after st, hb, ho, hf⟩
  · have hd (x : W64) : ((st.wr d x).retired st.after).rd d = x := Strand.rd_wr_same st d x
    refine ⟨_, exec_wqry hat d hi, Strand.ended_retired st (st.wr d _).g st.acq le_rfl _,
      fun j hj => Strand.rd_wr_other st _ hj, fun hfree => (hd _).trans (State.watchState_free hfree), fun e he => ?_⟩
    rw [hd, State.watchState_installed he]
    exact e.word_fields _
  · exact ⟨_, exec_unwatch_fault hat hi, State.traps_raise st fcWatch _ hat.1⟩
  · exact ⟨_, exec_wqry_fault hat d hi, State.traps_raise st fcWatch _ hat.1⟩

end Sys2Proof.Machine
end

section
/-! SUPPORT. Instructions of an anchored strand's team: when they run, what of the team they write, and that nothing else a
program sees changes (R101, R205, R208, R209). -/
namespace Sys2Proof.Machine
open Sys2Proof.Claims

/-! ## Execution -/

theorem Team.busyReg_eq_false {m : Team} {l : List VReg} (h : NoExch m l) : m.busyReg l = false := by
  simp only [Team.busyReg, List.any_eq_false, List.contains_iff_mem]
  exact h

theorem noExch_of_subset {m : Team} {l l' : List VReg} (h : NoExch m l) (hl : l' ⊆ l) : NoExch m l' :=
  fun e he hm => h e he (hl hm)

/-- A vector instruction runs on its team when no VXCH is still to write one of its registers (R208). -/
theorem State.InTeam.vec {s : State} {t k : Nat} {st : Strand} {m : Team} (h : s.InTeam t k st m) {l : List VReg}
    (hn : NoExch m l) (f : Strand → Nat → Team → State) : s.vec l f = .next (f st t m) := by
  obtain ⟨hat, hk, hm, -⟩ := h
  rw [State.vec, hat.withCur, State.withTeam_anchored _ hat.1 hk hm, Team.busyReg_eq_false hn]
  rfl

/-- A change of the team, the trace beside, and a retirement are all that a program sees. -/
theorem State.InTeam.teamStep {s u : State} {t k : Nat} {st : Strand} {m : Team} (h : s.InTeam t k st m)
    {f : Team → Team} (hu : (s.modTeam t f).SameView u) : TeamStep s (u.retire st) t k st (f m) := by
  obtain ⟨hat, -, hm, -⟩ := h
  have hc : u.cur = .tile t k := hu.cur.trans hat.1
  rw [State.retire_eq, hc]
  obtain ⟨⟨hq, hteam⟩, hb, hs⟩ := hu.trans_only (State.onlyStrand_setStrand u (.tile t k) (st.retired st.after))
  refine ⟨⟨_, State.strand_setStrand_same u _ _, Strand.retired_after st⟩, ?_, fun v hv => ?_, fun q hn => ?_, hb,
    ?_⟩
  · rw [hteam, State.team_modTeam_same, hm, Option.map_some]
  · rw [hteam, State.team_modTeam_other s f hv]
  · rw [hq q hn, State.strand_modTeam]
  · exact (State.SameSpecial.of_die_pkg (State.die_modTeam s t f) (fun _ => rfl)).trans hs

/-- An instruction that only changes the team runs and retires. -/
theorem State.InTeam.vecTeam {s : State} {t k : Nat} {st : Strand} {m : Team} (h : s.InTeam t k st m) {l : List VReg}
    (hn : NoExch m l) (f : Team → Team) : ∃ s', s.vecTeam l f = .next s' ∧ TeamStep s s' t k st (f m) :=
  ⟨_, h.vec hn _, h.teamStep (.refl _)⟩

/-! ## What of the team is written -/

theorem or_and_self_left (x y : W64) : (x ||| y) &&& x = x :=
  BitVec.eq_of_getLsbD_eq fun i _ => by
    rw [BitVec.getLsbD_and, BitVec.getLsbD_or]
    cases x.getLsbD i <;> simp

/-- Flags are only added, and each added one counts as raised (R46, R47). -/
theorem onlyV_setV_flag (m : Team) (d : VReg) (x : VWord) (f : W64) : OnlyV m ((m.setV d x).flag f) d := by
  refine ⟨rfl, fun r hr => Team.vr_setV_other m x hr, or_and_self_left _ _, or_and_self_left _ _, ?_⟩
  refine BitVec.eq_of_getLsbD_eq fun i hi => ?_
  simp only [Team.flag_aflags, Team.flag_raised, Team.setV_aflags, Team.setV_raised, BitVec.getLsbD_and,
    BitVec.getLsbD_or, BitVec.getLsbD_not, hi]
  cases m.aflags.getLsbD i <;> cases f.getLsbD i <;> simp

theorem Team.flag_zero (m : Team) : m.flag 0 = m := by simp [Team.flag]

theorem onlyV_setV (m : Team) (d : VReg) (x : VWord) : OnlyV m (m.setV d x) d := by
  have h := onlyV_setV_flag m d x 0
  rwa [Team.flag_zero] at h

theorem Team.pred_setP_same (m : Team) {d : PReg} (hd : d ≠ 0) (x : PWord) : (m.setP d x).pred d = x := by
  rw [Team.setP_eq m x hd, Team.pred, if_neg hd]
  exact Vector.getElem_set_self d.isLt

theorem Team.pred_setP_other (m : Team) {d r : PReg} (hr : r ≠ d) (x : PWord) : (m.setP d x).pred r = m.pred r := by
  by_cases hd : d = 0
  · rw [hd, Team.setP_zero]
  · have hne : d.toNat ≠ r.toNat := fun e => hr (BitVec.eq_of_toNat_eq e.symm)
    rw [Team.setP_eq m x hd, Team.pred, Team.pred, Vector.getElem_set_ne d.isLt r.isLt hne]

/-- A write of a predicate changes that predicate alone, and none when it is p0 (R101). -/
theorem onlyP_setP (m : Team) (d : PReg) (x : PWord) {bit : Nat → Bool} (h : ∀ j, j < 128 → x.getLsbD j = bit j) :
    OnlyP m (m.setP d x) d bit := by
  refine ⟨?_, fun r hr => m.pred_setP_other hr x, fun hd j hj => ?_, fun hd => ?_⟩
  · by_cases hd : d = 0
    · rw [hd, Team.setP_zero]
    · rw [Team.setP_eq m x hd]
  · rw [m.pred_setP_same hd, h j hj]
  · rw [hd, Team.setP_zero]

/-- An instruction that writes a predicate runs and retires, the write in the trace (R311). -/
theorem State.InTeam.writePred {s : State} {t k : Nat} {st : Strand} {m : Team} (h : s.InTeam t k st m) {l : List VReg}
    (hn : NoExch m l) (d : PReg) (f : Strand → Team → PWord) {bit : Nat → Bool}
    (hbit : ∀ j, j < 128 → (f st m).getLsbD j = bit j) :
    ∃ s' m', s.vec l (fun st t m => s.writePred st t d (f st m)) = .next s' ∧ TeamStep s s' t k st m' ∧
      OnlyP m m' d bit :=
  ⟨_, _, h.vec hn _, h.teamStep ((State.SameView.refl _).trace _ _ _), onlyP_setP m d _ hbit⟩

end Sys2Proof.Machine
end

section
/-! SUPPORT. Lanes as numbers, clamps, the bits of a predicate and the flags of many lanes (R35, R46, R206, R207, R216). -/
namespace Sys2Proof.Machine
open Sys2Proof.Claims

/-! ## Lanes (R206) -/

theorem lane_lt (v : VWord) (w j : Nat) : lane v w j < 2 ^ w := Nat.mod_lt _ (Nat.two_pow_pos w)

theorem laneWidth_pos (t : LaneType) : 0 < t.width := by cases t <;> decide

/-- A lane below the lane count lies in the register. -/
theorem laneWidth_mul_le {t : LaneType} {j : Nat} (h : j < t.lanes) : t.width * (j + 1) ≤ 1024 :=
  (Nat.mul_le_mul_left _ h).trans (Nat.mul_div_le _ _)

theorem laneWidth_le (t : LaneType) : t.width ≤ 32 := by cases t <;> decide

/-- A lane of a register whose lanes are given one by one. -/
theorem lane_packLanes_range {w n j : Nat} (f : Nat → Nat) (hj : j < n) (hw : w * (j + 1) ≤ 1024) :
    lane (packLanes w ((List.range n).map f)) w j = f j % 2 ^ w := by
  rw [lane_packLanes _ _ _ hw, List.getD_eq_getElem _ _ (by simpa using hj), List.getElem_map, List.getElem_range]

theorem sx_eq_sgn {w x : Nat} (hw : 0 < w) (hx : x < 2 ^ w) : sx w x = sgn w x := by
  have h2 : 2 ^ w = 2 * 2 ^ (w - 1) := by rw [← Nat.pow_succ', Nat.succ_eq_add_one, Nat.sub_add_cancel hw]
  rw [sx, sgn, BitVec.toInt_eq_toNat_cond, BitVec.toNat_ofNat, Nat.mod_eq_of_lt hx]
  push_cast
  split <;> split <;> omega

theorem sx_lane (v : VWord) (t : LaneType) (j : Nat) : sx t.width (lane v t.width j) = sgn t.width (lane v t.width j) :=
  sx_eq_sgn (laneWidth_pos t) (lane_lt v t.width j)

theorem intBits_eq_wrap (w : Nat) (x : Int) : intBits w x = wrap w x := by
  rw [intBits, wrap, BitVec.toNat_ofInt]
  push_cast
  rfl

theorem wrap_lt (w : Nat) (x : Int) : wrap w x < 2 ^ w := intBits_eq_wrap w x ▸ BitVec.isLt _

/-- The model's clamp, its bits beside its flag (R35). -/
theorem satW_eq_clamp (w : Nat) (x : Int) : (intBits w (satW w x).1, (satW w x).2) = clamp w x := by
  have hle : (-(2 ^ (w - 1)) : Int) ≤ 2 ^ (w - 1) - 1 := by
    have := Int.pow_pos (m := w - 1) (show (0 : Int) < 2 by decide)
    omega
  simp only [satW, satInt, clamp, intBits_eq_wrap]
  split
  · next hlo => rw [max_eq_left (by omega), if_pos (.inl hlo)]
  · next hlo =>
    split
    · next hhi => rw [min_eq_left hhi.le, max_eq_right hle, if_pos (.inr hhi)]
    · next hhi => rw [min_eq_right (not_lt.1 hhi), max_eq_right (not_lt.1 hlo), if_neg (by omega)]

/-! ## Flags of many lanes (R46) -/

/-- A flag is set when it was or when one of a list sets it. -/
theorem getLsbD_foldl_or {α : Type} (g : α → W64) (l : List α) (z : W64) (b : Nat) :
    (l.foldl (fun a x => a ||| g x) z).getLsbD b = (z.getLsbD b || l.any fun x => (g x).getLsbD b) := by
  induction l generalizing z with
  | nil => simp
  | cons x l ih => rw [List.foldl_cons, ih, BitVec.getLsbD_or, List.any_cons, Bool.or_assoc]

/-! ## Active lanes (R207) -/

theorem lane_mergeLanes {t : LaneType} {j : Nat} (hj : j < t.lanes) (old : VWord) (p : PWord) (f : Nat → Nat × W64) :
    lane (mergeLanes t.width old p f).1 t.width j =
      if p.getLsbD j then (f j).1 % 2 ^ t.width else lane old t.width j := by
  rw [mergeLanes, List.map_map]
  refine (lane_packLanes_range _ hj (laneWidth_mul_le hj)).trans ?_
  simp only [Function.comp_apply]
  split
  · rfl
  · exact Nat.mod_eq_of_lt (lane_lt _ _ _)

/-- Only active lanes set flags. -/
theorem getLsbD_mergeLanes (t : LaneType) (old : VWord) (p : PWord) (f : Nat → Nat × W64) (b : Nat) :
    (mergeLanes t.width old p f).2.getLsbD b = (List.range t.lanes).any fun j => p.getLsbD j && (f j).2.getLsbD b := by
  have hz : (0 : W64).getLsbD b = false := BitVec.getLsbD_zero
  rw [mergeLanes, getLsbD_foldl_or, hz, Bool.false_or, List.any_map]
  congr 1
  funext j
  simp only [Function.comp_apply]
  cases p.getLsbD j <;> simp

/-! ## The bits of a predicate (R101) -/

theorem testBit_sum_range (f : Nat → Bool) (n j : Nat) :
    (((List.range n).map fun i => if f i then 2 ^ i else 0).sum).testBit j = (decide (j < n) && f j) := by
  induction n generalizing j with
  | zero => simp
  | succ n ih =>
    rw [List.sum_range_succ]
    generalize ((List.range n).map fun i => if f i then 2 ^ i else 0).sum = x at ih ⊢
    have hx : x < 2 ^ n := Nat.lt_pow_two_of_testBit x fun i hi => by
      rw [ih, decide_eq_false (Nat.not_lt.2 hi), Bool.false_and]
    have hbit : (if f n then 2 ^ n else 0) = 2 ^ n * (f n).toNat := by cases f n <;> simp
    rw [hbit, Nat.add_comm, Nat.two_pow_add_eq_or_of_lt hx, Nat.testBit_or, Nat.testBit_two_pow_mul,
      Nat.testBit_bool_toNat, ih]
    rcases Nat.lt_trichotomy j n with h | rfl | h
    · simp [h, h.not_ge, h.trans n.lt_succ_self]
    · simp
    · simp [h.not_gt, (show j - n ≠ 0 by omega), (show ¬ j < n + 1 by omega)]

theorem getLsbD_packBits {n : Nat} (hn : n ≤ 128) (f : Nat → Bool) (j : Nat) :
    (packBits n f).getLsbD j = (decide (j < n) && f j) := by
  have hsum : packBits n f = BitVec.ofNat 128 ((List.range n).map fun i => if f i then 2 ^ i else 0).sum := by
    rw [packBits, List.sum_eq_foldr, List.foldr_map]
  rw [hsum, BitVec.getLsbD_ofNat, testBit_sum_range, ← Bool.and_assoc, ← Bool.decide_and]
  congr 2
  exact propext ⟨And.right, fun h => ⟨h.trans_le hn, h⟩⟩

end Sys2Proof.Machine
end

section
/-! SUPPORT. The instructions that write or count predicates (R101, R219, R234, R235). -/
namespace Sys2Proof.Machine
open Sys2Proof.Claims

/-! ## Comparisons (R219) -/

/-- The signed or floating order of two lanes. -/
theorem ltLane_eq {t : LaneType} {x y : Nat} (hx : x < 2 ^ t.width) (hy : y < 2 ^ t.width) :
    ltLane t x y = if t.int then decide (sgn t.width x < sgn t.width y) else (fpLane t x).ltNum (fpLane t y) := by
  rw [ltLane, sx_eq_sgn (laneWidth_pos t) hx, sx_eq_sgn (laneWidth_pos t) hy]

/-- Every comparison writes the relation of its row, taken of lanes. -/
theorem exec_compareOf {i : Instr} {d : PReg} {a b : VReg} {p : PReg} {t : LaneType} {rel : Nat → Nat → Bool}
    (h : compareOf i = some (d, a, b, p, t, rel)) :
    ∃ r : Nat → Nat → Bool, (∀ x y, x < 2 ^ t.width → y < 2 ^ t.width → r x y = rel x y) ∧
      ∀ s, exec i s = s.compare d a b p t r := by
  cases i
  case vcmpEq => cases h; exact ⟨_, fun _ _ _ _ => rfl, fun _ => rfl⟩
  case vcmpNe => cases h; exact ⟨_, fun _ _ _ _ => rfl, fun _ => rfl⟩
  case vcmpLt => cases h; exact ⟨_, fun _ _ hx hy => ltLane_eq hx hy, fun _ => rfl⟩
  case vcmpLe =>
    cases h
    exact ⟨_, fun _ _ hx hy => congrArg (· || eqLane _ _ _) (ltLane_eq hx hy), fun _ => rfl⟩
  case vcmpLtu => cases h; exact ⟨_, fun _ _ _ _ => rfl, fun _ => rfl⟩
  case vcmpLeu => cases h; exact ⟨_, fun _ _ _ _ => rfl, fun _ => rfl⟩
  all_goals exact nomatch h

/-! ## The statement -/

section
variable {s : State} {t k : Nat} {st : Strand} {m : Team} (h : s.InTeam t k st m)
include h

theorem compareResults {i : Instr} {d : PReg} {a b : VReg} {p : PReg} {ty : LaneType} {rel : Nat → Nat → Bool}
    (hi : compareOf i = some (d, a, b, p, ty, rel)) (hn : NoExch m [a, b]) :
    ∃ s' m', exec i s = .next s' ∧ TeamStep s s' t k st m' ∧ OnlyP m m' d (fun j =>
      decide (j < ty.lanes) && (m.pred p).getLsbD j && rel (lane (m.vr a) ty.width j) (lane (m.vr b) ty.width j)) := by
  obtain ⟨r, hr, he⟩ := exec_compareOf hi
  have hl : ty.lanes ≤ 128 := by cases ty <;> decide
  rw [he]
  refine h.writePred hn d (fun _ m => packBits ty.lanes fun j => (m.pred p).getLsbD j &&
    r (lane (m.vr a) ty.width j) (lane (m.vr b) ty.width j)) fun j _ => ?_
  rw [getLsbD_packBits hl, hr _ _ (lane_lt _ _ _) (lane_lt _ _ _), Bool.and_assoc]

/-- An operation on predicates alone names no vector register. -/
theorem State.InTeam.predOp (d : PReg) (f : Strand → Team → PWord) {bit : Nat → Bool}
    (hbit : ∀ j, j < 128 → (f st m).getLsbD j = bit j) :
    ∃ s' m', s.predOp d f = .next s' ∧ TeamStep s s' t k st m' ∧ OnlyP m m' d bit :=
  h.writePred (fun _ _ => List.not_mem_nil) d f hbit

theorem psetResults (d : PReg) (g : GReg) {mode : LaneType} (hm : mode = .b ∨ mode = .h ∨ mode = .w) :
    ∃ s' m', exec (.pset d g mode) s = .next s' ∧ TeamStep s s' t k st m' ∧ OnlyP m m' d (fun j =>
      if mode = .b then decide (j < (st.rd g).toNat) else if mode = .h then (st.rd g).getLsbD j
      else (st.rd g).getLsbD (j / 16)) := by
  refine h.predOp d (fun st _ => packBits 128 (psetBits mode (st.rd g))) fun j hj => ?_
  rw [getLsbD_packBits le_rfl, decide_eq_true hj, Bool.true_and]
  obtain rfl | rfl | rfl := hm <;> rfl

theorem pcntResults (d : GReg) (a : PReg) (ty : LaneType) :
    ∃ st', exec (.pcnt d a ty) s = .next (s.setStrand (.tile t k) st') ∧ st.Ended st' (st.fetch.own + 4) ∧
      st.Writes st' d (nat ((List.range ty.lanes).filter (fun j => (m.pred a).getLsbD j)).length) := by
  have he : exec (.pcnt d a ty) s = _ := h.vec (fun _ _ => List.not_mem_nil) _
  obtain ⟨⟨hc, -⟩, -⟩ := h
  rw [List.countP_eq_length_filter, State.retire_eq, hc] at he
  exact ⟨_, he, Strand.ended_retired st (st.wr d _).g st.acq le_rfl _, Strand.writes_wr st d _⟩

end

/-- Settles O35: each instruction by the bits that it gives its predicate, and PCNT by what it writes into gd. -/
theorem predicateResults : Obligations.PredicateResults := by
  intro s t k st m h
  refine ⟨fun i d a b p ty rel hi hn => compareResults h hi hn, fun d a b => ⟨?_, ?_, ?_⟩,
    fun d g mode hm => psetResults h d g hm, fun d a ty => pcntResults h d a ty⟩
  · exact h.predOp d (fun _ m => m.pred a &&& m.pred b) fun j _ => BitVec.getLsbD_and
  · exact h.predOp d (fun _ m => m.pred a ||| m.pred b) fun j _ => BitVec.getLsbD_or
  · exact h.predOp d (fun _ m => ~~~(m.pred a)) fun j hj => by rw [BitVec.getLsbD_not, decide_eq_true hj, Bool.true_and]

end Sys2Proof.Machine
end

section
/-! SUPPORT. The numbers of R43 to R45: what the bits of a format denote, exact sums, products and inverses, the order of
finite data, and the rounding of a magnitude. -/
namespace Sys2Proof.Machine
open Sys2Proof.Claims

/-! ## Finite data -/

/-- The sign of a datum as a factor. -/
def signQ (s : Bool) : ℚ := if s then -1 else 1

theorem signQ_false : signQ false = 1 := rfl

theorem signQ_true : signQ true = -1 := rfl

theorem signQ_not (s : Bool) : signQ (!s) = -signQ s := by cases s <;> simp [signQ]

theorem signQ_xor (s t : Bool) : signQ (s != t) = signQ s * signQ t := by cases s <;> cases t <;> simp [signQ]

theorem val_fin (s : Bool) (n d : Nat) : val (.fin s n d) = signQ s * ((n : ℚ) / d) := rfl

theorem finiteVal_fin (s : Bool) (n : Nat) {d : Nat} (hd : 0 < d) : FiniteVal (.fin s n d) := ⟨s, n, d, rfl, hd⟩

/-- The pattern of a magnitude below infinity's denotes a finite datum (R43). -/
theorem magVal_finite (s : Bool) {mb c : Nat} (h : c < 255 * 2 ^ mb) :
    FiniteVal (magVal s mb c) ∧ val (magVal s mb c) = signQ s * magnitude mb c := by
  have hp : 0 < 2 ^ mb := Nat.two_pow_pos mb
  have he : c / 2 ^ mb ≠ 255 := (Nat.div_lt_of_lt_mul (by rwa [Nat.mul_comm])).ne
  rw [magVal, magnitude, if_neg he]
  by_cases hc : c < 2 ^ mb
  · rw [if_pos (Nat.div_eq_of_lt hc), if_pos hc, Nat.mod_eq_of_lt hc]
    refine ⟨finiteVal_fin _ _ (Nat.two_pow_pos _), ?_⟩
    rw [val_fin, zpow_neg, ← div_eq_mul_inv]
    norm_cast
  · have hpos : c / 2 ^ mb ≠ 0 := (Nat.div_pos (not_lt.1 hc) hp).ne'
    rw [if_neg hpos, if_neg hc]
    generalize c / 2 ^ mb = e
    dsimp only
    split
    · next hle =>
      obtain ⟨k, rfl⟩ := Nat.exists_eq_add_of_le hle
      refine ⟨finiteVal_fin _ _ one_pos, ?_⟩
      have hk : ((127 + mb + k : ℕ) : ℤ) - 127 - mb = k := by push_cast; ring
      rw [val_fin, hk, Nat.add_sub_cancel_left, zpow_natCast]
      push_cast
      ring
    · next hlt =>
      obtain ⟨k, hk⟩ := Nat.exists_eq_add_of_le (Nat.le_of_not_le hlt)
      refine ⟨finiteVal_fin _ _ (Nat.two_pow_pos _), ?_⟩
      have hz : (e : ℤ) - 127 - mb = -(k : ℤ) := by omega
      rw [val_fin, hz, show 127 + mb - e = k by omega, zpow_neg, zpow_natCast]
      push_cast
      ring

/-- The greatest exponent without a fraction denotes infinity (R43). -/
theorem magVal_inf (s : Bool) (mb : Nat) : magVal s mb (255 * 2 ^ mb) = .inf s := by
  have hp : 0 < 2 ^ mb := Nat.two_pow_pos mb
  rw [magVal, Nat.mul_div_cancel _ hp, Nat.mul_mod_left]
  rfl

/-- Above infinity's pattern stand the NaNs (R43). -/
theorem magVal_nan (s : Bool) {mb c : Nat} (hlo : 255 * 2 ^ mb < c) (hhi : c < 2 ^ (mb + 8)) : magVal s mb c = .nan s := by
  have hp : 0 < 2 ^ mb := Nat.two_pow_pos mb
  have hhi : c < 256 * 2 ^ mb := hhi.trans_eq (by rw [Nat.pow_add, Nat.mul_comm])
  have he : c / 2 ^ mb = 255 := Nat.div_eq_of_lt_le hlo.le hhi
  have hm : c % 2 ^ mb ≠ 0 := by
    have := Nat.div_add_mod c (2 ^ mb)
    rw [he, Nat.mul_comm] at this
    omega
  rw [magVal, if_pos he, if_neg hm]

/-! ## Arithmetic (R44, R45) -/

section
variable {n m d e : Nat} (s t : Bool) (hd : 0 < d) (he : 0 < e)
include hd he

theorem add_fin : FiniteVal ((FVal.fin s n d).add (.fin t m e)) ∧
    val ((FVal.fin s n d).add (.fin t m e)) = val (.fin s n d) + val (.fin t m e) := by
  have hdq : (d : ℚ) ≠ 0 := Nat.cast_ne_zero.2 hd.ne'
  have heq : (e : ℚ) ≠ 0 := Nat.cast_ne_zero.2 he.ne'
  have hde : 0 < d * e := Nat.mul_pos hd he
  rw [FVal.add]
  split
  · next hst =>
    subst hst
    refine ⟨finiteVal_fin _ _ hde, ?_⟩
    rw [val_fin, val_fin, val_fin]
    push_cast
    field_simp
  · next hst =>
    obtain rfl : t = !s := Bool.eq_not_of_ne (Ne.symm hst)
    dsimp only
    split
    · next hxy =>
      have hxy : (n : ℚ) * e = m * d := by exact_mod_cast hxy
      refine ⟨finiteVal_fin _ _ one_pos, ?_⟩
      rw [val_fin, val_fin, val_fin, signQ_not, (div_eq_div_iff hdq heq).2 hxy]
      push_cast
      ring
    · split
      · next hlt =>
        refine ⟨finiteVal_fin _ _ hde, ?_⟩
        rw [val_fin, val_fin, val_fin, signQ_not, Nat.cast_sub hlt.le]
        push_cast
        field_simp
        ring
      · next hlt =>
        refine ⟨finiteVal_fin _ _ hde, ?_⟩
        rw [val_fin, val_fin, val_fin, signQ_not, Nat.cast_sub (not_lt.1 hlt)]
        push_cast
        field_simp
        ring

theorem mul_fin : FiniteVal ((FVal.fin s n d).mul (.fin t m e)) ∧
    val ((FVal.fin s n d).mul (.fin t m e)) = val (.fin s n d) * val (.fin t m e) := by
  refine ⟨finiteVal_fin _ _ (Nat.mul_pos hd he), ?_⟩
  rw [FVal.mul, val_fin, val_fin, val_fin, signQ_xor]
  push_cast
  ring

/-- The order of finite data is that of their numbers, with −0 below +0. -/
theorem lt_fin : (FVal.fin s n d).lt (.fin t m e) = true ↔
    val (.fin s n d) < val (.fin t m e) ∨ val (.fin s n d) = val (.fin t m e) ∧ s = true ∧ t = false := by
  have hdq : (0 : ℚ) < d := Nat.cast_pos.2 hd
  have heq : (0 : ℚ) < e := Nat.cast_pos.2 he
  have hx : (0 : ℚ) ≤ n / d := by positivity
  have hy : (0 : ℚ) ≤ m / e := by positivity
  have hlt : (n : ℚ) / d < m / e ↔ n * e < m * d := by rw [div_lt_div_iff₀ hdq heq]; norm_cast
  have hgt : (m : ℚ) / e < n / d ↔ m * d < n * e := by rw [div_lt_div_iff₀ heq hdq]; norm_cast
  rw [FVal.lt, val_fin, val_fin]
  generalize (n : ℚ) / d = x, (m : ℚ) / e = y at hx hy hlt hgt ⊢
  cases s <;> cases t <;> simp only [signQ_false, signQ_true, one_mul, neg_one_mul]
  case false.false => simp [hlt]
  case false.true => simp [(show ¬ x < -y by linarith)]
  case true.false => simpa using lt_or_eq_of_le (show -x ≤ y by linarith)
  case true.true => simp [hgt]

end

/-- A zero sum is −0 only of two −0 (R44). -/
theorem add_fin_zero {s t u : Bool} {n m d e q : Nat}
    (h : (FVal.fin s n d).add (.fin t m e) = .fin u 0 q) : u = (s && t) := by
  rw [FVal.add] at h
  split at h
  · next hst =>
    rw [← (FVal.fin.inj h).1, hst, Bool.and_self]
  · next hst =>
    obtain rfl : t = !s := Bool.eq_not_of_ne (Ne.symm hst)
    rw [Bool.and_not_self]
    dsimp only at h
    split at h
    · cases h
      rfl
    · split at h
      · next hlt => exact absurd (FVal.fin.inj h).2.1 (Nat.sub_pos_of_lt hlt).ne'
      · next hne hle => exact absurd (FVal.fin.inj h).2.1 (Nat.sub_pos_of_lt (lt_of_le_of_ne (not_lt.1 hle) hne)).ne'

theorem rcp_fin (s : Bool) {n d : Nat} (h : val (.fin s n d) ≠ 0) :
    FiniteVal (FVal.fin s n d).rcp ∧ val (FVal.fin s n d).rcp = 1 / val (.fin s n d) := by
  have hn : n ≠ 0 := fun h0 => h (by rw [val_fin, h0, Nat.cast_zero, zero_div, mul_zero])
  rw [FVal.rcp, if_neg hn]
  refine ⟨finiteVal_fin _ _ (Nat.pos_of_ne_zero hn), ?_⟩
  rw [val_fin, val_fin]
  cases s <;> simp [signQ]

theorem val_neg_fin (s : Bool) (n d : Nat) : val (FVal.fin s n d).neg = -val (.fin s n d) := by
  rw [FVal.neg, val_fin, val_fin, signQ_not, neg_mul]

/-- The integer nearest a number, ties to even, is that of its magnitude with its sign (R11). -/
theorem toIntRne_fin (s : Bool) (n : Nat) {d : Nat} (hd : 0 < d) :
    NearestInt (val (.fin s n d)) (FVal.fin s n d).toIntRne := by
  obtain ⟨hnear, heven⟩ := rneDiv_nearest n hd
  rw [val_fin, FVal.toIntRne]
  cases s with
  | false =>
    simp only [signQ, one_mul, Bool.false_eq_true, if_false]
    exact ⟨hnear, fun h => by exact_mod_cast heven h⟩
  | true =>
    have hneg : -1 * ((n : ℚ) / d) - ((-(rneDiv n d : ℤ) : ℤ) : ℚ) = -((n : ℚ) / d - rneDiv n d) := by
      push_cast
      ring
    simp only [signQ, if_true, NearestInt, hneg, abs_neg]
    refine ⟨hnear, fun h => ?_⟩
    have := heven h
    omega

/-! ## Rounding (R43) -/

/-- A magnitude rounds to the nearest bits. -/
theorem nearestBits_roundMag {mb : Nat} (n : Nat) {d : Nat} (h1 : 1 ≤ mb) (hm : mb ≤ 126) (hd : 0 < d) :
    NearestBits mb ((n : ℚ) / d) (roundMag mb n d) := by
  have h := roundMag_nearest n h1 hm hd
  rw [NearestBits]
  split
  · next hov => rwa [if_pos hov] at h
  · next hov =>
    rw [if_neg hov] at h
    obtain ⟨hlt, hnear⟩ := h
    refine ⟨hlt, fun k _ => ?_⟩
    by_cases hk : k = roundMag mb n d
    · rw [hk]
      exact ⟨le_rfl, fun _ hne => absurd rfl hne⟩
    · exact ⟨(hnear k hk).1, fun he _ => (hnear k hk).2 he⟩

/-- The bits and flags of a rounded finite datum. -/
theorem toBits_fin (s z : Bool) (mb n d : Nat) :
    (FVal.fin s n d).toBits mb z =
      ((if s then 2 ^ (mb + 8) else 0) + (if z = true ∧ roundMag mb n d < 2 ^ mb then 0 else roundMag mb n d),
        if roundMag mb n d = 255 * 2 ^ mb then flOvf
        else if z = true ∧ roundMag mb n d < 2 ^ mb ∧ roundMag mb n d ≠ 0 then flUnf else 0) := by
  have hle : roundMag mb n d ≤ 255 * 2 ^ mb := by
    rw [roundMag]
    split
    · exact Nat.zero_le _
    · exact Nat.min_le_right _ _
  have hp : 0 < 2 ^ mb := Nat.two_pow_pos mb
  rw [FVal.toBits]
  generalize roundMag mb n d = c at hle ⊢
  by_cases hov : c = 255 * 2 ^ mb
  · have hsub : ¬ (z = true ∧ c < 2 ^ mb) := by omega
    rw [if_pos hov.ge, if_pos hov, if_neg hsub]
  · rw [if_neg (by omega), if_neg hov]
    by_cases hsub : z = true ∧ c < 2 ^ mb
    · rw [if_pos hsub, if_pos hsub, Nat.add_zero]
      by_cases h0 : c = 0 <;> simp [h0, hsub]
    · have hunf : ¬ (z = true ∧ c < 2 ^ mb ∧ c ≠ 0) := fun ⟨hz, hc, _⟩ => hsub ⟨hz, hc⟩
      rw [if_neg hsub, if_neg hsub, if_neg hunf]

/-! ## The numbers as the statement has them -/

theorem rounding : Rounding := by
  refine ⟨fun mb c s hc => ⟨magVal_finite s, fun h => h ▸ magVal_inf s mb, fun h => magVal_nan s h hc⟩, ?_, ?_, ?_, ?_,
    ?_⟩
  · rintro _ _ ⟨s, n, d, rfl, hd⟩ ⟨t, m, e, rfl, he⟩
    obtain ⟨hadd, hsum⟩ := add_fin (n := n) (m := m) s t hd he
    obtain ⟨hmul, hprod⟩ := mul_fin (n := n) (m := m) s t hd he
    exact ⟨hadd, hsum, hmul, hprod, val_neg_fin s n d, rcp_fin s, toIntRne_fin s n hd⟩
  · exact fun s t n m d e _ _ => ⟨fun _ _ => add_fin_zero, ⟨_, _, rfl⟩, rfl, rfl, rfl, rfl, rfl, rfl⟩
  · exact fun s x => ⟨rfl, by cases x <;> rfl, rfl, by cases x <;> rfl⟩
  · rintro _ _ ⟨s, n, d, rfl, hd⟩ ⟨t, m, e, rfl, he⟩
    rw [lt_fin s t hd he]
    simp
  · intro mb z s hmb
    refine ⟨rfl, rfl, fun n d hd => ⟨_, nearestBits_roundMag n ?_ ?_ hd, toBits_fin s z mb n d⟩⟩ <;> omega

end Sys2Proof.Machine
end

section
/-! SUPPORT. The vector instructions that compute lane by lane (R205 to R209, R214, R216, R217, R230, R231, R233). -/
namespace Sys2Proof.Machine
open Sys2Proof.Claims

/-! ## Integer lanes (R216) -/

theorem intBits_add (w x y : Nat) : intBits w (sx w x + sx w y) = (x + y) % 2 ^ w := by
  rw [intBits, sx, sx, BitVec.ofInt_add, BitVec.ofInt_toInt, BitVec.ofInt_toInt, ← BitVec.ofNat_add, BitVec.toNat_ofNat]

theorem intBits_sub {w x y : Nat} (hx : x < 2 ^ w) (hy : y < 2 ^ w) :
    intBits w (sx w x - sx w y) = (x + 2 ^ w - y) % 2 ^ w := by
  rw [intBits, sx, sx, Int.sub_eq_add_neg, BitVec.ofInt_add, BitVec.ofInt_neg, BitVec.ofInt_toInt, BitVec.ofInt_toInt,
    ← BitVec.sub_eq_add_neg, BitVec.toNat_sub, BitVec.toNat_ofNat, BitVec.toNat_ofNat, Nat.mod_eq_of_lt hx,
    Nat.mod_eq_of_lt hy]
  congr 1
  omega

theorem intBits_mul (w x y : Nat) : intBits w (sx w x * sx w y) = x * y % 2 ^ w := by
  rw [intBits, sx, sx, BitVec.ofInt_mul, BitVec.ofInt_toInt, BitVec.ofInt_toInt, ← BitVec.ofNat_mul, BitVec.toNat_ofNat]

/-! ## The lane that each row gives -/

/-- An arithmetic row: exact integers modulo 2^w, or one rounding. -/
theorem arith2_eq {t : LaneType} {fi : Int → Int → Int} {ff : FVal → FVal → FVal} {x y z : Nat}
    (h : intBits t.width (fi (sx t.width x) (sx t.width y)) = z) :
    arith2 t fi ff x y = if t.int then (z, 0) else rounded t [fpLane t x, fpLane t y] (ff (fpLane t x) (fpLane t y)) := by
  rw [arith2, h]
  rfl

theorem laneLt_eq {t : LaneType} {x y : Nat} (hx : x < 2 ^ t.width) (hy : y < 2 ^ t.width) :
    laneLt t x y = below t x y := by
  rw [laneLt, below, sx_eq_sgn (laneWidth_pos t) hx, sx_eq_sgn (laneWidth_pos t) hy]

theorem laneLt_eq_not_le {t : LaneType} {x y : Nat} (hx : x < 2 ^ t.width) (hy : y < 2 ^ t.width) :
    laneLt t x y = if t.int then decide (¬ sgn t.width y ≤ sgn t.width x) else (fpLane t x).lt (fpLane t y) := by
  simp only [not_le]
  exact laneLt_eq hx hy

/-- The lane of VMIN and VMAX (R216, R217): the second where the first does not do, and the canonical NaN for any NaN. -/
theorem pickLane_eq {t : LaneType} {second lt : Bool} {P : Prop} [Decidable P]
    (h : second = if t.int then decide (¬ P) else lt) (x y : Nat) :
    pickLane t second x y = if t.int then if P then x else y
      else if (fpLane t x).isNan || (fpLane t y).isNan then nanLane t else if lt then y else x := by
  cases ht : t.int <;> simp [pickLane, laneNan, h, ht]

/-- VMAC of lanes (R216). -/
theorem macLane_eq {w x y z : Nat} (hw : 0 < w) (hx : x < 2 ^ w) (hy : y < 2 ^ w) (hz : z < 2 ^ w) :
    macLane w x y z = clamp w (sgn w z + sgn w x * sgn w y) := by
  rw [← satW_eq_clamp, ← sx_eq_sgn hw hx, ← sx_eq_sgn hw hy, ← sx_eq_sgn hw hz]
  rfl

theorem absLane_eq {t : LaneType} {x : Nat} (hx : x < 2 ^ t.width) :
    absLane t x = if t.int then wrap t.width |sgn t.width x|
      else if t = .f8 ∧ x = 0x80 then 1 else x % 2 ^ (t.width - 1) := by
  rw [absLane, intBits_eq_wrap, sx_eq_sgn (laneWidth_pos t) hx]

theorem negLane_eq {t : LaneType} {x : Nat} (hx : x < 2 ^ t.width) :
    negLane t x = if t.int then wrap t.width (-sgn t.width x)
      else if t = .f8 ∧ x = 0 then 0 else if t = .f8 ∧ x = 0x80 then 1
      else (x + 2 ^ (t.width - 1)) % 2 ^ t.width := by
  rw [negLane, intBits_eq_wrap, sx_eq_sgn (laneWidth_pos t) hx]

theorem vsarLane_eq {t : LaneType} {x : Nat} (hx : x < 2 ^ t.width) (c : Nat) :
    intBits t.width (sx t.width x / 2 ^ Nat.min c (t.width - 1)) =
      wrap t.width (sgn t.width x / 2 ^ Min.min c (t.width - 1)) := by
  rw [intBits_eq_wrap, sx_eq_sgn (laneWidth_pos t) hx]

/-! ## Execution -/

/-- A meaning that gives the active lanes of register d, for the strand st of team m, the lanes and flags of f. -/
def LaneWise (e : State → Host.Outcome State Fault Refusal) (st : Strand) (m : Team) (d : VReg) (src : List VReg)
    (p : PReg) (t : LaneType) (f : Nat → Nat × W64) : Prop :=
  ∃ g : Strand → Team → Nat → Nat × W64, g st m = f ∧ ∀ s, e s = s.vec (d :: src) (fun st u _ =>
    (s.modTeam u (fun m => m.lanes d p t.width (g st m))).retire st)

section
variable {st : Strand} {m : Team} {d a b : VReg} {p : PReg} {t : LaneType} {f : Nat → Nat × W64}

theorem laneWise_one {x : Nat → Nat × W64} (e : State → Host.Outcome State Fault Refusal)
    (he : ∀ s, e s = s.lanes1 d a p t x) (hx : ∀ j, x (lane (m.vr a) t.width j) = f j) : LaneWise e st m d [a] p t f :=
  ⟨fun _ m j => x (lane (m.vr a) t.width j), funext hx, he⟩

theorem laneWise_two {x : Nat → Nat → Nat × W64} (e : State → Host.Outcome State Fault Refusal)
    (he : ∀ s, e s = s.lanes2 d a b p t x)
    (hx : ∀ j, x (lane (m.vr a) t.width j) (lane (m.vr b) t.width j) = f j) : LaneWise e st m d [a, b] p t f :=
  ⟨fun _ m j => x (lane (m.vr a) t.width j) (lane (m.vr b) t.width j), funext hx, he⟩

theorem laneWise_three {x : Nat → Nat → Nat → Nat × W64} (e : State → Host.Outcome State Fault Refusal)
    (he : ∀ s, e s = s.lanes3 d a b p t x)
    (hx : ∀ j, x (lane (m.vr a) t.width j) (lane (m.vr b) t.width j) (lane (m.vr d) t.width j) = f j) :
    LaneWise e st m d [a, b] p t f :=
  ⟨fun _ m j => x (lane (m.vr a) t.width j) (lane (m.vr b) t.width j) (lane (m.vr d) t.width j), funext hx, he⟩

end

/-- Every lane-by-lane instruction gives the active lanes of its destination the lanes of its row. -/
theorem exec_laneOf {i : Instr} {st : Strand} {m : Team} {d : VReg} {src : List VReg} {p : PReg} {t : LaneType}
    {f : Nat → Nat × W64} (h : Claims.laneOf i st m = some (d, src, p, t, f)) : LaneWise (exec i) st m d src p t f := by
  have hl {v : VWord} {w j : Nat} : lane v w j < 2 ^ w := lane_lt v w j
  cases i
  case vadd d a b p t =>
    cases h
    exact laneWise_two (execVadd d a b p t) (fun _ => rfl) fun _ => arith2_eq (intBits_add _ _ _)
  case vsub d a b p t =>
    cases h
    exact laneWise_two (execVsub d a b p t) (fun _ => rfl) fun _ => arith2_eq (intBits_sub hl hl)
  case vmul d a b p t =>
    cases h
    exact laneWise_two (execVmul d a b p t) (fun _ => rfl) fun _ => arith2_eq (intBits_mul _ _ _)
  case vmac d a b p t =>
    cases h
    exact laneWise_three (execVmac d a b p t) (fun _ => rfl) fun _ => macLane_eq (laneWidth_pos _) hl hl hl
  case vfma d a b p t => cases h; exact laneWise_three (execVfma d a b p t) (fun _ => rfl) fun _ => rfl
  case vmin d a b p t =>
    cases h
    exact laneWise_two (execVmin d a b p t) (fun _ => rfl) fun _ =>
      congrArg (·, 0) (pickLane_eq (laneLt_eq_not_le hl hl) _ _)
  case vmax d a b p t =>
    cases h
    exact laneWise_two (execVmax d a b p t) (fun _ => rfl) fun _ =>
      congrArg (·, 0) (pickLane_eq (laneLt_eq_not_le hl hl) _ _)
  case vabs d a p t =>
    cases h
    exact laneWise_one (execVabs d a p t) (fun _ => rfl) fun _ => congrArg (·, 0) (absLane_eq hl)
  case vneg d a p t =>
    cases h
    exact laneWise_one (execVneg d a p t) (fun _ => rfl) fun _ => congrArg (·, 0) (negLane_eq hl)
  case vshl d a b p t => cases h; exact laneWise_two (execVshl d a b p t) (fun _ => rfl) fun _ => rfl
  case vshr d a b p t => cases h; exact laneWise_two (execVshr d a b p t) (fun _ => rfl) fun _ => rfl
  case vsar d a b p t =>
    cases h
    exact laneWise_two (execVsar d a b p t) (fun _ => rfl) fun _ => congrArg (·, 0) (vsarLane_eq hl _)
  case vand d a b p t => cases h; exact laneWise_two (execVand d a b p t) (fun _ => rfl) fun _ => rfl
  case vor d a b p t => cases h; exact laneWise_two (execVor d a b p t) (fun _ => rfl) fun _ => rfl
  case vxor d a b p t => cases h; exact laneWise_two (execVxor d a b p t) (fun _ => rfl) fun _ => rfl
  case vbcst d a p t => cases h; exact ⟨fun st _ _ => ((st.rd a).toNat % 2 ^ t.width, 0), rfl, fun _ => rfl⟩
  case vmov d a p t => cases h; exact laneWise_one (execVmov d a p t) (fun _ => rfl) fun _ => rfl
  case vperm d a k p t =>
    cases h
    exact ⟨fun _ m j => (if lane (m.vr k) t.width j < t.lanes
      then lane (m.vr a) t.width (lane (m.vr k) t.width j) else 0, 0), rfl, fun _ => rfl⟩
  case vslid d a b p t =>
    cases h
    exact ⟨fun st m j => (if 0 ≤ (j : Int) + (st.rd b).toInt ∧ (j : Int) + (st.rd b).toInt < t.lanes
      then lane (m.vr a) t.width ((j : Int) + (st.rd b).toInt).toNat else 0, 0), rfl, fun _ => rfl⟩
  case vexp2 d a p t => cases h; exact laneWise_one (execVexp2 d a p t) (fun _ => rfl) fun _ => rfl
  case vrcp d a p t => cases h; exact laneWise_one (execVrcp d a p t) (fun _ => rfl) fun _ => rfl
  case vrsq d a p t => cases h; exact laneWise_one (execVrsq d a p t) (fun _ => rfl) fun _ => rfl
  case vtunp d a p =>
    cases h
    refine ⟨fun _ m => tritLane (m.vr a), funext fun j => ?_, fun _ => rfl⟩
    cases hv : t5Trits (BitVec.ofNat 8 (lane (m.vr a) 8 (j / 5))) <;> simp only [tritLane, hv, intBits_eq_wrap]
  all_goals exact nomatch h

/-! ## The statement -/

theorem laneResults : LaneResults := by
  intro s t k st m i d src p ty f h hi hn
  obtain ⟨g, rfl, he⟩ := exec_laneOf hi
  refine ⟨_, m.lanes d p ty.width (g st m), (he s).trans (h.vec hn _), h.teamStep (.refl _), onlyV_setV_flag m d _ _,
    fun j hj => ?_, fun b => ?_⟩
  · rw [Team.lanes, Team.vr_flag, Team.vr_setV_same, lane_mergeLanes hj]
  · rw [Team.lanes, Team.flag_aflags, Team.setV_aflags, BitVec.getLsbD_or, getLsbD_mergeLanes]

/-- Settles O33: the numbers are those of R43 to R45, and each instruction gives its active lanes the lanes of its row. -/
theorem vectorLaneResults : Obligations.VectorLaneResults := ⟨rounding, laneResults⟩

end Sys2Proof.Machine
end

section
/-! SUPPORT. Select, the reductions and the packing of trits (R51, R218, R220, R221, R232). -/
namespace Sys2Proof.Machine
open Sys2Proof.Claims

/-- A register that holds a number of 32 bits, every other bit 0. -/
theorem toNat_ofNat_of_lt {x w : Nat} (h : x < 2 ^ 32) (hw : 32 ≤ w) : (BitVec.ofNat w x).toNat = x := by
  rw [BitVec.toNat_ofNat, Nat.mod_eq_of_lt (h.trans_le (Nat.pow_le_pow_right two_pos hw))]

theorem any_or {α : Type} (f g : α → Bool) (l : List α) : (l.any fun x => f x || g x) = (l.any f || l.any g) := by
  induction l with
  | nil => rfl
  | cons x l ih => simp only [List.any_cons, ih, Bool.or_assoc, Bool.or_left_comm]

/-! ## Sums (R51, R220) -/

/-- On integer lanes: the exact sum, clamped to 32 bits. -/
theorem rsum_int {t : LaneType} (ht : t.int = true) (v : VWord) (p : PWord) :
    rsum t v p = clamp 32 ((((List.range t.lanes).filter fun j => p.getLsbD j).map
      fun j => sgn t.width (lane v t.width j)).sum) := by
  have hs (j : Nat) : slane v t.width j = sgn t.width (lane v t.width j) := sx_lane v t j
  rw [← satW_eq_clamp, List.sum_eq_foldl, List.foldl_map, rsum, if_pos ht]
  simp only [hs]
  rfl

/-- The lanes and the collected flags of a floating sum after some halvings. -/
def halvedRow (t : LaneType) (x : Nat → Nat) (i : Nat) : List Nat × W64 :=
  ((List.range (t.lanes / 2 ^ i)).map fun j => (halved t x i j).1,
    (List.range (t.lanes / 2 ^ i)).foldl (fun a j => a ||| (halved t x i j).2) 0)

/-- Each halving adds the upper half of the lanes to the lower half, and collects the flags (R51). -/
theorem sumStep_halvedRow {t : LaneType} (ht : t.int = false) (x : Nat → Nat) {i h : Nat} (hh : t.lanes / 2 ^ (i + 1) = h)
    (h2 : t.lanes / 2 ^ i = h + h) : sumStep t (halvedRow t x i) = halvedRow t x (i + 1) := by
  have hlanes : (halvedRow t x i).1 = (List.range h).map (fun j => (halved t x i j).1) ++
      (List.range h).map (fun j => (halved t x i (j + h)).1) := by
    rw [halvedRow, h2, List.range_add, List.map_append, List.map_map]
    simp only [Function.comp_def, Nat.add_comm h]
  have hlen : (halvedRow t x i).1.length / 2 = h := by
    rw [hlanes, List.length_append, List.length_map, List.length_map, List.length_range]
    omega
  have hsum (j : Nat) : arith2 t (· + ·) FVal.add (halved t x i j).1 (halved t x i (j + h)).1 =
      rounded t [fpLane t (halved t x i j).1, fpLane t (halved t x i (j + h)).1]
        ((fpLane t (halved t x i j).1).add (fpLane t (halved t x i (j + h)).1)) := by
    rw [arith2, ht]
    rfl
  rw [sumStep, hlen, hlanes, List.take_left' (by simp), List.drop_left' (by simp), List.zip_map', List.map_map]
  refine Prod.ext ?_ (BitVec.eq_of_getLsbD_eq fun b _ => ?_)
  · simp only [halvedRow, hh, List.map_map, Function.comp_def, hsum, halved]
  · simp only [halvedRow, hh, h2, getLsbD_foldl_or, List.any_map, Function.comp_def, hsum, halved, BitVec.getLsbD_or,
      List.range_add, List.any_append, any_or, Nat.add_comm h, Bool.or_assoc]

/-- The lane count is a power of two. -/
theorem lanes_eq_two_pow (t : LaneType) : t.lanes = 2 ^ t.lanes.log2 := by cases t <;> decide

/-- The sum tree halves until one lane remains. -/
theorem sumTree_halvedRow {t : LaneType} (ht : t.int = false) (x : Nat → Nat) (fuel : Nat) {i : Nat}
    (hi : i ≤ t.lanes.log2) (hf : t.lanes.log2 ≤ i + fuel) :
    sumTree fuel t (halvedRow t x i) = halvedRow t x t.lanes.log2 := by
  have hlen (i k : Nat) (hk : i + k = t.lanes.log2) : t.lanes / 2 ^ i = 2 ^ k := by
    rw [lanes_eq_two_pow, ← hk, Nat.pow_add, Nat.mul_div_cancel_left _ (Nat.two_pow_pos i)]
  induction fuel generalizing i with
  | zero => rw [sumTree, le_antisymm hi hf]
  | succ fuel ih =>
    rw [sumTree]
    obtain ⟨k, hk⟩ := Nat.exists_eq_add_of_le hi
    have hrow : (halvedRow t x i).1.length = 2 ^ k := by
      rw [halvedRow, List.length_map, List.length_range, hlen i k hk.symm]
    rw [hrow]
    cases k with
    | zero => rw [if_pos (Nat.pow_zero 2).le, hk, Nat.add_zero]
    | succ k =>
      have hstep := sumStep_halvedRow ht x (hlen (i + 1) k (by omega)) ((hlen i (k + 1) hk.symm).trans (Nat.two_pow_succ k))
      rw [if_neg (not_le.2 (Nat.one_lt_two_pow k.succ_ne_zero)), hstep]
      exact ih (by omega) (by omega)

/-- On floating lanes: the sum by halving, inactive lanes −0; of no lane +0. -/
theorem rsum_float {t : LaneType} (ht : t.int = false) (v : VWord) (p : PWord) :
    rsum t v p = if ((List.range t.lanes).filter fun j => p.getLsbD j) = [] then (0, 0)
      else halved t (fun j => if p.getLsbD j then lane v t.width j else 2 ^ (t.width - 1)) t.lanes.log2 0 := by
  have hk : t.lanes.log2 ≤ 7 := by cases t <;> decide
  have hone : t.lanes / 2 ^ t.lanes.log2 = 1 := by cases t <;> decide
  have hzero (x : Nat → Nat) : ((List.range t.lanes).map x, (0 : W64)) = halvedRow t x 0 := by
    simp [halvedRow, halved]
  simp only [rsum, ht, hzero, sumTree_halvedRow ht _ 7 (Nat.zero_le _) (hk.trans_eq (Nat.zero_add 7).symm)]
  simp [halvedRow, hone]

/-- A rounded lane has at most 32 bits. -/
theorem rounded_lt (t : LaneType) (ops : List FVal) (x : FVal) : (rounded t ops x).1 < 2 ^ 32 := by
  have h16 (y : BitVec 16) : y.toNat < 2 ^ 32 := y.isLt.trans (by decide)
  have h8 (y : BitVec 8) : y.toNat < 2 ^ 32 := y.isLt.trans (by decide)
  cases t
  case f | fz | w => exact BitVec.isLt _
  case bf | bfz | h => exact h16 _
  case f8 | b => exact h8 _

theorem halved_lt (t : LaneType) (x : Nat → Nat) (i j : Nat) : (halved t x (i + 1) j).1 < 2 ^ 32 := by
  rw [halved]
  dsimp only
  exact rounded_lt _ _ _

/-! ## Greatest and least (R221) -/

/-- Going through a list and keeping what a relation prefers ends with the greatest by the key that the relation compares. -/
theorem foldl_extreme {K : Type} [LinearOrder K] {S : Nat → Prop} {R : Nat → Nat → Bool} {key : Nat → K}
    (hR : ∀ a b, S a → S b → (R a b = true ↔ key a < key b)) (l : List Nat) {x : Nat} (hx : S x) (hl : ∀ y ∈ l, S y) :
    l.foldl (fun a y => if R a y then y else a) x ∈ x :: l ∧
      ∀ y ∈ x :: l, key y ≤ key (l.foldl (fun a y => if R a y then y else a) x) := by
  induction l generalizing x with
  | nil => simp
  | cons y l ih =>
    have hy : S y := hl y List.mem_cons_self
    have hl' : ∀ z ∈ l, S z := fun z hz => hl z (List.mem_cons_of_mem y hz)
    rw [List.foldl_cons]
    by_cases h : R x y = true
    · rw [if_pos h]
      obtain ⟨hmem, hmax⟩ := ih hy hl'
      refine ⟨List.mem_cons_of_mem x hmem, fun z hz => ?_⟩
      rcases List.mem_cons.1 hz with rfl | hz
      · exact ((hR _ _ hx hy).1 h).le.trans (hmax y List.mem_cons_self)
      · exact hmax z hz
    · rw [if_neg h]
      obtain ⟨hmem, hmax⟩ := ih hx hl'
      refine ⟨?_, fun z hz => ?_⟩
      · rcases List.mem_cons.1 hmem with he | hm
        · rw [he]
          exact List.mem_cons_self
        · exact List.mem_cons_of_mem x (List.mem_cons_of_mem y hm)
      · rcases List.mem_cons.1 hz with rfl | hz
        · exact hmax z List.mem_cons_self
        · rcases List.mem_cons.1 hz with rfl | hz
          · exact (not_lt.1 fun hlt => h ((hR _ _ hx hy).2 hlt)).trans (hmax x List.mem_cons_self)
          · exact hmax z (List.mem_cons_of_mem x hz)

/-- The place of a datum in the order of R221: infinities at the ends, −0 below +0. -/
def rankOf : FVal → ℤ ×ₗ ℚ ×ₗ Bool
  | .nan _ => toLex (0, toLex (0, false))
  | .inf s => toLex (if s then -1 else 1, toLex (0, false))
  | .fin s n d => toLex (0, toLex (val (.fin s n d), !s))

/-- A datum that bits denote, no NaN. -/
def NumberVal (x : FVal) : Prop := FiniteVal x ∨ ∃ s, x = .inf s

theorem lt_iff_rankOf {x y : FVal} (hx : NumberVal x) (hy : NumberVal y) : x.lt y = true ↔ rankOf x < rankOf y := by
  obtain ⟨s, n, d, rfl, hd⟩ | ⟨s, rfl⟩ := hx <;> obtain ⟨t, m, e, rfl, he⟩ | ⟨t, rfl⟩ := hy
  · rw [lt_fin s t hd he]
    simp [rankOf, Prod.Lex.toLex_lt_toLex, Bool.lt_iff]
  · cases t <;> simp [rankOf, FVal.lt, Prod.Lex.toLex_lt_toLex]
  · cases s <;> simp [rankOf, FVal.lt, Prod.Lex.toLex_lt_toLex]
  · cases s <;> cases t <;> simp [rankOf, FVal.lt, Prod.Lex.toLex_lt_toLex]

/-- The bits of a lane denote a number when they denote no NaN. -/
theorem numberVal_magVal (s : Bool) {mb c : Nat} (hc : c < 2 ^ (mb + 8)) (h : (magVal s mb c).isNan = false) :
    NumberVal (magVal s mb c) := by
  rcases Nat.lt_trichotomy c (255 * 2 ^ mb) with hlt | rfl | hgt
  · exact .inl (magVal_finite s hlt).1
  · exact .inr ⟨s, magVal_inf s mb⟩
  · rw [magVal_nan s hgt hc] at h
    exact nomatch h

theorem numberVal_ofF8 {b : Byte} (h : (FVal.ofF8 b).isNan = false) : NumberVal (FVal.ofF8 b) := by
  rw [FVal.ofF8] at h ⊢
  split at h
  · exact nomatch h
  · next hn =>
    rw [if_neg hn]
    split
    · exact .inl (finiteVal_fin _ _ one_pos)
    · split
      · exact .inl (finiteVal_fin _ _ one_pos)
      · exact .inl (finiteVal_fin _ _ (Nat.two_pow_pos _))

theorem numberVal_fpLane {t : LaneType} {x : Nat} (h : (fpLane t x).isNan = false) : NumberVal (fpLane t x) := by
  cases t
  case bf | bfz => exact numberVal_magVal _ (Nat.mod_lt _ (by decide)) h
  case f | fz => exact numberVal_magVal _ (Nat.mod_lt _ (by decide)) h
  case f8 => exact numberVal_ofF8 h
  case b | h | w => exact .inl (finiteVal_fin _ _ one_pos)

/-- The place of a lane in the order of its type. -/
def laneKey (t : LaneType) (x : Nat) : ℤ ×ₗ ℚ ×ₗ Bool :=
  if t.int then toLex (sgn t.width x, toLex (0, false)) else rankOf (fpLane t x)

/-- A lane of the type, no NaN. -/
def NumberLane (t : LaneType) (x : Nat) : Prop := x < 2 ^ t.width ∧ laneNan t x = false

theorem below_iff_laneKey {t : LaneType} {x y : Nat} (hx : NumberLane t x) (hy : NumberLane t y) :
    below t x y = true ↔ laneKey t x < laneKey t y := by
  obtain ⟨-, hx⟩ := hx
  obtain ⟨-, hy⟩ := hy
  cases ht : t.int with
  | true => simp [below, laneKey, ht, Prod.Lex.toLex_lt_toLex]
  | false =>
    simp only [laneNan, ht, Bool.not_false, Bool.true_and] at hx hy
    simp only [below, laneKey, ht, Bool.false_eq_true, if_false]
    exact lt_iff_rankOf (numberVal_fpLane hx) (numberVal_fpLane hy)

theorem laneLt_iff_laneKey {t : LaneType} {x y : Nat} (hx : NumberLane t x) (hy : NumberLane t y) :
    laneLt t x y = true ↔ laneKey t x < laneKey t y := by
  rw [laneLt_eq hx.1 hy.1]
  exact below_iff_laneKey hx hy

/-- The pick of a reduction from lanes without a NaN is one of them, and none is beyond it. -/
theorem foldl_pick {t : LaneType} (greatest : Bool) {x : Nat} {l : List Nat} (h : ∀ y ∈ x :: l, NumberLane t y) :
    let r := l.foldl (fun a y => if greatest then (if laneLt t a y then y else a)
      else if laneLt t y a then y else a) x
    r ∈ x :: l ∧ ∀ y ∈ x :: l, (if greatest then below t r y else below t y r) = false := by
  have hx : NumberLane t x := h x List.mem_cons_self
  have hl : ∀ y ∈ l, NumberLane t y := fun y hy => h y (List.mem_cons_of_mem x hy)
  cases greatest with
  | true =>
    obtain ⟨hmem, hmax⟩ := foldl_extreme (key := laneKey t) (fun _ _ => laneLt_iff_laneKey) l hx hl
    exact ⟨hmem, fun y hy => Bool.eq_false_iff.2 fun hb =>
      (hmax y hy).not_gt ((below_iff_laneKey (h _ hmem) (h y hy)).1 hb)⟩
  | false =>
    obtain ⟨hmem, hmin⟩ := foldl_extreme (R := fun a y => laneLt t y a) (key := fun x => OrderDual.toDual (laneKey t x))
      (fun _ _ ha hb => laneLt_iff_laneKey hb ha) l hx hl
    exact ⟨hmem, fun y hy => Bool.eq_false_iff.2 fun hb =>
      (hmin y hy).not_gt ((below_iff_laneKey (h y hy) (h _ hmem)).1 hb)⟩

theorem rmaxNone_eq (t : LaneType) (greatest : Bool) : rmaxNone t greatest = overNone t greatest := by
  cases t <;> cases greatest <;> rfl

theorem nanLane_eq {t : LaneType} (ht : t.int = false) : nanLane t = quietNan t := by
  cases t
  case b | h | w => exact nomatch ht
  all_goals rfl

/-- VRMAX and VRMIN pick the greatest and the least active lane. -/
theorem extreme_rpick (t : LaneType) (greatest : Bool) (v : VWord) (p : PWord) :
    Extreme t greatest (((List.range t.lanes).filter fun j => p.getLsbD j).map fun j => lane v t.width j)
      (rpick t greatest v p) := by
  have hlt : ∀ y ∈ ((List.range t.lanes).filter fun j => p.getLsbD j).map (fun j => lane v t.width j),
      y < 2 ^ t.width := by
    simp only [List.mem_map]
    rintro _ ⟨j, -, rfl⟩
    exact lane_lt _ _ _
  rw [Extreme, rpick]
  generalize ((List.range t.lanes).filter fun j => p.getLsbD j).map (fun j => lane v t.width j) = l at hlt ⊢
  have hany : l.any (laneNan t) = true ↔ t.int = false ∧ (l.any fun y => (fpLane t y).isNan) = true := by
    cases ht : t.int <;> simp [laneNan, ht]
  cases l with
  | nil => exact rmaxNone_eq t greatest
  | cons x l =>
    rw [if_neg (List.cons_ne_nil x l)]
    by_cases hn : (x :: l).any (laneNan t) = true
    · rw [if_pos (hany.1 hn), if_pos hn]
      exact nanLane_eq (hany.1 hn).1
    · rw [if_neg fun h => hn (hany.2 h), if_neg hn]
      simp only [List.any_eq_true, not_exists, not_and, Bool.not_eq_true] at hn
      exact foldl_pick greatest fun y hy => ⟨hlt y hy, hn y hy⟩

/-- The greatest or least of lanes has at most 32 bits. -/
theorem lt_of_extreme {t : LaneType} {greatest : Bool} {l : List Nat} {r : Nat} (h : Extreme t greatest l r)
    (hl : ∀ y ∈ l, y < 2 ^ t.width) : r < 2 ^ 32 := by
  rw [Extreme] at h
  split at h
  · rw [h]
    cases t <;> cases greatest <;> decide
  · split at h
    · rw [h]
      cases t <;> decide
    · exact (hl r h.1).trans_le (Nat.pow_le_pow_right two_pos (laneWidth_le t))

/-! ## Trits (R232) -/

/-- Setting one flag for some of a list sets it when there is one. -/
theorem foldl_or_ite (x : W64) (c : Nat → Bool) (l : List Nat) (z : W64) :
    l.foldl (fun a j => a ||| if c j then x else 0) z = z ||| if l.any c then x else 0 := by
  induction l generalizing z with
  | nil => simp
  | cons j l ih =>
    rw [List.foldl_cons, ih, List.any_cons, BitVec.or_assoc]
    cases c j <;> cases l.any c <;> simp

theorem sign_eq_ite (x : Int) : x.sign = if 0 < x then 1 else if x < 0 then -1 else 0 := by
  rcases lt_trichotomy x 0 with h | rfl | h
  · rw [Int.sign_eq_neg_one_of_neg h, if_neg h.not_gt, if_pos h]
  · rfl
  · rw [Int.sign_eq_one_of_pos h, if_pos h]

/-- An active byte lane packs to its sign, with SAT for a magnitude above 1. -/
theorem packTrit_eq {j : Nat} (hj : j < 125) (v : VWord) (p : PWord) :
    packTrit v p j = (if p.getLsbD j then (sgn 8 (lane v 8 j)).sign else 0,
      if p.getLsbD j && decide (1 < (sgn 8 (lane v 8 j)).natAbs) then flSat else 0) := by
  have hs : slane v 8 j = sgn 8 (lane v 8 j) := sx_eq_sgn (by decide) (lane_lt v 8 j)
  rw [packTrit, hs, sign_eq_ite]
  cases hp : p.getLsbD j <;> simp [hj]

/-! ## The statement -/

section
variable {s : State} {t k : Nat} {st : Strand} {m : Team} (h : s.InTeam t k st m) (d a b : VReg) (p : PReg) (ty : LaneType)
include h

theorem vselResults (hn : NoExch m [d, a, b]) : ∃ s' m', exec (.vsel d a b p ty) s = .next s' ∧
    TeamStep s s' t k st m' ∧ OnlyV m m' d ∧ m'.aflags = m.aflags ∧
    ∀ j, j < ty.lanes → lane (m'.vr d) ty.width j =
      if (m.pred p).getLsbD j then lane (m.vr a) ty.width j else lane (m.vr b) ty.width j := by
  obtain ⟨s', he, hs⟩ := h.vecTeam hn fun m => m.setV d (packLanes ty.width ((List.range ty.lanes).map fun j =>
    if (m.pred p).getLsbD j then lane (m.vr a) ty.width j else lane (m.vr b) ty.width j))
  refine ⟨s', _, he, hs, onlyV_setV m d _, rfl, fun j hj => ?_⟩
  rw [Team.vr_setV_same, lane_packLanes_range _ hj (laneWidth_mul_le hj)]
  split <;> exact Nat.mod_eq_of_lt (lane_lt _ _ _)

/-- VRSUM writes the number and adds the flags of its sum. -/
theorem vrsumResults (hn : NoExch m [d, a]) (hlt : (rsum ty (m.vr a) (m.pred p)).1 < 2 ^ 32) :
    ∃ s' m', exec (.vrsum d a p ty) s = .next s' ∧ TeamStep s s' t k st m' ∧ OnlyV m m' d ∧
      (m'.vr d).toNat = (rsum ty (m.vr a) (m.pred p)).1 ∧ m'.aflags = m.aflags ||| (rsum ty (m.vr a) (m.pred p)).2 := by
  obtain ⟨s', he, hs⟩ := h.vecTeam hn fun m =>
    (m.setV d (BitVec.ofNat 1024 (rsum ty (m.vr a) (m.pred p)).1)).flag (rsum ty (m.vr a) (m.pred p)).2
  refine ⟨s', _, he, hs, onlyV_setV_flag m d _ _, ?_, rfl⟩
  rw [Team.vr_flag, Team.vr_setV_same, toNat_ofNat_of_lt hlt (by decide)]

/-- VRMAX and VRMIN write their pick. -/
theorem rpickResults (hn : NoExch m [d, a]) (greatest : Bool) :
    ∃ s' m', s.vecTeam [d, a] (fun m => m.setV d (BitVec.ofNat 1024 (rpick ty greatest (m.vr a) (m.pred p)))) = .next s' ∧
      TeamStep s s' t k st m' ∧ OnlyV m m' d ∧ m'.aflags = m.aflags ∧
      Extreme ty greatest (((List.range ty.lanes).filter fun j => (m.pred p).getLsbD j).map
        fun j => lane (m.vr a) ty.width j) (m'.vr d).toNat := by
  have hex := extreme_rpick ty greatest (m.vr a) (m.pred p)
  have hlt : rpick ty greatest (m.vr a) (m.pred p) < 2 ^ 32 := lt_of_extreme hex fun y hy => by
    obtain ⟨j, -, rfl⟩ := List.mem_map.1 hy
    exact lane_lt _ _ _
  obtain ⟨s', he, hs⟩ := h.vecTeam hn fun m =>
    m.setV d (BitVec.ofNat 1024 (rpick ty greatest (m.vr a) (m.pred p)))
  refine ⟨s', _, he, hs, onlyV_setV m d _, rfl, ?_⟩
  rwa [Team.vr_setV_same, toNat_ofNat_of_lt hlt (by decide)]

theorem vtpkResults (hn : NoExch m [d, a]) : ∃ s' m', exec (.vtpk d a p) s = .next s' ∧ TeamStep s s' t k st m' ∧
    OnlyV m m' d ∧
    m'.aflags = m.aflags ||| (if (List.range 125).any (fun j => (m.pred p).getLsbD j &&
      decide (1 < (sgn 8 (lane (m.vr a) 8 j)).natAbs)) then flSat else 0) ∧
    (∀ j, 25 ≤ j → j < 128 → lane (m'.vr d) 8 j = 0) ∧
    ∀ j, j < 25 → lane (m'.vr d) 8 j = (t5Byte ((List.range 5).map (fun c =>
      if (m.pred p).getLsbD (5 * j + c) then (sgn 8 (lane (m.vr a) 8 (5 * j + c))).sign else 0))).toNat := by
  obtain ⟨s', he, hs⟩ := h.vecTeam hn fun m => (m.setV d (packLanes 8 ((List.range 25).map fun i =>
    (t5Byte ((List.range 5).map fun k => (packTrit (m.vr a) (m.pred p) (5 * i + k)).1)).toNat))).flag
      ((List.range 125).foldl (fun f j => f ||| (packTrit (m.vr a) (m.pred p) j).2) 0)
  refine ⟨s', _, he, hs, onlyV_setV_flag m d _ _, ?_, fun j hlo hhi => ?_, fun j hj => ?_⟩
  · have hflags : (List.range 125).foldl (fun f j => f ||| (packTrit (m.vr a) (m.pred p) j).2) 0 =
        (List.range 125).foldl (fun f j => f ||| if (m.pred p).getLsbD j &&
          decide (1 < (sgn 8 (lane (m.vr a) 8 j)).natAbs) then flSat else 0) 0 :=
      List.foldl_ext _ _ _ fun f j hj => by rw [packTrit_eq (List.mem_range.1 hj)]
    rw [Team.flag_aflags, Team.setV_aflags, hflags, foldl_or_ite]
    exact congrArg (m.aflags ||| ·) BitVec.zero_or
  · rw [Team.vr_flag, Team.vr_setV_same, lane_packLanes _ _ _ (by omega), List.getD_eq_default _ _ (by simpa using hlo)]
    rfl
  · rw [Team.vr_flag, Team.vr_setV_same, lane_packLanes_range _ hj (by omega), Nat.mod_eq_of_lt (BitVec.isLt _)]
    congr 2
    refine List.map_congr_left fun c hc => ?_
    have hc := List.mem_range.1 hc
    rw [packTrit_eq (by omega)]

end

/-- Settles O34: each instruction by the value that it gives vd and the flags that it sets. -/
theorem selectReduceResults : Obligations.SelectReduceResults := by
  intro s t k st m d a b p ty h hn
  have hn' : NoExch m [d, a] := noExch_of_subset hn (by simp)
  refine ⟨vselResults h d a b p ty hn, fun hint => ?_, fun hint _ => ?_, rpickResults h d a p ty hn' true,
    rpickResults h d a p ty hn' false, vtpkResults h d a p hn'⟩
  · have hr := vrsumResults h d a p ty hn'
    rw [rsum_int hint] at hr
    exact hr (wrap_lt 32 _)
  · have hr := vrsumResults h d a p ty hn'
    rw [rsum_float hint] at hr
    by_cases hact : ((List.range ty.lanes).filter fun j => (m.pred p).getLsbD j) = []
    · have hz : m.aflags ||| 0 = m.aflags := BitVec.or_zero
      rw [if_pos hact, hz] at hr
      simp only [if_pos hact]
      exact hr (by decide)
    · rw [if_neg hact] at hr
      simp only [if_neg hact]
      obtain ⟨i, hi⟩ : ∃ i, ty.lanes.log2 = i + 1 := ⟨ty.lanes.log2 - 1, by cases ty <;> decide⟩
      rw [hi] at hr ⊢
      exact hr (halved_lt ty _ i 0)

end Sys2Proof.Machine
end
